-- ==== Sys2Proof/Word.lean ====
section
/-!
DEFINITION. The word types of the Gnoden module and their plainest readings (00_scope.md R4, R5, R9).
-/

namespace Sys2Proof

/-- A scalar word: 64 bits (13_control_slice.md R356). -/
abbrev Word := BitVec 64

/-- The smallest addressable unit (00_scope.md R5). -/
abbrev Byte := BitVec 8

/-- A run of bytes, byte 0 first (00_scope.md R5). -/
abbrev Bytes := List (BitVec 8)

/-- A scalar register field, x0-x31 (02_bundles.md R40). -/
abbrev XReg := BitVec 5

/-- A lane operand code (02_bundles.md R48). -/
abbrev VCode := BitVec 7

/-- The number of logical tiles, 84 columns by 66 rows (01_module.md R15). -/
abbrev tileCount : Nat := 5544

end Sys2Proof
end

