-- ==== Sys2Proof/Machine/Bits.lean ====
section
/-!
DEFINITION. Bit-field, sign-extension and byte-order helpers, each written once (00_scope.md R4, R5, R9).
-/

namespace Sys2Proof.Machine

/-- Bits [lo+w-1 : lo] of a word (R4). -/
def bits {n : Nat} (lo w : Nat) (x : BitVec n) : BitVec w := x.extractLsb' lo w

/-- Bit `i` of a word. -/
def bit {n : Nat} (i : Nat) (x : BitVec n) : Bool := x.getLsbD i

/-- Bits [lo+w-1 : lo] of a natural number. -/
def nbits (lo w x : Nat) : Nat := (x / 2 ^ lo) % 2 ^ w

/-- Bits [lo+w-1 : lo] replaced. -/
def setBits {n : Nat} (lo w : Nat) (x : BitVec n) (v : BitVec w) : BitVec n :=
  (x &&& ~~~(((BitVec.allOnes w).setWidth n) <<< lo)) ||| ((v.setWidth n) <<< lo)

/-- sint of an immediate, as a 64-bit word (R9). -/
def sext64 {n : Nat} (x : BitVec n) : BitVec 64 := x.signExtend 64

/-- A truth value as a 64-bit word. -/
def b2w (b : Bool) : BitVec 64 := if b then 1 else 0

/-- Little-endian value of bytes, byte 0 first (R5). -/
def ofBytes : Bytes → Nat
  | [] => 0
  | b :: rest => b.toNat + 256 * ofBytes rest

/-- The `n` little-endian bytes of a value (R5). -/
def toBytes : Nat → Nat → Bytes
  | 0, _ => []
  | n + 1, v => BitVec.ofNat 8 v :: toBytes n (v / 256)

/-- `n` bytes from position `i` of a byte string, short where the string ends. -/
def slice (i n : Nat) (b : Bytes) : Bytes := (b.drop i).take n

/-- The little-endian value of `n` bytes at position `i`. -/
def leAt (i n : Nat) (b : Bytes) : Nat := ofBytes (slice i n b)

/-- Replace `d.length` bytes at position `i`. -/
def splice (i : Nat) (d b : Bytes) : Bytes := b.take i ++ d ++ b.drop (i + d.length)

/-- The number of bits a value needs: 0 for zero. -/
def bitLen (x : Nat) : Nat := if x = 0 then 0 else Nat.log2 x + 1

/-- Leading zero bits of a `w`-bit value: `w` for zero (13_control_slice.md R360). -/
def clzN (w x : Nat) : Nat := w - bitLen x

/-- Trailing zero bits of a value below 2^w: w for zero. -/
def ctzN : Nat → Nat → Nat
  | 0, _ => 0
  | f + 1, x => if x % 2 = 1 then 0 else 1 + ctzN f (x / 2)

/-- One bits of a value below 2^f. -/
def popcN : Nat → Nat → Nat
  | 0, _ => 0
  | f + 1, x => x % 2 + popcN f (x / 2)

/-- The list 0, 1, …, n - 1. -/
def upto (n : Nat) : List Nat := List.range n

/-- Fold over 0, 1, …, n - 1. -/
def loopN {α : Type} (f : Nat → α → α) : Nat → α → α
  | 0, a => a
  | n + 1, a => f n (loopN f n a)

/-- Join `n` elements of `w` bits, element 0 lowest. -/
def joinElems (w n m : Nat) (f : Nat → BitVec w) : BitVec m :=
  loopN (fun i acc => acc ||| ((f i).setWidth m <<< (w * i))) n 0#m

/-- Division rounded up. -/
def ceilDiv (a b : Nat) : Nat := (a + b - 1) / b

/-- First element that satisfies a test, with its index. -/
def findIdx {α : Type} (p : α → Bool) : List α → Nat → Option (Nat × α)
  | [], _ => none
  | a :: rest, i => if p a then some (i, a) else findIdx p rest (i + 1)

/-- Replace the element at an index, leaving a list that is too short as it is. -/
def setAt {α : Type} (l : List α) (i : Nat) (a : α) : List α := l.take i ++ (match l.drop i with
  | [] => []
  | _ :: t => a :: t)

/-- Saturating sum. -/
def satAdd (limit a b : Nat) : Nat := min limit (a + b)

end Sys2Proof.Machine
end

