-- ==== Sys2Proof/Syntax.lean ====
section
/-!
DEFINITION. The abstract syntax: operands, the packets and messages that events carry, and `Instr`, one constructor for
each row of spec/opcode_table.json (instructions of the bundle slots, and the events of the hardware and the host).
-/

namespace Sys2Proof

/-- Element formats (02_bundles.md R50). -/
inductive Fmt where
  | i4 | i8 | i16 | i32 | i64 | f32 | bf16 | f16 | e4m3 | e5m2 | hb4 | scl
deriving DecidableEq, Repr

/-- Slot widths (02_bundles.md R45). -/
inductive Width where
  | w256 | w512 | w1024
deriving DecidableEq, Repr

/-- Rounding modes of a slot (02_bundles.md R46). -/
inductive RMode where
  | rne | rtz | rdn | rup | sr | dyn
deriving DecidableEq, Repr

/-- A live guard: predicate number and sense (02_bundles.md R43, R44). -/
structure Guard where
  g : BitVec 4
  sn : Bool
deriving DecidableEq, Repr

/-- An optional guard: none is E = 0 (02_bundles.md R43). -/
abbrev OptGuard := Option Guard

/-- The common fields of a VA or VB slot (02_bundles.md R42). -/
structure VHead where
  guard : OptGuard
  w : Width
deriving DecidableEq, Repr

/-- The common fields of an LD, ST or FB slot (02_bundles.md R42). -/
structure LHead where
  guard : OptGuard
  w : Width
  cls : BitVec 4
deriving DecidableEq, Repr

/-- An SY slot stands in a control bundle or, with an optional guard, in a lane bundle (02_bundles.md R40, R58). -/
structure SyHead where
  lane : Bool
  guard : OptGuard
deriving DecidableEq, Repr

/-- Element sizes of VLDX and VSTX (07_streams_registers.md R198). -/
inductive ESize where
  | h | w | d
deriving DecidableEq, Repr

/-- Operations of VRED and VSCAN (08_vector.md R235). -/
inductive RedOp where
  | sum | max | min
deriving DecidableEq, Repr

/-- Operations of a Winch, remote or packet atomic (04_winch.md R116). -/
inductive AOp where
  | add | and | or | xor | min | max | minu | maxu | swap | cas
deriving DecidableEq, Repr

/-- Address fields of an SM load or store (02_bundles.md R40). -/
structure SmAddr where
  cls : BitVec 4
  cbuf : Bool
  xa : XReg
  off : BitVec 11
deriving DecidableEq, Repr

/-- Address fields of an SM atomic (02_bundles.md R40, 13_control_slice.md R380). -/
structure SmAtom where
  cls : BitVec 4
  cbuf : Bool
  xa : XReg
deriving DecidableEq, Repr

/-- The wait, signal, queue and order fields of a WN command (02_bundles.md R40). -/
structure WHead where
  wsem : Byte
  wth : Byte
  ssem : Byte
  sinc : BitVec 4
  q : BitVec 2
  ord : Bool
deriving DecidableEq, Repr

/-- Completion word (xW, xV) and completion record (xR) of a command, when asked for (04_winch.md R102). -/
structure WOpts where
  cw : Option (XReg × XReg)
  cr : Option XReg
deriving DecidableEq, Repr

/-- The barrier a command arrives at, when asked for (04_winch.md R102). -/
abbrev WBar := Option (BitVec 7)

/-- The source of a PARAM token: a register, or the XT immediate (13_control_slice.md R383). -/
inductive ParamSrc where
  | reg (xa : XReg)
  | imm (v : Word)
deriving DecidableEq, Repr

/-- A fault cause as TCAUSE and TVAL record it (17_faults_repair.md R468). -/
structure Cause where
  code : Byte
  arg : Byte
  slot : BitVec 4
  async : Bool
  lane : Bool
  val : Word
deriving DecidableEq, Repr

/-- A channel flit: sideband and 128-byte payload (10_fabric.md R279). -/
structure Flit where
  typ : BitVec 4
  dx : BitVec 7
  dy : BitVec 7
  gen : Byte
  seq : BitVec 16
  dch : Byte
  psn : BitVec 4
  wid : BitVec 2
  sem : Byte
  payload : BitVec 1024
deriving DecidableEq, Repr

/-- A flit of class COLL on a tree edge (11_exact_reduction.md R322): its sideband and payload, and with a result flit the flags
of R321 for the elements up to it, whose place on the edge the spec does not give. -/
structure CollFlit where
  typ : BitVec 4
  idx : BitVec 7
  gen : Byte
  rnd : BitVec 16
  seq : BitVec 15
  psn : BitVec 4
  code : Byte
  flags : Byte
  payload : BitVec 1024
deriving DecidableEq, Repr

/-- A detour half of a tree flit (11_exact_reduction.md R322): sideband and payload, and the flags that its tree flit carries. -/
structure DetourFlit where
  half : Bool
  dx : BitVec 7
  dy : BitVec 7
  gen : Byte
  flags : Byte
  payload : BitVec 1024
deriving DecidableEq, Repr

/-- A RAMO request on its way to its home (10_fabric.md R300, R301). -/
structure RamoReq where
  src : Nat
  rid : Nat
  cbuf : Bool
  side : Bool
  off : BitVec 20
  aop : AOp
  sz : Bool
  det : Bool
  phn : BitVec 32
  b : Word
  cmp : Word
deriving DecidableEq, Repr

/-- The response of a RAMO (10_fabric.md R301). -/
structure RamoResp where
  rid : Nat
  old : Word
  poison : Bool
deriving DecidableEq, Repr

/-- What a remote Winch request does at its target (04_winch.md R98, R116); `over` ends a command's writes into a weight region there,
with its outcome (05_tile_buffers.md R152). -/
inductive RemoteOp where
  | read (n : Nat)
  | write (data : Bytes) (poison : List Bool)
  | atomic (aop : AOp) (sz : Bool) (b cmp : Word)
  | over (ok : Bool)
deriving DecidableEq, Repr

/-- A Winch request performed by a tile switch for a remote Winch (05_tile_buffers.md R130); `elem` counts the requests of a
command, `first` marks its first write into a weight region there. -/
structure RemoteReq where
  src : Nat
  cmd : Nat
  elem : Nat
  buf : BitVec 2
  side : Bool
  off : BitVec 20
  first : Bool
  op : RemoteOp
deriving DecidableEq, Repr

/-- What comes back to the issuing Winch (04_winch.md R97). -/
inductive WRespBody where
  | data (bytes : Bytes) (poison : List Bool)
  | written
  | refused (code : Byte)
deriving DecidableEq, Repr

/-- A response to a remote or far Winch request. -/
structure WResp where
  cmd : Nat
  elem : Nat
  body : WRespBody
deriving DecidableEq, Repr

/-- A far-TLB miss: the issuing tile, its queue and command, the address and the access kind (03_far_memory.md R79). -/
structure XMiss where
  tile : Nat
  q : BitVec 2
  cmd : Nat
  asid : BitVec 16
  va : BitVec 57
  kind : BitVec 2
deriving DecidableEq, Repr

/-- A leaf translation (03_far_memory.md R75): base, size and permissions. -/
structure Leaf where
  vbase : Nat
  base : Nat
  size : Nat
  s : Bool
  w : Bool
  a : Bool
  x : Bool
  ent : BitVec 32
  lvl : BitVec 2
deriving DecidableEq, Repr

/-- How a walk ends: a leaf, or a fault code with its level and the low bits of the entry (03_far_memory.md R75, R86). -/
inductive WalkResult where
  | leaf (l : Leaf)
  | fault (code : Byte) (lvl : BitVec 2) (ent : BitVec 32)
deriving DecidableEq, Repr

/-- A translation fill on its way to a far-TLB (03_far_memory.md R83). -/
structure XFill where
  miss : XMiss
  result : WalkResult
deriving DecidableEq, Repr

/-- The contents of a packet on the fabric, one alternative for each kind of traffic of 10_fabric.md R278; `treeAck` acknowledges a flit of
a tree edge, named by its kind, id, round and number (11_exact_reduction.md R322). -/
inductive Body where
  | flit (f : Flit)
  | ack (ch : Byte) (a : BitVec 16)
  | coll (port : BitVec 3) (f : CollFlit)
  | detour (port : BitVec 3) (f : DetourFlit)
  | treeAck (port : BitVec 3) (typ : BitVec 4) (idx : BitVec 7) (rnd : BitVec 16) (seq : BitVec 15)
  | ramo (r : RamoReq)
  | ramoResp (r : RamoResp)
  | winch (r : RemoteReq)
  | winchResp (r : WResp)
  | xmiss (m : XMiss)
  | xfill (f : XFill)
deriving DecidableEq, Repr

/-- A stale-generation negative acknowledgement: what was trapped, where it was going, the channel it counts on, and the peer module and
class of a packet that was to leave by an optical port (10_fabric.md R292). -/
structure Nak where
  dest : Nat
  ch : Option Byte
  via : Option (BitVec 12 × Nat)
  body : Body
deriving DecidableEq, Repr

/-- What a link does to a flit that crosses it: the bits of sideband, payload and CRC that it turns over (10_fabric.md R279, R291). -/
structure LinkNoise where
  sb : Word
  pl : BitVec 1024
  crc : BitVec 16
deriving DecidableEq, Repr

/-- One switch's routing tables: 84 column and 66 row entries of 4 bits (10_fabric.md R276). -/
structure RouteTab where
  tile : Nat
  cols : List (BitVec 4)
  rows : List (BitVec 4)
deriving DecidableEq, Repr

/-- A set of routing tables offered to ROUTE_TABLE_LOAD (10_fabric.md R276). -/
abbrev RouteSet := List RouteTab

/-- An optical flit: header bits [63:0] and 64 payload bytes (12_leaving_module.md R334). -/
structure OptFlit where
  hdr : BitVec 64
  payload : BitVec 512
deriving DecidableEq, Repr

/-- A PCIe memory request: function, direction, BAR offset, data or length, the poisoned (EP) attribute, and whether its ECRC, if it
has one, agrees (12_leaving_module.md R345, R346). -/
structure HostReq where
  fn : BitVec 2
  write : Bool
  addr : Nat
  len : Nat
  data : Bytes
  ep : Bool
  ecrcOk : Bool
deriving DecidableEq, Repr

/-- What a request to a register of BAR 0 carries besides its function and its offset (12_leaving_module.md R345, R346). -/
structure RegAccess where
  write : Bool
  len : Nat
  data : Bytes
  ep : Bool
  ecrcOk : Bool
deriving DecidableEq, Repr

/-- That request. -/
def RegAccess.req (x : RegAccess) (fn : BitVec 2) (off : Nat) : HostReq :=
  { fn := fn, write := x.write, addr := off, len := x.len, data := x.data, ep := x.ep, ecrcOk := x.ecrcOk }

/-- How a host link stands: down, or trained with a partner that has no flit mode, or with one that has (12_leaving_module.md R345). -/
inductive LinkMode where
  | down | noFlit | flit
deriving DecidableEq, Repr

/-- A PCIe AtomicOp: 0 FetchAdd, 1 Swap, 2 CAS (12_leaving_module.md R345). -/
structure HostAtomic where
  fn : BitVec 2
  bar : Nat
  addr : Nat
  op : BitVec 2
  bits : Nat
  a : Word
  b : Word
  ecrcOk : Bool
deriving DecidableEq, Repr

/-- What the timing port receives or sends as the slave of an IEEE 1588 clock, each message stamped by the hardware as it passes: a Sync
that is one-step, or two-step with its Follow_Up, each with the grandmaster's seconds and nanoseconds and a correction in units of
2^-8 ns; and the two mechanisms that measure the path's delay, a Delay_Req with its Delay_Resp, and a Pdelay_Req with the peer's answer
and the time the peer took to give it (12_leaving_module.md R352). -/
inductive PtpMsg where
  | sync (sec nsec : Nat) (corr : Int)
  | syncTwoStep
  | followUp (sec nsec : Nat) (corr : Int)
  | delayReq
  | delayResp (sec nsec : Nat) (corr : Int)
  | pdelayReq
  | pdelayResp (turnaround : Int)
deriving DecidableEq, Repr

/-- A gateway entry as a binding message names it (16_launch.md R509). -/
structure GwEntry where
  x : Nat
  y : Nat
  ch : Byte
  ent : Word
deriving DecidableEq, Repr

/-- A binding message, or with `result` the outcome a module reports (16_launch.md R509). -/
structure BindMsg where
  src : BitVec 12
  lid : Word
  nmod : Nat
  mods : List (BitVec 12)
  imgid : Word
  gws : List GwEntry
  result : Option Bool
deriving DecidableEq, Repr

/-- A module's view of who is live in a launch, and how many batches its grant table counts (16_launch.md R464). -/
structure View where
  lid : Word
  src : BitVec 12
  live : List (BitVec 12)
  top : Nat
deriving DecidableEq, Repr

/-- What a management message of R510 carries. -/
inductive MgmtBody where
  | bind (m : BindMsg)
  | batchReq (lid : Word)
  | grant (lid : Word) (batch : Nat) (holder : BitVec 12)
  | grantAck (lid : Word) (batch : Nat)
  | heartbeat (lid : Word)
  | view (v : View)
deriving DecidableEq, Repr

/-- A management message between module controllers (16_launch.md R510). -/
structure MgmtMsg where
  src : BitVec 12
  dest : BitVec 12
  body : MgmtBody
deriving DecidableEq, Repr

/-- Every row of spec/opcode_table.json, in the table's order. -/
inductive Instr where
  /-- NOP (R28). -/
  | nop (k : Bool) (e : Bool)
  /-- ADD (R360). -/
  | add (xd : XReg) (xa : XReg) (xb : XReg)
  /-- SUB (R360). -/
  | sub (xd : XReg) (xa : XReg) (xb : XReg)
  /-- ADDI (R360). -/
  | addi (xd : XReg) (xa : XReg) (imm : BitVec 14)
  /-- MUL (R360). -/
  | mul (xd : XReg) (xa : XReg) (xb : XReg)
  /-- MULH (R360). -/
  | mulh (xd : XReg) (xa : XReg) (xb : XReg)
  /-- MULHU (R360). -/
  | mulhu (xd : XReg) (xa : XReg) (xb : XReg)
  /-- DIV (R360). -/
  | div (xd : XReg) (xa : XReg) (xb : XReg)
  /-- DIVU (R360). -/
  | divu (xd : XReg) (xa : XReg) (xb : XReg)
  /-- REM (R360). -/
  | rem (xd : XReg) (xa : XReg) (xb : XReg)
  /-- REMU (R360). -/
  | remu (xd : XReg) (xa : XReg) (xb : XReg)
  /-- MIN (R360). -/
  | min (xd : XReg) (xa : XReg) (xb : XReg)
  /-- MAX (R360). -/
  | max (xd : XReg) (xa : XReg) (xb : XReg)
  /-- MINU (R360). -/
  | minu (xd : XReg) (xa : XReg) (xb : XReg)
  /-- MAXU (R360). -/
  | maxu (xd : XReg) (xa : XReg) (xb : XReg)
  /-- AND (R360). -/
  | and (xd : XReg) (xa : XReg) (xb : XReg)
  /-- OR (R360). -/
  | or (xd : XReg) (xa : XReg) (xb : XReg)
  /-- XOR (R360). -/
  | xor (xd : XReg) (xa : XReg) (xb : XReg)
  /-- ANDI (R360). -/
  | andi (xd : XReg) (xa : XReg) (imm : BitVec 14)
  /-- ORI (R360). -/
  | ori (xd : XReg) (xa : XReg) (imm : BitVec 14)
  /-- XORI (R360). -/
  | xori (xd : XReg) (xa : XReg) (imm : BitVec 14)
  /-- SHL (R360). -/
  | shl (xd : XReg) (xa : XReg) (xb : XReg)
  /-- SHR (R360). -/
  | shr (xd : XReg) (xa : XReg) (xb : XReg)
  /-- SRA (R360). -/
  | sra (xd : XReg) (xa : XReg) (xb : XReg)
  /-- SHLI (R360). -/
  | shli (xd : XReg) (xa : XReg) (k : BitVec 6)
  /-- SHRI (R360). -/
  | shri (xd : XReg) (xa : XReg) (k : BitVec 6)
  /-- SRAI (R360). -/
  | srai (xd : XReg) (xa : XReg) (k : BitVec 6)
  /-- CLZ (R360). -/
  | clz (xd : XReg) (xa : XReg)
  /-- CTZ (R360). -/
  | ctz (xd : XReg) (xa : XReg)
  /-- POPC (R360). -/
  | popc (xd : XReg) (xa : XReg)
  /-- SEQ (R360). -/
  | seq (xd : XReg) (xa : XReg) (xb : XReg)
  /-- SNE (R360). -/
  | sne (xd : XReg) (xa : XReg) (xb : XReg)
  /-- SLT (R360). -/
  | slt (xd : XReg) (xa : XReg) (xb : XReg)
  /-- SLTU (R360). -/
  | sltu (xd : XReg) (xa : XReg) (xb : XReg)
  /-- SLTI (R360). -/
  | slti (xd : XReg) (xa : XReg) (imm : BitVec 14)
  /-- SLTIU (R360). -/
  | sltiu (xd : XReg) (xa : XReg) (imm : BitVec 14)
  /-- WFLD (R362). -/
  | wfld (xd : XReg) (xa : XReg) (n : BitVec 3)
  /-- BFX (R362). -/
  | bfx (xd : XReg) (xa : XReg) (lsb : BitVec 6) (len1 : BitVec 6)
  /-- BFXU (R362). -/
  | bfxu (xd : XReg) (xa : XReg) (lsb : BitVec 6) (len1 : BitVec 6)
  /-- BFINS (R362). -/
  | bfins (xd : XReg) (xa : XReg) (lsb : BitVec 6) (len1 : BitVec 6)
  /-- LI (R360). -/
  | li (xd : XReg) (imm : BitVec 14)
  /-- LIX (R360). -/
  | lix (xd : XReg) (imm : Word)
  /-- ADDX (R360). -/
  | addx (xd : XReg) (xa : XReg) (imm : Word)
  /-- ADDSH (R360). -/
  | addsh (xd : XReg) (xa : XReg) (xb : XReg)
  /-- CSRR (R363). -/
  | csrr (xd : XReg) (csr : BitVec 12)
  /-- CSRW (R363). -/
  | csrw (csr : BitVec 12) (xa : XReg)
  /-- CSRS (R363). -/
  | csrs (csr : BitVec 12) (xa : XReg)
  /-- CSRC (R363). -/
  | csrc (csr : BitVec 12) (xa : XReg)
  /-- ACCEPT (R369). -/
  | accept (xd : XReg)
  /-- ACCEPT_WID_DELIVER (R451). -/
  | acceptWidDeliver
  /-- JMP (R371). -/
  | jmp (off : BitVec 16)
  /-- JMPR (R371). -/
  | jmpr (xa : XReg)
  /-- CALL (R372). -/
  | call (off : BitVec 16)
  /-- CALLR (R372). -/
  | callr (xa : XReg)
  /-- RET (R372). -/
  | ret
  /-- BEQ (R371). -/
  | beq (xa : XReg) (xb : XReg) (off : BitVec 16)
  /-- BNE (R371). -/
  | bne (xa : XReg) (xb : XReg) (off : BitVec 16)
  /-- BLT (R371). -/
  | blt (xa : XReg) (xb : XReg) (off : BitVec 16)
  /-- BGE (R371). -/
  | bge (xa : XReg) (xb : XReg) (off : BitVec 16)
  /-- BLTU (R371). -/
  | bltu (xa : XReg) (xb : XReg) (off : BitVec 16)
  /-- BGEU (R371). -/
  | bgeu (xa : XReg) (xb : XReg) (off : BitVec 16)
  /-- LOOP (R371). -/
  | loop (xa : XReg) (off : BitVec 16)
  /-- BSWAP (R375). -/
  | bswap (idx : BitVec 14)
  /-- TRAP (R376). -/
  | trap (n : Byte)
  /-- ERET (R470). -/
  | eret
  /-- END (R377). -/
  | endp
  /-- LDB (R379). -/
  | ldb (m : SmAddr) (xd : XReg)
  /-- LDBU (R379). -/
  | ldbu (m : SmAddr) (xd : XReg)
  /-- LDH (R379). -/
  | ldh (m : SmAddr) (xd : XReg)
  /-- LDHU (R379). -/
  | ldhu (m : SmAddr) (xd : XReg)
  /-- LDW (R379). -/
  | ldw (m : SmAddr) (xd : XReg)
  /-- LDWU (R379). -/
  | ldwu (m : SmAddr) (xd : XReg)
  /-- LDD (R379). -/
  | ldd (m : SmAddr) (xd : XReg)
  /-- STB (R379). -/
  | stb (m : SmAddr) (xd : XReg)
  /-- STH (R379). -/
  | sth (m : SmAddr) (xd : XReg)
  /-- STW (R379). -/
  | stw (m : SmAddr) (xd : XReg)
  /-- STD (R379). -/
  | std (m : SmAddr) (xd : XReg)
  /-- AMOADD (R380). -/
  | amoadd (m : SmAtom) (xd : XReg) (xb : XReg)
  /-- AMOAND (R380). -/
  | amoand (m : SmAtom) (xd : XReg) (xb : XReg)
  /-- AMOOR (R380). -/
  | amoor (m : SmAtom) (xd : XReg) (xb : XReg)
  /-- AMOXOR (R380). -/
  | amoxor (m : SmAtom) (xd : XReg) (xb : XReg)
  /-- AMOMIN (R380). -/
  | amomin (m : SmAtom) (xd : XReg) (xb : XReg)
  /-- AMOMAX (R380). -/
  | amomax (m : SmAtom) (xd : XReg) (xb : XReg)
  /-- AMOMINU (R380). -/
  | amominu (m : SmAtom) (xd : XReg) (xb : XReg)
  /-- AMOMAXU (R380). -/
  | amomaxu (m : SmAtom) (xd : XReg) (xb : XReg)
  /-- AMOSWAP (R380). -/
  | amoswap (m : SmAtom) (xd : XReg) (xb : XReg)
  /-- AMOCAS (R380). -/
  | amocas (m : SmAtom) (xd : XReg) (xb : XReg)
  /-- CHRSV (R298). -/
  | chrsv (ch : Byte) (xa : XReg)
  /-- CHRSV_GRANT (R283). -/
  | chrsvGrant
  /-- CHREL (R298). -/
  | chrel (ch : Byte) (xa : XReg)
  /-- CHWAIT (R298). -/
  | chwait (ch : Byte) (xa : XReg)
  /-- CHWAIT_GRANT (R283). -/
  | chwaitGrant
  /-- CHSTAT (R299). -/
  | chstat (xd : XReg) (ch : Byte)
  /-- RAMO (R300). -/
  | ramo (cls : BitVec 4) (xd : XReg) (xa : XReg) (aop : AOp) (sz : Bool) (det : Bool) (xb : XReg)
  /-- RAMO_HOME_PERFORM (R301). -/
  | ramoHomePerform (r : RamoReq)
  /-- RAMO_RESPONSE (R301). -/
  | ramoResponse (r : RamoResp)
  /-- DET_RAMO_APPLY (R302). -/
  | detRamoApply
  /-- WSHP (R101). -/
  | wshp (sh : BitVec 3) (fld : BitVec 3) (xa : XReg)
  /-- WSHRD (R125). -/
  | wshrd (xd : XReg) (sh : BitVec 3) (fld : BitVec 3)
  /-- WCOPY (R104). -/
  | wcopy (h : WHead) (ssh : BitVec 3) (dsh : BitVec 3) (o : WOpts) (ba : WBar) (pc : Bool) (tag : BitVec 16)
  /-- WHALO (R115). -/
  | whalo (h : WHead) (sh : BitVec 3) (dm : BitVec 4) (fw : Bool) (hw : BitVec 3) (o : WOpts) (tag : BitVec 16)
  /-- WAMO (R116). -/
  | wamo (h : WHead) (aop : AOp) (sz : Bool) (xa : XReg) (xb : XReg) (xc : XReg) (o : WOpts) (tag : BitVec 16)
  /-- WAMOR (R116). -/
  | wamor (h : WHead) (aop : AOp) (sz : Bool) (xa : XReg) (xb : XReg) (xc : XReg) (xd : XReg) (o : WOpts) (tag : BitVec 16)
  /-- WCRC (R118). -/
  | wcrc (h : WHead) (sh : BitVec 3) (alg : Bool) (xw : XReg) (o : WOpts) (tag : BitVec 16)
  /-- WFILLW (R119). -/
  | wfillw (h : WHead) (ssh : BitVec 3) (dsh : BitVec 3) (xg : XReg) (si : BitVec 6) (o : WOpts) (tag : BitVec 16)
  /-- WSIG (R125). -/
  | wsig (h : WHead) (o : WOpts) (ba : WBar) (tag : BitVec 16)
  /-- WFLUSH (R125). -/
  | wflush (h : WHead) (fq : BitVec 2)
  /-- WTLBP (R125). -/
  | wtlbp (h : WHead) (xa : XReg) (kind : BitVec 2) (o : WOpts) (tag : BitVec 16)
  /-- WRQCFG_RQ (R122). -/
  | wrqcfgRq (n : BitVec 2) (xa : XReg) (xb : XReg)
  /-- WRQCFG_CR (R122). -/
  | wrqcfgCr (n : BitVec 2) (xa : XReg) (xb : XReg)
  /-- WSCRUB_INTERVAL (R120). -/
  | wscrubInterval (h : WHead) (xa : XReg) (si : BitVec 6) (o : WOpts) (tag : BitVec 16)
  /-- WSCRUB_NOW (R120). -/
  | wscrubNow (h : WHead) (xa : XReg) (si : BitVec 6) (o : WOpts) (tag : BitVec 16)
  /-- WSCRUB_DROP (R120). -/
  | wscrubDrop (h : WHead) (xa : XReg) (si : BitVec 6) (o : WOpts) (tag : BitVec 16)
  /-- WSTAT (R125). -/
  | wstat (xd : XReg)
  /-- WINCH_COMMAND_START (R95). -/
  | winchCommandStart (q : BitVec 2)
  /-- WINCH_COMMAND_COMPLETE (R96). -/
  | winchCommandComplete (id : Nat)
  /-- REQUEST_PACKET_GET (R124). -/
  | requestPacketGet (n : BitVec 2)
  /-- REQUEST_PACKET_PUT (R124). -/
  | requestPacketPut (n : BitVec 2)
  /-- REQUEST_PACKET_AMO (R124). -/
  | requestPacketAmo (n : BitVec 2)
  /-- REQUEST_PACKET_SIG (R124). -/
  | requestPacketSig (n : BitVec 2)
  /-- REMOTE_WINCH_REQUEST (R130). -/
  | remoteWinchRequest (r : RemoteReq)
  /-- WINCH_RESPONSE (R97). -/
  | winchResponse (r : WResp)
  /-- SCRUB_INTERVAL_EXPIRE (R120). -/
  | scrubIntervalExpire
  /-- XLAT_MISS_ARRIVE (R82). -/
  | xlatMissArrive (m : XMiss)
  /-- XLAT_MISS_RETRY (R82). -/
  | xlatMissRetry (m : XMiss)
  /-- XLAT_WALK_COMPLETE (R83). -/
  | xlatWalkComplete (side : BitVec 2) (id : Nat)
  /-- XLAT_FILL_ARRIVE (R83). -/
  | xlatFillArrive (f : XFill)
  /-- XLAT_SIDE_FAIL (R80). -/
  | xlatSideFail (side : BitVec 2)
  /-- INVALIDATION_COMPLETE (R88). -/
  | invalidationComplete
  /-- DISPATCH (R386). -/
  | dispatch (blk : BitVec 15) (xn : XReg) (imt : Bool) (rot : Bool) (den : BitVec 6) (se : Bool) (sem : Byte)
  /-- MASK (R386). -/
  | mask (p : BitVec 4) (xa : XReg) (xb : XReg)
  /-- PARAM (R386). -/
  | param (q : BitVec 4) (src : ParamSrc)
  /-- SCFG (R386). -/
  | scfg (st : BitVec 4) (fld : BitVec 3) (xa : XReg)
  /-- LDEPTH (R386). -/
  | ldepth (l : BitVec 7)
  /-- RBSET (R386). -/
  | rbset (b : BitVec 7)
  /-- RSEED (R386). -/
  | rseed (xa : XReg)
  /-- TOKEN_TAKE (R387). -/
  | tokenTake
  /-- BLOCK_END_SIGNAL (R215). -/
  | blockEndSignal
  /-- LANE_WRITE_LAND (R213). -/
  | laneWriteLand
  /-- RAMP_WINDOW_END (R392). -/
  | rampWindowEnd
  /-- SEMSIG (R422). -/
  | semsig (h : SyHead) (sem : Byte) (inc : BitVec 12)
  /-- SEMWAIT (R422). -/
  | semwait (sem : Byte) (xa : XReg)
  /-- SEMWAIT_SATISFY (R423). -/
  | semwaitSatisfy
  /-- SEMSET (R422). -/
  | semset (sem : Byte) (xa : XReg)
  /-- SEMRD (R422). -/
  | semrd (xd : XReg) (sem : Byte)
  /-- ARRIVE (R425). -/
  | arrive (h : SyHead) (nb : BitVec 7)
  /-- WAIT (R425). -/
  | wait (nb : BitVec 7)
  /-- ARRWAIT (R425). -/
  | arrwait (nb : BitVec 7)
  /-- BARRIER_WAIT_SATISFY (R425). -/
  | barrierWaitSatisfy
  /-- BARSET (R426). -/
  | barset (xd : XReg) (nb : BitVec 7) (xa : XReg) (w : Bool)
  /-- WAITA (R427). -/
  | waita (xd : XReg) (xa : XReg) (xb : XReg) (ne : Bool) (sz : Bool) (tmo : Bool)
  /-- WAITA_WAKE (R427). -/
  | waitaWake
  /-- WAITA_TIMEOUT (R427). -/
  | waitaTimeout
  /-- WAITT (R429). -/
  | waitt (xa : XReg)
  /-- WAITT_COMPLETE (R429). -/
  | waittComplete
  /-- RDTIME (R428). -/
  | rdtime (xd : XReg)
  /-- PHBEGIN (R432). -/
  | phbegin
  /-- PHBEGIN_SNAPSHOT (R432). -/
  | phbeginSnapshot
  /-- PHCOMMIT (R435). -/
  | phcommit
  /-- PHCOMMIT_COMMIT (R435). -/
  | phcommitCommit
  /-- PHASE_BARRIER_COMPLETE (R435). -/
  | phaseBarrierComplete
  /-- PHCANCEL (R437). -/
  | phcancel
  /-- PHASE_CANCEL (R438). -/
  | phaseCancel
  /-- FENCE (R403). -/
  | fence (h : SyHead) (cm : BitVec 16)
  /-- FENCE_COMPLETE (R403). -/
  | fenceComplete
  /-- IFENCE (R373). -/
  | ifence
  /-- IFENCE_COMPLETE (R373). -/
  | ifenceComplete
  /-- DIGRD (R442). -/
  | digrd (xd : XReg) (sel : Bool)
  /-- DIGSET (R442). -/
  | digset (xa : XReg) (w : Bool)
  /-- COLLB (R316). -/
  | collb (id : BitVec 6) (xa : XReg) (xb : XReg)
  /-- COLLOPEN (R313). -/
  | collopen (id : BitVec 6) (xa : XReg) (xb : XReg)
  /-- COLLOPEN_RESERVE (R313). -/
  | collopenReserve
  /-- COLLABT (R317). -/
  | collabt (id : BitVec 6)
  /-- COLLST (R317). -/
  | collst (xd : XReg) (id : BitVec 6)
  /-- VADD (R220). -/
  | vadd (h : VHead) (d : VCode) (a : VCode) (b : VCode) (ty : Fmt) (u : Bool) (sat : Bool)
  /-- VSUB (R220). -/
  | vsub (h : VHead) (d : VCode) (a : VCode) (b : VCode) (ty : Fmt) (u : Bool) (sat : Bool)
  /-- VMUL (R220). -/
  | vmul (h : VHead) (d : VCode) (a : VCode) (b : VCode) (ty : Fmt) (u : Bool) (sat : Bool)
  /-- VMULH (R220). -/
  | vmulh (h : VHead) (d : VCode) (a : VCode) (b : VCode) (ty : Fmt) (u : Bool)
  /-- VMAD (R220). -/
  | vmad (h : VHead) (d : VCode) (a : VCode) (b : VCode) (c : VCode) (ty : Fmt) (u : Bool) (sat : Bool)
  /-- VNEG (R220). -/
  | vneg (h : VHead) (d : VCode) (a : VCode) (ty : Fmt) (sat : Bool)
  /-- VABS (R220). -/
  | vabs (h : VHead) (d : VCode) (a : VCode) (ty : Fmt) (sat : Bool)
  /-- VDOT4 (R221). -/
  | vdot4 (h : VHead) (d : VCode) (a : VCode) (b : VCode) (c : VCode) (u : Bool) (sat : Bool)
  /-- VMIN (R220). -/
  | vmin (h : VHead) (d : VCode) (a : VCode) (b : VCode) (ty : Fmt)
  /-- VMAX (R220). -/
  | vmax (h : VHead) (d : VCode) (a : VCode) (b : VCode) (ty : Fmt)
  /-- VMINU (R220). -/
  | vminu (h : VHead) (d : VCode) (a : VCode) (b : VCode) (ty : Fmt)
  /-- VMAXU (R220). -/
  | vmaxu (h : VHead) (d : VCode) (a : VCode) (b : VCode) (ty : Fmt)
  /-- VAND (R222). -/
  | vand (h : VHead) (d : VCode) (a : VCode) (b : VCode)
  /-- VOR (R222). -/
  | vor (h : VHead) (d : VCode) (a : VCode) (b : VCode)
  /-- VXOR (R222). -/
  | vxor (h : VHead) (d : VCode) (a : VCode) (b : VCode)
  /-- VANDN (R222). -/
  | vandn (h : VHead) (d : VCode) (a : VCode) (b : VCode)
  /-- VNOT (R222). -/
  | vnot (h : VHead) (d : VCode) (a : VCode)
  /-- VBSEL (R222). -/
  | vbsel (h : VHead) (d : VCode) (a : VCode) (b : VCode) (c : VCode)
  /-- VPOPC (R222). -/
  | vpopc (h : VHead) (d : VCode) (a : VCode) (ty : Fmt)
  /-- VCLZ (R222). -/
  | vclz (h : VHead) (d : VCode) (a : VCode) (ty : Fmt)
  /-- VSHL (R222). -/
  | vshl (h : VHead) (d : VCode) (a : VCode) (b : VCode) (ty : Fmt)
  /-- VSHR (R222). -/
  | vshr (h : VHead) (d : VCode) (a : VCode) (b : VCode) (ty : Fmt)
  /-- VSRA (R222). -/
  | vsra (h : VHead) (d : VCode) (a : VCode) (b : VCode) (ty : Fmt)
  /-- VSHLI (R222). -/
  | vshli (h : VHead) (d : VCode) (a : VCode) (ty : Fmt) (k : BitVec 6)
  /-- VSHRI (R222). -/
  | vshri (h : VHead) (d : VCode) (a : VCode) (ty : Fmt) (k : BitVec 6)
  /-- VSRAI (R222). -/
  | vsrai (h : VHead) (d : VCode) (a : VCode) (ty : Fmt) (k : BitVec 6)
  /-- VCMPEQ (R223). -/
  | vcmpeq (h : VHead) (p : BitVec 4) (a : VCode) (b : VCode) (ty : Fmt)
  /-- VCMPNE (R223). -/
  | vcmpne (h : VHead) (p : BitVec 4) (a : VCode) (b : VCode) (ty : Fmt)
  /-- VCMPLT (R223). -/
  | vcmplt (h : VHead) (p : BitVec 4) (a : VCode) (b : VCode) (ty : Fmt)
  /-- VCMPLE (R223). -/
  | vcmple (h : VHead) (p : BitVec 4) (a : VCode) (b : VCode) (ty : Fmt)
  /-- VCMPLTU (R223). -/
  | vcmpltu (h : VHead) (p : BitVec 4) (a : VCode) (b : VCode) (ty : Fmt)
  /-- VCMPLEU (R223). -/
  | vcmpleu (h : VHead) (p : BitVec 4) (a : VCode) (b : VCode) (ty : Fmt)
  /-- VFADD (R225). -/
  | vfadd (h : VHead) (d : VCode) (a : VCode) (b : VCode) (ty : Fmt) (rm : RMode) (sat : Bool)
  /-- VFMUL (R225). -/
  | vfmul (h : VHead) (d : VCode) (a : VCode) (b : VCode) (ty : Fmt) (rm : RMode) (sat : Bool)
  /-- VFSUB (R225). -/
  | vfsub (h : VHead) (d : VCode) (a : VCode) (b : VCode) (ty : Fmt) (rm : RMode) (sat : Bool)
  /-- VFMA (R225). -/
  | vfma (h : VHead) (d : VCode) (a : VCode) (b : VCode) (c : VCode) (ty : Fmt) (rm : RMode) (sat : Bool)
  /-- VFMS (R225). -/
  | vfms (h : VHead) (d : VCode) (a : VCode) (b : VCode) (c : VCode) (ty : Fmt) (rm : RMode) (sat : Bool)
  /-- VFNMA (R225). -/
  | vfnma (h : VHead) (d : VCode) (a : VCode) (b : VCode) (c : VCode) (ty : Fmt) (rm : RMode) (sat : Bool)
  /-- VFMIN (R226). -/
  | vfmin (h : VHead) (d : VCode) (a : VCode) (b : VCode) (ty : Fmt)
  /-- VFMAX (R226). -/
  | vfmax (h : VHead) (d : VCode) (a : VCode) (b : VCode) (ty : Fmt)
  /-- VFABS (R226). -/
  | vfabs (h : VHead) (d : VCode) (a : VCode) (ty : Fmt)
  /-- VFNEG (R226). -/
  | vfneg (h : VHead) (d : VCode) (a : VCode) (ty : Fmt)
  /-- VFCMPEQ (R227). -/
  | vfcmpeq (h : VHead) (p : BitVec 4) (a : VCode) (b : VCode) (ty : Fmt)
  /-- VFCMPLT (R227). -/
  | vfcmplt (h : VHead) (p : BitVec 4) (a : VCode) (b : VCode) (ty : Fmt)
  /-- VFCMPLE (R227). -/
  | vfcmple (h : VHead) (p : BitVec 4) (a : VCode) (b : VCode) (ty : Fmt)
  /-- VFCMPUN (R227). -/
  | vfcmpun (h : VHead) (p : BitVec 4) (a : VCode) (b : VCode) (ty : Fmt)
  /-- VFCLASS (R227). -/
  | vfclass (h : VHead) (p : BitVec 4) (a : VCode) (ty : Fmt) (cm : BitVec 9)
  /-- VFSCALE (R228). -/
  | vfscale (h : VHead) (d : VCode) (a : VCode) (b : VCode) (ty : Fmt) (rm : RMode) (sat : Bool)
  /-- VCVT (R229). -/
  | vcvt (h : VHead) (d : VCode) (a : VCode) (ty : Fmt) (df : Fmt) (u : Bool) (rm : RMode) (sat : Bool)
  /-- VCVTHB (R230). -/
  | vcvthb (h : VHead) (d : VCode) (a : VCode) (df : Fmt) (rm : RMode) (sat : Bool)
  /-- VCVTFHB (R231). -/
  | vcvtfhb (h : VHead) (d : VCode) (a : VCode) (ty : Fmt) (t : BitVec 2) (rm : RMode)
  /-- VCVTMX (R232). -/
  | vcvtmx (h : VHead) (d : VCode) (a : VCode) (rm : RMode)
  /-- VCVTXM (R232). -/
  | vcvtxm (h : VHead) (d : VCode) (a : VCode) (rm : RMode)
  /-- VCVTSCL (R233). -/
  | vcvtscl (h : VHead) (d : VCode) (a : VCode) (ty : Fmt) (dir : Bool) (rm : RMode) (sat : Bool)
  /-- VPERM (R234). -/
  | vperm (h : VHead) (d : VCode) (a : VCode) (b : VCode) (c : VCode) (ty : Fmt)
  /-- VSHUF (R234). -/
  | vshuf (h : VHead) (d : VCode) (a : VCode) (sel : Byte)
  /-- VROT (R234). -/
  | vrot (h : VHead) (d : VCode) (a : VCode) (ty : Fmt) (k : BitVec 7)
  /-- VSLIDE (R234). -/
  | vslide (h : VHead) (d : VCode) (a : VCode) (b : VCode) (ty : Fmt) (k : Byte)
  /-- VZIPL (R234). -/
  | vzipl (h : VHead) (d : VCode) (a : VCode) (b : VCode) (ty : Fmt)
  /-- VZIPH (R234). -/
  | vziph (h : VHead) (d : VCode) (a : VCode) (b : VCode) (ty : Fmt)
  /-- VUZPE (R234). -/
  | vuzpe (h : VHead) (d : VCode) (a : VCode) (b : VCode) (ty : Fmt)
  /-- VUZPO (R234). -/
  | vuzpo (h : VHead) (d : VCode) (a : VCode) (b : VCode) (ty : Fmt)
  /-- VBCST (R234). -/
  | vbcst (h : VHead) (d : VCode) (a : VCode) (ty : Fmt) (k : BitVec 7)
  /-- VCMPR (R234). -/
  | vcmpr (h : VHead) (d : VCode) (a : VCode) (p : BitVec 4) (ty : Fmt)
  /-- VEXPD (R234). -/
  | vexpd (h : VHead) (d : VCode) (a : VCode) (p : BitVec 4) (ty : Fmt)
  /-- VTRN (R234). -/
  | vtrn (h : VHead) (d : VCode) (a : VCode) (b : VCode) (ty : Fmt) (hi : Bool)
  /-- VRED (R235). -/
  | vred (h : VHead) (d : VCode) (a : VCode) (ty : Fmt) (opr : RedOp) (u : Bool) (rm : RMode) (sat : Bool)
  /-- VREDX (R237). -/
  | vredx (h : VHead) (d : VCode) (a : VCode) (c : VCode) (acc : Bool) (rm : RMode) (sat : Bool)
  /-- VSCAN (R236). -/
  | vscan (h : VHead) (d : VCode) (a : VCode) (ty : Fmt) (opr : RedOp) (u : Bool) (rm : RMode) (sat : Bool)
  /-- VRCP (R238). -/
  | vrcp (h : VHead) (d : VCode) (a : VCode) (ty : Fmt) (rm : RMode) (sat : Bool)
  /-- VRSQ (R238). -/
  | vrsq (h : VHead) (d : VCode) (a : VCode) (ty : Fmt) (rm : RMode) (sat : Bool)
  /-- VSQRT (R238). -/
  | vsqrt (h : VHead) (d : VCode) (a : VCode) (ty : Fmt) (rm : RMode) (sat : Bool)
  /-- VEXP2 (R238). -/
  | vexp2 (h : VHead) (d : VCode) (a : VCode) (ty : Fmt) (rm : RMode) (sat : Bool)
  /-- VLOG2 (R238). -/
  | vlog2 (h : VHead) (d : VCode) (a : VCode) (ty : Fmt) (rm : RMode) (sat : Bool)
  /-- VTANH (R238). -/
  | vtanh (h : VHead) (d : VCode) (a : VCode) (ty : Fmt) (rm : RMode) (sat : Bool)
  /-- VSIGM (R238). -/
  | vsigm (h : VHead) (d : VCode) (a : VCode) (ty : Fmt) (rm : RMode) (sat : Bool)
  /-- VMOV (R239). -/
  | vmov (h : VHead) (d : VCode) (a : VCode)
  /-- VMOVX (R239). -/
  | vmovx (h : VHead) (d : VCode) (imm : Word)
  /-- VPOPRQ (R239). -/
  | vpoprq (h : VHead) (d : VCode) (q : BitVec 2)
  /-- VRND (R239). -/
  | vrnd (h : VHead) (d : VCode)
  /-- PAND (R239). -/
  | pand (h : VHead) (d : BitVec 4) (a : BitVec 4) (b : BitVec 4)
  /-- POR (R239). -/
  | por (h : VHead) (d : BitVec 4) (a : BitVec 4) (b : BitVec 4)
  /-- PXOR (R239). -/
  | pxor (h : VHead) (d : BitVec 4) (a : BitVec 4) (b : BitVec 4)
  /-- PANDN (R239). -/
  | pandn (h : VHead) (d : BitVec 4) (a : BitVec 4) (b : BitVec 4)
  /-- VTOP (R239). -/
  | vtop (h : VHead) (d : BitVec 4) (a : VCode) (ty : Fmt)
  /-- PTOV (R239). -/
  | ptov (h : VHead) (d : VCode) (a : BitVec 4) (ty : Fmt)
  /-- MPUSHB (R260). -/
  | mpushb (g : OptGuard) (st : VCode) (au : Bool) (row : BitVec 7)
  /-- MPUSHBZ (R260). -/
  | mpushbz (g : OptGuard) (au : Bool) (row : BitVec 7)
  /-- MFLIP (R261). -/
  | mflip (g : OptGuard)
  /-- MPUSHA (R258). -/
  | mpusha (g : OptGuard) (a : VCode) (fr : BitVec 2) (row : BitVec 6) (nw : Bool)
  /-- MPUSHAS (R258). -/
  | mpushas (g : OptGuard) (a : VCode) (fr : BitVec 2) (row : BitVec 6) (ix : BitVec 6)
  /-- MPUSHAN (R258). -/
  | mpushan (g : OptGuard) (a : VCode) (fr : BitVec 2) (nw : Bool) (sp : Bool) (ix : BitVec 6)
  /-- MSHIFT (R259). -/
  | mshift (g : OptGuard)
  /-- MDRAIN (R262). -/
  | mdrain (g : OptGuard) (q : BitVec 2) (fr : BitVec 2) (au : Bool) (row : BitVec 6)
  /-- MDRAINZ (R262). -/
  | mdrainz (g : OptGuard) (q : BitVec 2) (fr : BitVec 2) (au : Bool) (row : BitVec 6)
  /-- MZERO (R263). -/
  | mzero (g : OptGuard) (fr : BitVec 2) (al : Bool) (row : BitVec 6)
  /-- MCHK (R264). -/
  | mchk (g : OptGuard) (d : VCode) (clr : Bool)
  /-- MCFG (R265). -/
  | mcfg (g : OptGuard) (af : Fmt) (bf : Fmt) (spm : BitVec 2) (sat : Bool) (rst : Bool)
  /-- VLD (R202). -/
  | vld (h : LHead) (d : VCode) (a : VCode)
  /-- VLDX (R203). -/
  | vldx (h : LHead) (d : VCode) (a : VCode) (sz : ESize) (sb : BitVec 4)
  /-- VLDB (R202). -/
  | vldb (h : LHead) (d : VCode) (a : VCode) (off : BitVec 12)
  /-- PLD (R202). -/
  | pld (h : LHead) (d : BitVec 4) (a : VCode)
  /-- VAMOOR (R206). -/
  | vamoor (h : LHead) (d : VCode) (a : VCode) (ret : Bool) (sz : Bool) (sb : BitVec 4) (v : VCode)
  /-- VAMOAND (R206). -/
  | vamoand (h : LHead) (d : VCode) (a : VCode) (ret : Bool) (sz : Bool) (sb : BitVec 4) (v : VCode)
  /-- VAMOXOR (R206). -/
  | vamoxor (h : LHead) (d : VCode) (a : VCode) (ret : Bool) (sz : Bool) (sb : BitVec 4) (v : VCode)
  /-- VAMOADD (R206). -/
  | vamoadd (h : LHead) (d : VCode) (a : VCode) (ret : Bool) (sz : Bool) (sb : BitVec 4) (v : VCode)
  /-- VAMOMIN (R206). -/
  | vamomin (h : LHead) (d : VCode) (a : VCode) (ret : Bool) (sz : Bool) (sb : BitVec 4) (v : VCode)
  /-- VAMOMAX (R206). -/
  | vamomax (h : LHead) (d : VCode) (a : VCode) (ret : Bool) (sz : Bool) (sb : BitVec 4) (v : VCode)
  /-- VAMOXCHG (R206). -/
  | vamoxchg (h : LHead) (d : VCode) (a : VCode) (ret : Bool) (sz : Bool) (sb : BitVec 4) (v : VCode)
  /-- VAMOCAS (R206). -/
  | vamocas (h : LHead) (d : VCode) (a : VCode) (ret : Bool) (sz : Bool) (sb : BitVec 4) (v : VCode)
  /-- VST (R202). -/
  | vst (h : LHead) (d : VCode) (a : VCode)
  /-- VSTX (R203). -/
  | vstx (h : LHead) (d : VCode) (a : VCode) (sz : ESize) (sb : BitVec 4)
  /-- PST (R202). -/
  | pst (h : LHead) (d : BitVec 4) (a : VCode)
  /-- RQST (R202). -/
  | rqst (h : LHead) (q : BitVec 2) (a : VCode)
  /-- FSEND (R296). -/
  | fsend (h : LHead) (d : VCode) (ch : Byte)
  /-- FSENDQ (R296). -/
  | fsendq (h : LHead) (q : BitVec 2) (ch : Byte)
  /-- FSENDS (R296). -/
  | fsends (h : LHead) (d : VCode) (ch : Byte) (sem : Byte)
  /-- FRECV (R297). -/
  | frecv (h : LHead) (d : VCode) (ch : Byte)
  /-- FRECVT (R288). -/
  | frecvt (h : LHead) (d : VCode) (ch : Byte)
  /-- COLLV (R315). -/
  | collv (h : LHead) (d : VCode) (id : BitVec 6)
  /-- COLLQ (R315). -/
  | collq (h : LHead) (q : BitVec 2) (id : BitVec 6)
  /-- LINK_FLIT_RECEIVE (R291). -/
  | linkFlitReceive (id : Nat) (noise : LinkNoise)
  /-- CHANNEL_FLIT_ARRIVE (R283). -/
  | channelFlitArrive (f : Flit)
  /-- STATIC_FLIT_ARRIVE (R288). -/
  | staticFlitArrive (f : Flit)
  /-- CHANNEL_ACK_SEND (R284). -/
  | channelAckSend (ch : Byte)
  /-- CHANNEL_ACK_ARRIVE (R283). -/
  | channelAckArrive (ch : Byte) (a : BitVec 16)
  /-- CHANNEL_RESEND_TIMEOUT (R284). -/
  | channelResendTimeout (ch : Byte)
  /-- NAK_ARRIVE (R292). -/
  | nakArrive (n : Nak)
  /-- GENERATION_RESEND (R292). -/
  | generationResend (n : Nak)
  /-- ROUTE_TABLE_LOAD (R276). -/
  | routeTableLoad (tabs : RouteSet)
  /-- COLL_UPWARD_FLIT (R319). -/
  | collUpwardFlit (port : BitVec 3) (f : CollFlit)
  /-- COLL_RESULT_FLIT (R320). -/
  | collResultFlit (f : CollFlit)
  /-- COLL_ABORT_FLIT (R324). -/
  | collAbortFlit (port : BitVec 3) (f : CollFlit)
  /-- DETOUR_FLIT_ARRIVE (R322). -/
  | detourFlitArrive (port : BitVec 3) (f : DetourFlit)
  /-- RING_PARTIAL_ARRIVE (R323). -/
  | ringPartialArrive (id : BitVec 6) (f : Flit)
  /-- RING_ABORT_ARRIVE (R324). -/
  | ringAbortArrive (id : BitVec 6) (f : Flit)
  /-- ROUND_TIMER_EXPIRE (R324). -/
  | roundTimerExpire (id : BitVec 6)
  /-- ROUND_GRACE_EXPIRE (R324). -/
  | roundGraceExpire (id : BitVec 6)
  /-- BARRIER_ARRIVED_FLIT (R330). -/
  | barrierArrivedFlit (port : BitVec 3) (f : CollFlit)
  /-- BARRIER_RELEASE_FLIT (R330). -/
  | barrierReleaseFlit (f : CollFlit)
  /-- OPTICAL_DATA_FLIT (R337). -/
  | opticalDataFlit (port : Nat) (f : OptFlit)
  /-- OPTICAL_IDLE_FLIT (R337). -/
  | opticalIdleFlit (port : Nat) (f : OptFlit)
  /-- IDLE_SEND_TIMER (R337). -/
  | idleSendTimer (port : Nat)
  /-- OPTICAL_REPLAY_FLIT (R338). -/
  | opticalReplayFlit (port : Nat) (f : OptFlit)
  /-- REPLAY_AGE_TIMEOUT (R338). -/
  | replayAgeTimeout (port : Nat)
  /-- RETRAIN_TIMEOUT (R338). -/
  | retrainTimeout (port : Nat)
  /-- LIGHT_LOSS (R342). -/
  | lightLoss (port : Nat) (group : BitVec 2)
  /-- REEF_FLIT (R342). -/
  | reefFlit (port : Nat) (f : OptFlit)
  /-- REEFACK_FLIT (R342). -/
  | reefackFlit (port : Nat) (f : OptFlit)
  /-- REEF_REPEAT_TIMER (R342). -/
  | reefRepeatTimer (port : Nat)
  /-- REEFACK_TIMEOUT (R342). -/
  | reefackTimeout (port : Nat)
  /-- UNREEF_FLIT (R344). -/
  | unreefFlit (port : Nat) (f : OptFlit)
  /-- UNREEFACK_FLIT (R344). -/
  | unreefackFlit (port : Nat) (f : OptFlit)
  /-- PORT_TRAINING (R333). -/
  | portTraining (port : Nat) (pmod : BitVec 12) (pport : Nat)
  /-- HOST_LINK_STATE_CHANGE (R351). -/
  | hostLinkStateChange (link : BitVec 2) (mode : LinkMode) (rate : Byte) (width : Byte)
  /-- TILE_WINDOW_ACCESS (R346). -/
  | tileWindowAccess (r : HostReq)
  /-- FAR_WINDOW_ACCESS (R90). -/
  | farWindowAccess (r : HostReq)
  /-- HOST_ATOMICOP (R345). -/
  | hostAtomicop (r : HostAtomic)
  /-- EVHEAD_WRITE (R350). -/
  | evheadWrite (fn : BitVec 2) (ring : Nat) (v : Word)
  /-- EVENT_RING_WRITE (R350). -/
  | eventRingWrite (fn : BitVec 2) (ring : Nat)
  /-- REGISTER_WRITE (R346). -/
  | registerWrite (fn : BitVec 2) (off : Nat) (x : RegAccess)
  /-- INVAL (R87). -/
  | inval (fn : BitVec 2) (slot : BitVec 4)
  /-- LLTGET (R348). -/
  | lltget (fn : BitVec 2) (slot : BitVec 4)
  /-- HCOPY (R348). -/
  | hcopy (fn : BitVec 2) (slot : BitVec 4)
  /-- UNREEF (R344). -/
  | unreef (fn : BitVec 2) (slot : BitVec 4)
  /-- EVRING (R348). -/
  | evring (fn : BitVec 2) (slot : BitVec 4)
  /-- TIMERD (R348). -/
  | timerd (fn : BitVec 2) (slot : BitVec 4)
  /-- XLSTAT (R348). -/
  | xlstat (fn : BitVec 2) (slot : BitVec 4)
  /-- LREC (R449). -/
  | lrec (fn : BitVec 2) (slot : BitVec 4)
  /-- QPRIO (R454). -/
  | qprio (fn : BitVec 2) (slot : BitVec 4)
  /-- PREEMPT (R454). -/
  | preempt (fn : BitVec 2) (slot : BitVec 4)
  /-- TDOWN (R454). -/
  | tdown (fn : BitVec 2) (slot : BitVec 4)
  /-- RSTAT (R454). -/
  | rstat (fn : BitVec 2) (slot : BitVec 4)
  /-- BSTAT (R490). -/
  | bstat (fn : BitVec 2) (slot : BitVec 4)
  /-- SPLICE (R490). -/
  | splice (fn : BitVec 2) (slot : BitVec 4)
  /-- RESYNC (R491). -/
  | resync (fn : BitVec 2) (slot : BitVec 4)
  /-- ATTEST (R492). -/
  | attest (fn : BitVec 2) (slot : BitVec 4)
  /-- PSTATE (R493). -/
  | pstate (fn : BitVec 2) (slot : BitVec 4)
  /-- CFGLOAD (R490). -/
  | cfgload (fn : BitVec 2) (slot : BitVec 4)
  /-- DEFRD (R490). -/
  | defrd (fn : BitVec 2) (slot : BitVec 4)
  /-- CLRRET (R480). -/
  | clrret (fn : BitVec 2) (slot : BitVec 4)
  /-- MAILBOX_UNKNOWN (R348). -/
  | mailboxUnknown (fn : BitVec 2) (slot : BitVec 4)
  /-- DISTRIBUTOR_CYCLE (R452). -/
  | distributorCycle
  /-- LAUNCH_BIND (R455). -/
  | launchBind
  /-- TILE_START (R455). -/
  | tileStart
  /-- TILE_RELEASE (R456). -/
  | tileRelease
  /-- SOFT_DEADLINE_EXPIRE (R457). -/
  | softDeadlineExpire (region : BitVec 16)
  /-- FORCED_PREEMPTION (R458). -/
  | forcedPreemption (region : BitVec 16)
  /-- MM_BIND_MESSAGE (R509). -/
  | mmBindMessage (m : BindMsg)
  /-- MM_BIND_TIMEOUT (R509). -/
  | mmBindTimeout (region : BitVec 16)
  /-- MGMT_MESSAGE_RELAY (R510). -/
  | mgmtMessageRelay (m : MgmtMsg)
  /-- BATCH_REQUEST (R463). -/
  | batchRequest (lid : Word) (pmod : BitVec 12)
  /-- GRANT_RECORD (R463). -/
  | grantRecord (lid : Word) (batch : Nat) (holder : BitVec 12)
  /-- GRANT_ACK (R463). -/
  | grantAck (lid : Word) (batch : Nat) (pmod : BitVec 12)
  /-- HEARTBEAT (R463). -/
  | heartbeat (lid : Word) (pmod : BitVec 12)
  /-- HEARTBEAT_TIMEOUT (R464). -/
  | heartbeatTimeout (lid : Word) (pmod : BitVec 12)
  /-- ELECTION_VIEW (R464). -/
  | electionView (v : View)
  /-- TRAP_ENTRY (R469). -/
  | trapEntry (c : Cause)
  /-- HANDLER_TIMEOUT (R473). -/
  | handlerTimeout
  /-- ESCALATION (R474). -/
  | escalation (c : Cause)
  /-- LFPSR_WRITE (R175). -/
  | lfpsrWrite (v : Word) (fl : BitVec 20)
  /-- BUFECC_CLEAR (R145). -/
  | bufeccClear (v : Word)
  /-- MXSR_CLEAR (R269). -/
  | mxsrClear (v : Word)
  /-- SEMST_CLEAR (R424). -/
  | semstClear (v : Word)
  /-- TCTL_ESC_SET (R468). -/
  | tctlEscSet (v : Word)
  /-- ISTORE_REFETCH (R142). -/
  | istoreRefetch (lane : Bool) (addr : Nat)
  /-- SPLICE_EXECUTE (R482). -/
  | spliceExecute
  /-- SPLICE_TIMEOUT (R484). -/
  | spliceTimeout
  /-- BOOT (R488). -/
  | boot
  /-- POWER_REMOVAL (R493). -/
  | powerRemoval
  /-- TEMPERATURE_WARNING (R493). -/
  | temperatureWarning (sensor : Word)
  /-- TEMPERATURE_CRITICAL (R493). -/
  | temperatureCritical (sensor : Word)
  /-- PTP_MESSAGE (R352). -/
  | ptpMessage (m : PtpMsg) (locked : Bool)
  /-- TIME_LOCK_LOSS (R354). -/
  | timeLockLoss
  /-- TIME_LOCK_REGAIN (R354). -/
  | timeLockRegain (offset : Int)
  /-- ILLEGAL_BUNDLE (R37). -/
  | illegalBundle (code : Byte) (slot : BitVec 4)
  /-- COLLB_READ_COMPLETE (R316). -/
  | collbReadComplete
  /-- FAR_MEMORY_REQUEST (R116). -/
  | farMemoryRequest (id : Nat)
  /-- LIGHT_RESTORE (R344). -/
  | lightRestore (port : Nat) (group : BitVec 2)
  /-- HCOPY_COMPLETE (R348). -/
  | hcopyComplete (id : Nat)
  /-- EVENT_VECTOR_HOLDOFF (R349). -/
  | eventVectorHoldoff (fn : BitVec 2) (ring : Nat)
deriving DecidableEq, Repr

end Sys2Proof
end

