-- ==== Sys2Proof/WellFormed.lean ====
section
/-!
DEFINITION. Which instructions an encoding can stand for: the reserved field values that make an illegal instruction
(faults 0x02 and 0x21) and the operand limits that make an illegal operand (faults 0x03 and 0x22), 02_bundles.md R37.
-/

namespace Sys2Proof

/-- Element size in bits (08_vector.md R210); HB4 and SCL have no element size. -/
def Fmt.bits : Fmt → Nat
  | .i4 => 4
  | .i8 | .e4m3 | .e5m2 => 8
  | .i16 | .bf16 | .f16 => 16
  | .i32 | .f32 => 32
  | .i64 => 64
  | .hb4 | .scl => 0

/-- The TY set I of R219. -/
def Fmt.isI : Fmt → Bool
  | .i8 | .i16 | .i32 | .i64 => true
  | _ => false

/-- The TY set F of R219. -/
def Fmt.isF : Fmt → Bool
  | .f32 | .bf16 | .f16 | .e4m3 | .e5m2 => true
  | _ => false

/-- The TY set F3 of R219. -/
def Fmt.isF3 : Fmt → Bool
  | .f32 | .bf16 | .f16 => true
  | _ => false

/-- Formats VCVT converts between (R229). -/
def Fmt.isCvt (f : Fmt) : Bool := f == .i4 || f.isI || f.isF

/-- Slot width in bits (02_bundles.md R45). -/
def Width.bits : Width → Nat
  | .w256 => 256
  | .w512 => 512
  | .w1024 => 1024

/-- Elements of a slot (08_vector.md R210). -/
def elems (w : Width) (f : Fmt) : Nat := w.bits / f.bits

/-- A destination code: a vector register or a stream, not a parameter register (02_bundles.md R48). -/
def destOk (d : VCode) : Bool := decide (d.toNat < 96 ∨ 112 ≤ d.toNat)

/-- A vector register name. -/
def vregOk (d : VCode) : Bool := decide (d.toNat < 96)

/-- A stream code. -/
def streamOk (d : VCode) : Bool := decide (112 ≤ d.toNat)

/-- The A and B format pairs of MCFG (09_matrix.md R241). -/
def mxPair : Fmt → Fmt → Bool
  | .bf16, .bf16 | .bf16, .f16 | .f16, .bf16 | .f16, .f16 => true
  | .e4m3, .e4m3 | .e4m3, .e5m2 | .e5m2, .e4m3 | .e5m2, .e5m2 => true
  | .i8, .i8 | .hb4, .hb4 => true
  | _, _ => false

/-- WTH = 0 needs WSEM = 0 and SINC = 0 needs SSEM = 0 (04_winch.md R94). -/
def WHead.ok (h : WHead) : Bool := (h.wth != 0 || h.wsem == 0) && (h.sinc != 0 || h.ssem == 0)

/-- A command whose encoding has no completion word field (04_winch.md R102). -/
def WOpts.noWord (o : WOpts) : Bool := o.cw.isNone

/-- A returning atomic may name D; one that does not return must not (07_streams_registers.md R205). -/
def vamoOk (d : VCode) (ret : Bool) : Bool := ret || d == 0

/-- A control-bundle SY slot carries no guard (02_bundles.md R40). -/
def SyHead.ok (h : SyHead) : Bool := h.lane || h.guard.isNone

/-- Reserved values and must-be-zero fields: false is fault 0x02 in a control bundle and 0x21 in a lane bundle. -/
def instrOk : Instr → Bool
  | .nop k e => k || !e
  | .wshp _ fld _ | .wshrd _ _ fld => decide (fld.toNat < 6)
  | .wcopy h .. | .wfillw h .. | .wsig h .. => h.ok
  | .wflush h _ => h.ok
  | .whalo h _ dm .. => h.ok && dm != 0
  | .wamo h aop _ _ _ xc o _ => h.ok && (aop == .cas || xc == 0) && o.noWord
  | .wamor h aop _ _ _ xc _ o _ => h.ok && (aop == .cas || xc == 0) && o.noWord
  | .wcrc h _ _ _ o _ => h.ok && o.noWord
  | .wtlbp h _ _ o _ => h.ok && o.noWord
  | .wscrubInterval h _ _ o _ | .wscrubNow h _ _ o _ | .wscrubDrop h _ _ o _ => h.ok && o.noWord
  | .semsig h _ inc => h.ok && inc != 0
  | .arrive h _ => h.ok
  | .fence h cm => h.ok && cm != 0
  | .barset _ _ xa w => w || xa == 0
  | .vadd _ _ _ _ ty .. | .vsub _ _ _ _ ty .. | .vmul _ _ _ _ ty .. | .vmulh _ _ _ _ ty _ => ty.isI
  | .vmad _ _ _ _ _ ty .. => ty.isI
  | .vneg _ _ _ ty _ | .vabs _ _ _ ty _ => ty.isI
  | .vmin _ _ _ _ ty | .vmax _ _ _ _ ty | .vminu _ _ _ _ ty | .vmaxu _ _ _ _ ty => ty.isI
  | .vpopc _ _ _ ty | .vclz _ _ _ ty => ty.isI
  | .vshl _ _ _ _ ty | .vshr _ _ _ _ ty | .vsra _ _ _ _ ty => ty.isI
  | .vshli _ _ _ ty k | .vshri _ _ _ ty k | .vsrai _ _ _ ty k => ty.isI && decide (k.toNat < ty.bits)
  | .vcmpeq _ _ _ _ ty | .vcmpne _ _ _ _ ty | .vcmplt _ _ _ _ ty | .vcmple _ _ _ _ ty => ty.isI
  | .vcmpltu _ _ _ _ ty | .vcmpleu _ _ _ _ ty => ty.isI
  | .vfadd _ _ _ _ ty .. | .vfmul _ _ _ _ ty .. | .vfsub _ _ _ _ ty .. => ty.isF
  | .vfma _ _ _ _ _ ty .. | .vfms _ _ _ _ _ ty .. | .vfnma _ _ _ _ _ ty .. => ty.isF
  | .vfmin _ _ _ _ ty | .vfmax _ _ _ _ ty => ty.isF
  | .vfabs _ _ _ ty | .vfneg _ _ _ ty => ty.isF
  | .vfcmpeq _ _ _ _ ty | .vfcmplt _ _ _ _ ty | .vfcmple _ _ _ _ ty | .vfcmpun _ _ _ _ ty => ty.isF
  | .vfclass _ _ _ ty _ => ty.isF
  | .vfscale _ _ _ _ ty .. => ty.isF
  | .vcvt _ _ _ ty df u rm _ =>
    ty.isCvt && df.isCvt && !(u && (ty == .i4 || df == .i4)) && (ty.isF || df.isF || rm == .rne)
  | .vcvthb h _ _ df .. => df.isF && decide (elems h.w df % 32 = 0)
  | .vcvtfhb h _ _ ty .. => ty.isF && decide (elems h.w ty % 32 = 0)
  | .vcvtscl h _ _ ty dir rm sat =>
    h.w != .w256 && (if dir then (ty.isF || ty == .i32 || ty == .i64) && rm == .rne && !sat else ty.isF)
  | .vperm _ _ _ _ _ ty | .vzipl _ _ _ _ ty | .vziph _ _ _ _ ty | .vuzpe _ _ _ _ ty | .vuzpo _ _ _ _ ty => ty.isI
  | .vrot h _ _ ty k | .vbcst h _ _ ty k => ty.isI && decide (k.toNat < elems h.w ty)
  | .vslide h _ _ _ ty k => ty.isI && decide (k.toNat ≤ elems h.w ty)
  | .vcmpr _ _ _ _ ty | .vexpd _ _ _ _ ty => ty.isI
  | .vtrn _ _ _ _ ty _ => ty.isI
  | .vred _ _ _ ty opr u rm sat | .vscan _ _ _ ty opr u rm sat =>
    (ty.isI || ty.isF) && !(u && ty.isF) && (opr == .sum || (rm == .rne && !sat))
  | .vredx h _ _ c acc .. => h.w == .w1024 && (acc || c == 0)
  | .vrcp _ _ _ ty .. | .vrsq _ _ _ ty .. | .vsqrt _ _ _ ty .. | .vexp2 _ _ _ ty .. => ty.isF3
  | .vlog2 _ _ _ ty .. | .vtanh _ _ _ ty .. | .vsigm _ _ _ ty .. => ty.isF3
  | .vpoprq h .. => h.w == .w1024
  | .vtop _ _ _ ty | .ptov _ _ _ ty => ty.isI
  | .mcfg _ af bf .. => mxPair af bf
  | .pld h .. | .pst h .. => h.w == .w256
  | .rqst h .. => h.w == .w1024
  | .vamoor _ d _ ret .. | .vamoand _ d _ ret .. | .vamoxor _ d _ ret .. | .vamoadd _ d _ ret .. => vamoOk d ret
  | .vamomin _ d _ ret .. | .vamomax _ d _ ret .. | .vamoxchg _ d _ ret .. => vamoOk d ret
  | .vamocas _ _ _ ret .. => ret
  | .fsendq h .. | .collq h .. => h.w == .w1024
  | _ => true

/-- Operand limits: false is fault 0x03 in a control bundle and 0x22 in a lane bundle. -/
def operandOk : Instr → Bool
  | .wfld _ _ n => decide (n.toNat < 6)
  | .bfx _ _ lsb len1 | .bfxu _ _ lsb len1 | .bfins _ _ lsb len1 => decide (lsb.toNat + len1.toNat + 1 ≤ 64)
  | .loop xa _ => xa != 0
  | .dispatch _ _ _ _ _ se sem => se || sem == 0
  | .scfg _ fld _ => decide (fld.toNat < 6)
  | .ldepth l => decide (1 ≤ l.toNat ∧ l.toNat ≤ 80)
  | .rbset b => decide (b.toNat < 80)
  | .collopen _ _ xb => xb.getLsbD 0 == false
  | .vadd _ d .. | .vsub _ d .. | .vmul _ d .. | .vmulh _ d .. | .vmad _ d .. | .vneg _ d .. | .vabs _ d .. => destOk d
  | .vdot4 _ d .. | .vmin _ d .. | .vmax _ d .. | .vminu _ d .. | .vmaxu _ d .. => destOk d
  | .vand _ d .. | .vor _ d .. | .vxor _ d .. | .vandn _ d .. | .vnot _ d .. | .vbsel _ d .. => destOk d
  | .vpopc _ d .. | .vclz _ d .. | .vshl _ d .. | .vshr _ d .. | .vsra _ d .. => destOk d
  | .vshli _ d .. | .vshri _ d .. | .vsrai _ d .. => destOk d
  | .vfadd _ d .. | .vfmul _ d .. | .vfsub _ d .. | .vfma _ d .. | .vfms _ d .. | .vfnma _ d .. => destOk d
  | .vfmin _ d .. | .vfmax _ d .. | .vfabs _ d .. | .vfneg _ d .. | .vfscale _ d .. => destOk d
  | .vcvt _ d .. | .vcvtmx _ d .. | .vcvtxm _ d .. | .vcvtscl _ d .. => destOk d
  | .vcvthb _ d a .. => destOk d && streamOk a
  | .vcvtfhb _ d .. => streamOk d
  | .vperm _ d .. | .vshuf _ d .. | .vrot _ d .. | .vslide _ d .. | .vzipl _ d .. | .vziph _ d .. => destOk d
  | .vuzpe _ d .. | .vuzpo _ d .. | .vbcst _ d .. | .vcmpr _ d .. | .vexpd _ d .. | .vtrn _ d .. => destOk d
  | .vred _ d .. | .vredx _ d .. | .vscan _ d .. => destOk d
  | .vrcp _ d .. | .vrsq _ d .. | .vsqrt _ d .. | .vexp2 _ d .. | .vlog2 _ d .. | .vtanh _ d .. | .vsigm _ d .. => destOk d
  | .vmov _ d _ | .vmovx _ d _ | .vpoprq _ d _ | .vrnd _ d | .ptov _ d .. => destOk d
  | .mpushb _ st au row => streamOk st && (!au || row == 0)
  | .mpushbz _ au row => !au || row == 0
  | .mdrain _ _ _ au row | .mdrainz _ _ _ au row => !au || row == 0
  | .mzero _ _ al row => !al || row == 0
  | .mchk _ d _ => vregOk d
  | .vld _ d a | .vldb _ d a _ => vregOk d && streamOk a
  | .vldx _ d a .. => vregOk d && vregOk a
  | .pld _ _ a | .pst _ _ a | .rqst _ _ a => streamOk a
  | .vamoor _ d a _ _ _ v | .vamoand _ d a _ _ _ v | .vamoxor _ d a _ _ _ v | .vamoadd _ d a _ _ _ v =>
    vregOk d && vregOk a && !streamOk v
  | .vamomin _ d a _ _ _ v | .vamomax _ d a _ _ _ v | .vamoxchg _ d a _ _ _ v | .vamocas _ d a _ _ _ v =>
    vregOk d && vregOk a && !streamOk v
  | .vst _ d a => vregOk d && streamOk a
  | .vstx _ d a .. => vregOk d && vregOk a
  | .frecv _ d _ | .frecvt _ d _ => destOk d
  | _ => true

/-- A well-formed instruction: one that an encoding the hardware accepts stands for. -/
def wf (i : Instr) : Bool := instrOk i && operandOk i

end Sys2Proof
end

