-- ==== Sys2Proof/Decode.lean ====
section
/-!
DEFINITION. Decoding bundles, total on any parcels, and the encoder of one-instruction bundles, both from the encoding
tables of the spec: 02_bundles.md R25-R61 and the operand layouts of the chapters that own the slots.
-/

namespace Sys2Proof

open Sys2Proof.Machine

/-! ### Small codes -/

/-- Element format codes (R50). -/
def fmtCode : Fmt → BitVec 4
  | .i4 => 0 | .i8 => 1 | .i16 => 2 | .i32 => 3 | .i64 => 4 | .f32 => 5
  | .bf16 => 6 | .f16 => 7 | .e4m3 => 8 | .e5m2 => 9 | .hb4 => 10 | .scl => 11

/-- The format of a code (R50); 0xC-0xF are no format. -/
def fmtOf (c : BitVec 4) : Option Fmt :=
  match c.toNat with
  | 0 => some .i4 | 1 => some .i8 | 2 => some .i16 | 3 => some .i32 | 4 => some .i64 | 5 => some .f32
  | 6 => some .bf16 | 7 => some .f16 | 8 => some .e4m3 | 9 => some .e5m2 | 10 => some .hb4 | 11 => some .scl
  | _ => none

/-- Width codes (R45). -/
def widthCode : Width → BitVec 2
  | .w256 => 0 | .w512 => 1 | .w1024 => 2

/-- The width of a code; 0b11 is none (R45). -/
def widthOf (c : BitVec 2) : Option Width :=
  match c.toNat with
  | 0 => some .w256 | 1 => some .w512 | 2 => some .w1024 | _ => none

/-- Rounding mode codes (R46). -/
def rmCode : RMode → BitVec 3
  | .rne => 0 | .rtz => 1 | .rdn => 2 | .rup => 3 | .sr => 4 | .dyn => 5

/-- The rounding mode of a code; 0b110 and 0b111 are none (R46). -/
def rmOf (c : BitVec 3) : Option RMode :=
  match c.toNat with
  | 0 => some .rne | 1 => some .rtz | 2 => some .rdn | 3 => some .rup | 4 => some .sr | 5 => some .dyn | _ => none

/-- Atomic operation codes (04_winch.md R116). -/
def aopCode : AOp → BitVec 4
  | .add => 0 | .and => 1 | .or => 2 | .xor => 3 | .min => 4 | .max => 5 | .minu => 6 | .maxu => 7 | .swap => 8 | .cas => 9

/-- The atomic operation of a code; 10-15 are none (04_winch.md R116). -/
def aopOf (c : BitVec 4) : Option AOp :=
  match c.toNat with
  | 0 => some .add | 1 => some .and | 2 => some .or | 3 => some .xor | 4 => some .min | 5 => some .max
  | 6 => some .minu | 7 => some .maxu | 8 => some .swap | 9 => some .cas | _ => none

/-- VRED operations (08_vector.md R235). -/
def redCode : RedOp → BitVec 2
  | .sum => 0 | .max => 1 | .min => 2

/-- The operation of a code; 0b11 is none (08_vector.md R235). -/
def redOf (c : BitVec 2) : Option RedOp :=
  match c.toNat with
  | 0 => some .sum | 1 => some .max | 2 => some .min | _ => none

/-- Sizes of VLDX and VSTX (07_streams_registers.md R198). -/
def esizeCode : ESize → BitVec 2
  | .h => 0 | .w => 1 | .d => 2

/-- The size of a code; 0b11 is none. -/
def esizeOf (c : BitVec 2) : Option ESize :=
  match c.toNat with
  | 0 => some .h | 1 => some .w | 2 => some .d | _ => none

/-- The E, G and SN fields of a slot (R42). -/
def guardCode : OptGuard → BitVec 6
  | none => 0#6
  | some g => 1#1 ++ g.g ++ BitVec.ofBool g.sn

/-- The guard of the fields: with E = 0, G and SN must be zero (R43). -/
def guardOf (x : BitVec 6) : Option OptGuard :=
  if x.getLsbD 5 then some (some ⟨bits 1 4 x, x.getLsbD 0⟩) else if x == 0 then some none else none

/-- A predicate code in range (R49). -/
def pok (c : VCode) : Bool := decide (c.toNat < 16)

/-! ### Slots: `none` is an illegal instruction -/

/-- An S slot (R40, R53; 13_control_slice.md R359). `xt` is the immediate of the bundle. -/
def parseS (x : BitVec 32) (xt : Word) : Option Instr :=
  let xd : XReg := bits 19 5 x
  let xa : XReg := bits 14 5 x
  let xb : XReg := bits 9 5 x
  let imm : BitVec 14 := bits 0 14 x
  let z9 := bits 0 9 x == 0#9
  match (bits 24 8 x).toNat with
  | 0x00 => if z9 then some (.add xd xa xb) else none
  | 0x01 => if z9 then some (.sub xd xa xb) else none
  | 0x03 => if z9 then some (.mul xd xa xb) else none
  | 0x04 => if z9 then some (.mulh xd xa xb) else none
  | 0x05 => if z9 then some (.mulhu xd xa xb) else none
  | 0x06 => if z9 then some (.div xd xa xb) else none
  | 0x07 => if z9 then some (.divu xd xa xb) else none
  | 0x08 => if z9 then some (.rem xd xa xb) else none
  | 0x09 => if z9 then some (.remu xd xa xb) else none
  | 0x0A => if z9 then some (.min xd xa xb) else none
  | 0x0B => if z9 then some (.max xd xa xb) else none
  | 0x0C => if z9 then some (.minu xd xa xb) else none
  | 0x0D => if z9 then some (.maxu xd xa xb) else none
  | 0x10 => if z9 then some (.and xd xa xb) else none
  | 0x11 => if z9 then some (.or xd xa xb) else none
  | 0x12 => if z9 then some (.xor xd xa xb) else none
  | 0x16 => if z9 then some (.shl xd xa xb) else none
  | 0x17 => if z9 then some (.shr xd xa xb) else none
  | 0x18 => if z9 then some (.sra xd xa xb) else none
  | 0x20 => if z9 then some (.seq xd xa xb) else none
  | 0x21 => if z9 then some (.sne xd xa xb) else none
  | 0x22 => if z9 then some (.slt xd xa xb) else none
  | 0x23 => if z9 then some (.sltu xd xa xb) else none
  | 0x33 => if z9 then some (.addsh xd xa xb) else none
  | 0x02 => some (.addi xd xa imm)
  | 0x13 => some (.andi xd xa imm)
  | 0x14 => some (.ori xd xa imm)
  | 0x15 => some (.xori xd xa imm)
  | 0x24 => some (.slti xd xa imm)
  | 0x25 => some (.sltiu xd xa imm)
  | 0x19 => if bits 6 8 imm == 0 then some (.shli xd xa (bits 0 6 imm)) else none
  | 0x1A => if bits 6 8 imm == 0 then some (.shri xd xa (bits 0 6 imm)) else none
  | 0x1B => if bits 6 8 imm == 0 then some (.srai xd xa (bits 0 6 imm)) else none
  | 0x1C => if imm == 0 then some (.clz xd xa) else none
  | 0x1D => if imm == 0 then some (.ctz xd xa) else none
  | 0x1E => if imm == 0 then some (.popc xd xa) else none
  | 0x28 => if bits 3 11 imm == 0 then some (.wfld xd xa (bits 0 3 imm)) else none
  | 0x29 => if bits 12 2 imm == 0 then some (.bfx xd xa (bits 6 6 imm) (bits 0 6 imm)) else none
  | 0x2A => if bits 12 2 imm == 0 then some (.bfxu xd xa (bits 6 6 imm) (bits 0 6 imm)) else none
  | 0x2B => if bits 12 2 imm == 0 then some (.bfins xd xa (bits 6 6 imm) (bits 0 6 imm)) else none
  | 0x30 => if xa == 0 then some (.li xd imm) else none
  | 0x31 => if xa == 0 && imm == 0 then some (.lix xd xt) else none
  | 0x32 => if imm == 0 then some (.addx xd xa xt) else none
  | 0x38 => if xa == 0 && bits 12 2 imm == 0 then some (.csrr xd (bits 0 12 imm)) else none
  | 0x39 => if xd == 0 && bits 12 2 imm == 0 then some (.csrw (bits 0 12 imm) xa) else none
  | 0x3A => if xd == 0 && bits 12 2 imm == 0 then some (.csrs (bits 0 12 imm) xa) else none
  | 0x3B => if xd == 0 && bits 12 2 imm == 0 then some (.csrc (bits 0 12 imm) xa) else none
  | 0x40 => if xa == 0 && imm == 0 then some (.accept xd) else none
  | _ => none

/-- A BR slot (R40, R54; 13_control_slice.md R370). -/
def parseBr (x : BitVec 32) : Option Instr :=
  let xa : XReg := bits 21 5 x
  let xb : XReg := bits 16 5 x
  let off : BitVec 16 := bits 0 16 x
  match (bits 26 6 x).toNat with
  | 0x00 => if xa == 0 && xb == 0 then some (.jmp off) else none
  | 0x01 => if xb == 0 && off == 0 then some (.jmpr xa) else none
  | 0x02 => if xa == 0 && xb == 0 then some (.call off) else none
  | 0x03 => if xb == 0 && off == 0 then some (.callr xa) else none
  | 0x04 => if xa == 0 && xb == 0 && off == 0 then some .ret else none
  | 0x08 => some (.beq xa xb off)
  | 0x09 => some (.bne xa xb off)
  | 0x0A => some (.blt xa xb off)
  | 0x0B => some (.bge xa xb off)
  | 0x0C => some (.bltu xa xb off)
  | 0x0D => some (.bgeu xa xb off)
  | 0x10 => if xb == 0 then some (.loop xa off) else none
  | 0x11 => if xa == 0 && xb == 0 && bits 14 2 off == 0 then some (.bswap (bits 0 14 off)) else none
  | 0x18 => if xa == 0 && xb == 0 && bits 8 8 off == 0 then some (.trap (bits 0 8 off)) else none
  | 0x19 => if xa == 0 && xb == 0 && off == 0 then some .eret else none
  | 0x1A => if xa == 0 && xb == 0 && off == 0 then some .endp else none
  | _ => none

/-- An SM slot (R40, R55; 10_fabric.md R298, R300). -/
def parseSm (x : BitVec 32) : Option Instr :=
  let xd : XReg := bits 21 5 x
  let xa : XReg := bits 16 5 x
  let cls : BitVec 4 := bits 12 4 x
  let m : SmAddr := ⟨cls, x.getLsbD 11, xa, bits 0 11 x⟩
  let t : SmAtom := ⟨cls, x.getLsbD 11, xa⟩
  let xb : XReg := bits 6 5 x
  let z6 := bits 0 6 x == 0#6
  let ch : Byte := bits 4 8 x
  let zc := cls == 0 && bits 0 4 x == 0#4
  match (bits 26 6 x).toNat with
  | 0x00 => some (.ldb m xd)
  | 0x01 => some (.ldbu m xd)
  | 0x02 => some (.ldh m xd)
  | 0x03 => some (.ldhu m xd)
  | 0x04 => some (.ldw m xd)
  | 0x05 => some (.ldwu m xd)
  | 0x06 => some (.ldd m xd)
  | 0x08 => some (.stb m xd)
  | 0x09 => some (.sth m xd)
  | 0x0A => some (.stw m xd)
  | 0x0B => some (.std m xd)
  | 0x10 => if z6 then some (.amoadd t xd xb) else none
  | 0x11 => if z6 then some (.amoand t xd xb) else none
  | 0x12 => if z6 then some (.amoor t xd xb) else none
  | 0x13 => if z6 then some (.amoxor t xd xb) else none
  | 0x14 => if z6 then some (.amomin t xd xb) else none
  | 0x15 => if z6 then some (.amomax t xd xb) else none
  | 0x16 => if z6 then some (.amominu t xd xb) else none
  | 0x17 => if z6 then some (.amomaxu t xd xb) else none
  | 0x18 => if z6 then some (.amoswap t xd xb) else none
  | 0x19 => if z6 then some (.amocas t xd xb) else none
  | 0x20 => if zc && xd == 0 then some (.chrsv ch xa) else none
  | 0x21 => if zc && xd == 0 then some (.chrel ch xa) else none
  | 0x22 => if zc && xd == 0 then some (.chwait ch xa) else none
  | 0x23 => if zc && xa == 0 then some (.chstat xd ch) else none
  | 0x24 => (aopOf (bits 8 4 x)).bind fun aop =>
      if x.getLsbD 0 then none else some (.ramo cls xd xa aop (x.getLsbD 7) (x.getLsbD 6) (bits 1 5 x))
  | _ => none

/-- An optional operand of a WN command: with its flag clear, its field must be zero (04_winch.md R102). -/
def optReg (flag : Bool) (r : XReg) : Option (Option XReg) :=
  if flag then some (some r) else if r == 0 then some none else none

/-- The completion word operands xW and xV (04_winch.md R102). -/
def optWord (flag : Bool) (xw xv : XReg) : Option (Option (XReg × XReg)) :=
  if flag then some (some (xw, xv)) else if xw == 0 && xv == 0 then some none else none

/-- The barrier operand (04_winch.md R102). -/
def optBar (flag : Bool) (nb : BitVec 7) : Option WBar :=
  if flag then some (some nb) else if nb == 0 then some none else none

/-- A WN slot (R40, R56; 04_winch.md R102, R120). -/
def parseWn (x : BitVec 96) : Option Instr :=
  let h : WHead := ⟨bits 80 8 x, bits 72 8 x, bits 64 8 x, bits 60 4 x, bits 58 2 x, x.getLsbD 57⟩
  let imm := bits 57 31 x == 0#31
  let f (lo w : Nat) : BitVec w := bits lo w x
  match (bits 88 8 x).toNat with
  | 0x00 => if imm && f 0 46 == 0 then some (.wshp (f 54 3) (f 51 3) (f 46 5)) else none
  | 0x01 => if imm && f 0 46 == 0 then some (.wshrd (f 46 5) (f 54 3) (f 51 3)) else none
  | 0x02 => (optWord (x.getLsbD 50) (f 45 5) (f 40 5)).bind fun cw => (optReg (x.getLsbD 39) (f 34 5)).bind fun cr =>
      (optBar (x.getLsbD 33) (f 26 7)).bind fun ba =>
      if f 0 9 == 0 then some (.wcopy h (f 54 3) (f 51 3) ⟨cw, cr⟩ ba (x.getLsbD 25) (f 9 16)) else none
  | 0x03 => (optWord (x.getLsbD 45) (f 40 5) (f 35 5)).bind fun cw => (optReg (x.getLsbD 34) (f 29 5)).bind fun cr =>
      if f 0 13 == 0 then some (.whalo h (f 54 3) (f 50 4) (x.getLsbD 49) (f 46 3) ⟨cw, cr⟩ (f 13 16)) else none
  | 0x04 => (aopOf (f 53 4)).bind fun aop => (optReg (x.getLsbD 31) (f 26 5)).bind fun cr =>
      if f 32 5 == 0 && f 0 10 == 0 then
        some (.wamo h aop (x.getLsbD 52) (f 47 5) (f 42 5) (f 37 5) ⟨none, cr⟩ (f 10 16)) else none
  | 0x05 => (aopOf (f 53 4)).bind fun aop => (optReg (x.getLsbD 31) (f 26 5)).bind fun cr =>
      if f 0 10 == 0 then
        some (.wamor h aop (x.getLsbD 52) (f 47 5) (f 42 5) (f 37 5) (f 32 5) ⟨none, cr⟩ (f 10 16)) else none
  | 0x06 => (optReg (x.getLsbD 47) (f 42 5)).bind fun cr =>
      if f 0 26 == 0 then some (.wcrc h (f 54 3) (x.getLsbD 53) (f 48 5) ⟨none, cr⟩ (f 26 16)) else none
  | 0x07 => (optReg (x.getLsbD 39) (f 34 5)).bind fun cr => (optWord (x.getLsbD 33) (f 28 5) (f 23 5)).bind fun cw =>
      if f 0 7 == 0 then some (.wfillw h (f 54 3) (f 51 3) (f 46 5) (f 40 6) ⟨cw, cr⟩ (f 7 16)) else none
  | 0x08 => (optWord (x.getLsbD 56) (f 51 5) (f 46 5)).bind fun cw => (optReg (x.getLsbD 45) (f 40 5)).bind fun cr =>
      (optBar (x.getLsbD 39) (f 32 7)).bind fun ba =>
      if f 0 16 == 0 then some (.wsig h ⟨cw, cr⟩ ba (f 16 16)) else none
  | 0x09 => if f 0 55 == 0 then some (.wflush h (f 55 2)) else none
  | 0x0A => (optReg (x.getLsbD 49) (f 44 5)).bind fun cr =>
      if f 0 28 == 0 then some (.wtlbp h (f 52 5) (f 50 2) ⟨none, cr⟩ (f 28 16)) else none
  | 0x0B => if imm && f 0 44 == 0 then
      if x.getLsbD 56 then some (.wrqcfgCr (f 54 2) (f 49 5) (f 44 5)) else some (.wrqcfgRq (f 54 2) (f 49 5) (f 44 5))
      else none
  | 0x0C => (optReg (x.getLsbD 43) (f 38 5)).bind fun cr =>
      if f 0 22 == 0 then
        match (f 55 2).toNat with
        | 0 => some (.wscrubInterval h (f 50 5) (f 44 6) ⟨none, cr⟩ (f 22 16))
        | 1 => some (.wscrubNow h (f 50 5) (f 44 6) ⟨none, cr⟩ (f 22 16))
        | 2 => some (.wscrubDrop h (f 50 5) (f 44 6) ⟨none, cr⟩ (f 22 16))
        | _ => none
      else none
  | 0x0D => if imm && f 0 52 == 0 then some (.wstat (f 52 5)) else none
  | _ => none

/-- An HY slot (R40, R57; 13_control_slice.md R383). -/
def parseHy (x : BitVec 48) (xt : Word) : Option Instr :=
  let f (lo w : Nat) : BitVec w := bits lo w x
  let xf := x.getLsbD 41
  match (bits 42 6 x).toNat with
  | 0x00 => if !xf && f 0 4 == 0 then
      some (.dispatch (f 26 15) (f 21 5) (x.getLsbD 20) (x.getLsbD 19) (f 13 6) (x.getLsbD 12) (f 4 8)) else none
  | 0x01 => if !xf && f 0 27 == 0 then some (.mask (f 37 4) (f 32 5) (f 27 5)) else none
  | 0x02 => if f 0 32 == 0 then
      if xf then (if f 32 5 == 0 then some (.param (f 37 4) (.imm xt)) else none)
      else some (.param (f 37 4) (.reg (f 32 5))) else none
  | 0x03 => if !xf && f 0 29 == 0 then some (.scfg (f 37 4) (f 34 3) (f 29 5)) else none
  | 0x04 => if !xf && f 0 34 == 0 then some (.ldepth (f 34 7)) else none
  | 0x05 => if !xf && f 0 34 == 0 then some (.rbset (f 34 7)) else none
  | 0x06 => if !xf && f 0 36 == 0 then some (.rseed (f 36 5)) else none
  | _ => none

/-- An SY slot in a control bundle or a lane bundle (R40, R58; 15_sync_time_phases.md R421, 14_memory_model.md R402,
11_exact_reduction.md R311). A control-only opcode in a lane bundle is illegal. -/
def parseSy (lane : Bool) (x : BitVec 32) : Option Instr :=
  (guardOf (bits 20 6 x)).bind fun g =>
  let h : SyHead := ⟨lane, g⟩
  let f (lo w : Nat) : BitVec w := bits lo w x
  match (bits 26 6 x).toNat with
  | 0x00 => some (.semsig h (f 12 8) (f 0 12))
  | 0x04 => if f 0 13 == 0 then some (.arrive h (f 13 7)) else none
  | 0x10 => if f 0 4 == 0 then some (.fence h (f 4 16)) else none
  | op =>
    if lane || g.isSome then none else
    match op with
    | 0x01 => if f 0 7 == 0 then some (.semwait (f 12 8) (f 7 5)) else none
    | 0x02 => if f 0 7 == 0 then some (.semset (f 12 8) (f 7 5)) else none
    | 0x03 => if f 0 7 == 0 then some (.semrd (f 7 5) (f 12 8)) else none
    | 0x05 => if f 0 13 == 0 then some (.wait (f 13 7)) else none
    | 0x06 => if f 0 13 == 0 then some (.arrwait (f 13 7)) else none
    | 0x07 => if f 0 2 == 0 then some (.barset (f 8 5) (f 13 7) (f 3 5) (x.getLsbD 2)) else none
    | 0x08 => if f 0 2 == 0 then
        some (.waita (f 15 5) (f 10 5) (f 5 5) (x.getLsbD 4) (x.getLsbD 3) (x.getLsbD 2)) else none
    | 0x09 => if f 0 15 == 0 then some (.waitt (f 15 5)) else none
    | 0x0A => if f 0 15 == 0 then some (.rdtime (f 15 5)) else none
    | 0x0C => if f 0 20 == 0 then some .phbegin else none
    | 0x0D => if f 0 20 == 0 then some .phcommit else none
    | 0x0E => if f 0 20 == 0 then some .phcancel else none
    | 0x11 => if f 0 20 == 0 then some .ifence else none
    | 0x12 => if f 0 14 == 0 then some (.digrd (f 15 5) (x.getLsbD 14)) else none
    | 0x13 => if f 0 14 == 0 then some (.digset (f 15 5) (x.getLsbD 14)) else none
    | 0x18 => if f 0 4 == 0 then some (.collb (f 14 6) (f 9 5) (f 4 5)) else none
    | 0x19 => if f 0 4 == 0 then some (.collopen (f 14 6) (f 9 5) (f 4 5)) else none
    | 0x1A => if f 0 14 == 0 then some (.collabt (f 14 6)) else none
    | 0x1B => if f 0 9 == 0 then some (.collst (f 9 5) (f 14 6)) else none
    | _ => none

/-- A VA or VB slot (R42, R59; 08_vector.md R219-R239). The second component says whether its predicate codes are in range. -/
noncomputable def parseV (x : BitVec 64) (xl : Word) : Option (Instr × Bool) :=
  (guardOf (bits 50 6 x)).bind fun g => (widthOf (bits 48 2 x)).bind fun w => (rmOf (bits 45 3 x)).bind fun rm =>
  let h : VHead := ⟨g, w⟩
  let sat := x.getLsbD 44
  let d : VCode := bits 37 7 x
  let a : VCode := bits 30 7 x
  let b : VCode := bits 23 7 x
  let c : VCode := bits 16 7 x
  let ty4 : BitVec 4 := bits 12 4 x
  let aux : BitVec 12 := bits 0 12 x
  match (bits 56 8 x).toNat with
  | 0x00 => (fmtOf ty4).bind fun ty => if bits 0 11 aux == 0 && c == 0 && rm == .rne then some (.vadd h d a b ty (aux.getLsbD 11) sat, true) else none
  | 0x01 => (fmtOf ty4).bind fun ty => if bits 0 11 aux == 0 && c == 0 && rm == .rne then some (.vsub h d a b ty (aux.getLsbD 11) sat, true) else none
  | 0x02 => (fmtOf ty4).bind fun ty => if bits 0 11 aux == 0 && c == 0 && rm == .rne then some (.vmul h d a b ty (aux.getLsbD 11) sat, true) else none
  | 0x03 => (fmtOf ty4).bind fun ty => if bits 0 11 aux == 0 && c == 0 && rm == .rne && !sat then some (.vmulh h d a b ty (aux.getLsbD 11), true) else none
  | 0x04 => (fmtOf ty4).bind fun ty => if bits 0 11 aux == 0 && rm == .rne then some (.vmad h d a b c ty (aux.getLsbD 11) sat, true) else none
  | 0x05 => (fmtOf ty4).bind fun ty => if aux == 0 && b == 0 && c == 0 && rm == .rne then some (.vneg h d a ty sat, true) else none
  | 0x06 => (fmtOf ty4).bind fun ty => if aux == 0 && b == 0 && c == 0 && rm == .rne then some (.vabs h d a ty sat, true) else none
  | 0x07 => if bits 0 11 aux == 0 && rm == .rne && ty4 == 0x1 then some (.vdot4 h d a b c (aux.getLsbD 11) sat, true) else none
  | 0x08 => (fmtOf ty4).bind fun ty => if aux == 0 && c == 0 && rm == .rne && !sat then some (.vmin h d a b ty, true) else none
  | 0x09 => (fmtOf ty4).bind fun ty => if aux == 0 && c == 0 && rm == .rne && !sat then some (.vmax h d a b ty, true) else none
  | 0x0A => (fmtOf ty4).bind fun ty => if aux == 0 && c == 0 && rm == .rne && !sat then some (.vminu h d a b ty, true) else none
  | 0x0B => (fmtOf ty4).bind fun ty => if aux == 0 && c == 0 && rm == .rne && !sat then some (.vmaxu h d a b ty, true) else none
  | 0x10 => if aux == 0 && c == 0 && rm == .rne && !sat && ty4 == 0x0 then some (.vand h d a b, true) else none
  | 0x11 => if aux == 0 && c == 0 && rm == .rne && !sat && ty4 == 0x0 then some (.vor h d a b, true) else none
  | 0x12 => if aux == 0 && c == 0 && rm == .rne && !sat && ty4 == 0x0 then some (.vxor h d a b, true) else none
  | 0x13 => if aux == 0 && c == 0 && rm == .rne && !sat && ty4 == 0x0 then some (.vandn h d a b, true) else none
  | 0x14 => if aux == 0 && b == 0 && c == 0 && rm == .rne && !sat && ty4 == 0x0 then some (.vnot h d a, true) else none
  | 0x15 => if aux == 0 && rm == .rne && !sat && ty4 == 0x0 then some (.vbsel h d a b c, true) else none
  | 0x16 => (fmtOf ty4).bind fun ty => if aux == 0 && b == 0 && c == 0 && rm == .rne && !sat then some (.vpopc h d a ty, true) else none
  | 0x17 => (fmtOf ty4).bind fun ty => if aux == 0 && b == 0 && c == 0 && rm == .rne && !sat then some (.vclz h d a ty, true) else none
  | 0x18 => (fmtOf ty4).bind fun ty => if aux == 0 && c == 0 && rm == .rne && !sat then some (.vshl h d a b ty, true) else none
  | 0x19 => (fmtOf ty4).bind fun ty => if aux == 0 && c == 0 && rm == .rne && !sat then some (.vshr h d a b ty, true) else none
  | 0x1A => (fmtOf ty4).bind fun ty => if aux == 0 && c == 0 && rm == .rne && !sat then some (.vsra h d a b ty, true) else none
  | 0x1B => (fmtOf ty4).bind fun ty => if bits 6 6 aux == 0 && b == 0 && c == 0 && rm == .rne && !sat then some (.vshli h d a ty (bits 0 6 aux), true) else none
  | 0x1C => (fmtOf ty4).bind fun ty => if bits 6 6 aux == 0 && b == 0 && c == 0 && rm == .rne && !sat then some (.vshri h d a ty (bits 0 6 aux), true) else none
  | 0x1D => (fmtOf ty4).bind fun ty => if bits 6 6 aux == 0 && b == 0 && c == 0 && rm == .rne && !sat then some (.vsrai h d a ty (bits 0 6 aux), true) else none
  | 0x20 => (fmtOf ty4).bind fun ty => if aux == 0 && c == 0 && rm == .rne && !sat then some (.vcmpeq h (bits 0 4 d) a b ty, pok d) else none
  | 0x21 => (fmtOf ty4).bind fun ty => if aux == 0 && c == 0 && rm == .rne && !sat then some (.vcmpne h (bits 0 4 d) a b ty, pok d) else none
  | 0x22 => (fmtOf ty4).bind fun ty => if aux == 0 && c == 0 && rm == .rne && !sat then some (.vcmplt h (bits 0 4 d) a b ty, pok d) else none
  | 0x23 => (fmtOf ty4).bind fun ty => if aux == 0 && c == 0 && rm == .rne && !sat then some (.vcmple h (bits 0 4 d) a b ty, pok d) else none
  | 0x24 => (fmtOf ty4).bind fun ty => if aux == 0 && c == 0 && rm == .rne && !sat then some (.vcmpltu h (bits 0 4 d) a b ty, pok d) else none
  | 0x25 => (fmtOf ty4).bind fun ty => if aux == 0 && c == 0 && rm == .rne && !sat then some (.vcmpleu h (bits 0 4 d) a b ty, pok d) else none
  | 0x40 => (fmtOf ty4).bind fun ty => if aux == 0 && c == 0 then some (.vfadd h d a b ty rm sat, true) else none
  | 0x41 => (fmtOf ty4).bind fun ty => if aux == 0 && c == 0 then some (.vfmul h d a b ty rm sat, true) else none
  | 0x42 => (fmtOf ty4).bind fun ty => if aux == 0 && c == 0 then some (.vfsub h d a b ty rm sat, true) else none
  | 0x43 => (fmtOf ty4).bind fun ty => if aux == 0 then some (.vfma h d a b c ty rm sat, true) else none
  | 0x44 => (fmtOf ty4).bind fun ty => if aux == 0 then some (.vfms h d a b c ty rm sat, true) else none
  | 0x45 => (fmtOf ty4).bind fun ty => if aux == 0 then some (.vfnma h d a b c ty rm sat, true) else none
  | 0x46 => (fmtOf ty4).bind fun ty => if aux == 0 && c == 0 && rm == .rne && !sat then some (.vfmin h d a b ty, true) else none
  | 0x47 => (fmtOf ty4).bind fun ty => if aux == 0 && c == 0 && rm == .rne && !sat then some (.vfmax h d a b ty, true) else none
  | 0x48 => (fmtOf ty4).bind fun ty => if aux == 0 && b == 0 && c == 0 && rm == .rne && !sat then some (.vfabs h d a ty, true) else none
  | 0x49 => (fmtOf ty4).bind fun ty => if aux == 0 && b == 0 && c == 0 && rm == .rne && !sat then some (.vfneg h d a ty, true) else none
  | 0x4A => (fmtOf ty4).bind fun ty => if aux == 0 && c == 0 && rm == .rne && !sat then some (.vfcmpeq h (bits 0 4 d) a b ty, pok d) else none
  | 0x4B => (fmtOf ty4).bind fun ty => if aux == 0 && c == 0 && rm == .rne && !sat then some (.vfcmplt h (bits 0 4 d) a b ty, pok d) else none
  | 0x4C => (fmtOf ty4).bind fun ty => if aux == 0 && c == 0 && rm == .rne && !sat then some (.vfcmple h (bits 0 4 d) a b ty, pok d) else none
  | 0x4D => (fmtOf ty4).bind fun ty => if aux == 0 && c == 0 && rm == .rne && !sat then some (.vfcmpun h (bits 0 4 d) a b ty, pok d) else none
  | 0x4E => (fmtOf ty4).bind fun ty => if bits 9 3 aux == 0 && b == 0 && c == 0 && rm == .rne && !sat then some (.vfclass h (bits 0 4 d) a ty (bits 0 9 aux), pok d) else none
  | 0x4F => (fmtOf ty4).bind fun ty => if aux == 0 && c == 0 then some (.vfscale h d a b ty rm sat, true) else none
  | 0x80 => (fmtOf ty4).bind fun ty => (fmtOf (bits 8 4 aux)).bind fun df => if bits 0 7 aux == 0 && b == 0 && c == 0 then some (.vcvt h d a ty df (aux.getLsbD 7) rm sat, true) else none
  | 0x81 => (fmtOf (bits 8 4 aux)).bind fun df => if bits 0 8 aux == 0 && b == 0 && c == 0 && ty4 == 0xA then some (.vcvthb h d a df rm sat, true) else none
  | 0x82 => (fmtOf ty4).bind fun ty => if bits 10 2 aux == 0 && bits 0 8 aux == 0 && b == 0 && c == 0 && !sat then some (.vcvtfhb h d a ty (bits 8 2 aux) rm, true) else none
  | 0x83 => if aux == 0 && b == 0 && c == 0 && !sat && ty4 == 0xA then some (.vcvtmx h d a rm, true) else none
  | 0x84 => if aux == 0 && b == 0 && c == 0 && !sat && ty4 == 0xA then some (.vcvtxm h d a rm, true) else none
  | 0x85 => (fmtOf ty4).bind fun ty => if bits 0 11 aux == 0 && b == 0 && c == 0 then some (.vcvtscl h d a ty (aux.getLsbD 11) rm sat, true) else none
  | 0xA0 => (fmtOf ty4).bind fun ty => if aux == 0 && rm == .rne && !sat then some (.vperm h d a b c ty, true) else none
  | 0xA1 => if bits 8 4 aux == 0 && b == 0 && c == 0 && rm == .rne && !sat && ty4 == 0x0 then some (.vshuf h d a (bits 0 8 aux), true) else none
  | 0xA2 => (fmtOf ty4).bind fun ty => if bits 7 5 aux == 0 && b == 0 && c == 0 && rm == .rne && !sat then some (.vrot h d a ty (bits 0 7 aux), true) else none
  | 0xA3 => (fmtOf ty4).bind fun ty => if bits 8 4 aux == 0 && c == 0 && rm == .rne && !sat then some (.vslide h d a b ty (bits 0 8 aux), true) else none
  | 0xA4 => (fmtOf ty4).bind fun ty => if aux == 0 && c == 0 && rm == .rne && !sat then some (.vzipl h d a b ty, true) else none
  | 0xA5 => (fmtOf ty4).bind fun ty => if aux == 0 && c == 0 && rm == .rne && !sat then some (.vziph h d a b ty, true) else none
  | 0xA6 => (fmtOf ty4).bind fun ty => if aux == 0 && c == 0 && rm == .rne && !sat then some (.vuzpe h d a b ty, true) else none
  | 0xA7 => (fmtOf ty4).bind fun ty => if aux == 0 && c == 0 && rm == .rne && !sat then some (.vuzpo h d a b ty, true) else none
  | 0xA8 => (fmtOf ty4).bind fun ty => if bits 7 5 aux == 0 && b == 0 && c == 0 && rm == .rne && !sat then some (.vbcst h d a ty (bits 0 7 aux), true) else none
  | 0xA9 => (fmtOf ty4).bind fun ty => if aux == 0 && c == 0 && rm == .rne && !sat then some (.vcmpr h d a (bits 0 4 b) ty, pok b) else none
  | 0xAA => (fmtOf ty4).bind fun ty => if aux == 0 && c == 0 && rm == .rne && !sat then some (.vexpd h d a (bits 0 4 b) ty, pok b) else none
  | 0xAB => (fmtOf ty4).bind fun ty => if bits 1 11 aux == 0 && c == 0 && rm == .rne && !sat then some (.vtrn h d a b ty (aux.getLsbD 0), true) else none
  | 0xB0 => (fmtOf ty4).bind fun ty => (redOf (bits 0 2 aux)).bind fun opr => if bits 2 9 aux == 0 && b == 0 && c == 0 then some (.vred h d a ty opr (aux.getLsbD 11) rm sat, true) else none
  | 0xB1 => if bits 0 11 aux == 0 && b == 0 && ty4 == 0x5 then some (.vredx h d a c (aux.getLsbD 11) rm sat, true) else none
  | 0xB2 => (fmtOf ty4).bind fun ty => (redOf (bits 0 2 aux)).bind fun opr => if bits 2 9 aux == 0 && b == 0 && c == 0 then some (.vscan h d a ty opr (aux.getLsbD 11) rm sat, true) else none
  | 0xC0 => (fmtOf ty4).bind fun ty => if aux == 0 && b == 0 && c == 0 then some (.vrcp h d a ty rm sat, true) else none
  | 0xC1 => (fmtOf ty4).bind fun ty => if aux == 0 && b == 0 && c == 0 then some (.vrsq h d a ty rm sat, true) else none
  | 0xC2 => (fmtOf ty4).bind fun ty => if aux == 0 && b == 0 && c == 0 then some (.vsqrt h d a ty rm sat, true) else none
  | 0xC3 => (fmtOf ty4).bind fun ty => if aux == 0 && b == 0 && c == 0 then some (.vexp2 h d a ty rm sat, true) else none
  | 0xC4 => (fmtOf ty4).bind fun ty => if aux == 0 && b == 0 && c == 0 then some (.vlog2 h d a ty rm sat, true) else none
  | 0xC5 => (fmtOf ty4).bind fun ty => if aux == 0 && b == 0 && c == 0 then some (.vtanh h d a ty rm sat, true) else none
  | 0xC6 => (fmtOf ty4).bind fun ty => if aux == 0 && b == 0 && c == 0 then some (.vsigm h d a ty rm sat, true) else none
  | 0xD0 => if aux == 0 && b == 0 && c == 0 && rm == .rne && !sat && ty4 == 0x0 then some (.vmov h d a, true) else none
  | 0xD1 => if aux == 0 && a == 0 && b == 0 && c == 0 && rm == .rne && !sat && ty4 == 0x0 then some (.vmovx h d xl, true) else none
  | 0xD2 => if bits 2 10 aux == 0 && a == 0 && b == 0 && c == 0 && rm == .rne && !sat && ty4 == 0x0 then some (.vpoprq h d (bits 0 2 aux), true) else none
  | 0xD3 => if aux == 0 && a == 0 && b == 0 && c == 0 && rm == .rne && !sat && ty4 == 0x0 then some (.vrnd h d, true) else none
  | 0xD4 => if aux == 0 && c == 0 && rm == .rne && !sat && ty4 == 0x0 then some (.pand h (bits 0 4 d) (bits 0 4 a) (bits 0 4 b), pok d && pok a && pok b) else none
  | 0xD5 => if aux == 0 && c == 0 && rm == .rne && !sat && ty4 == 0x0 then some (.por h (bits 0 4 d) (bits 0 4 a) (bits 0 4 b), pok d && pok a && pok b) else none
  | 0xD6 => if aux == 0 && c == 0 && rm == .rne && !sat && ty4 == 0x0 then some (.pxor h (bits 0 4 d) (bits 0 4 a) (bits 0 4 b), pok d && pok a && pok b) else none
  | 0xD7 => if aux == 0 && c == 0 && rm == .rne && !sat && ty4 == 0x0 then some (.pandn h (bits 0 4 d) (bits 0 4 a) (bits 0 4 b), pok d && pok a && pok b) else none
  | 0xD8 => (fmtOf ty4).bind fun ty => if aux == 0 && b == 0 && c == 0 && rm == .rne && !sat then some (.vtop h (bits 0 4 d) a ty, pok d) else none
  | 0xD9 => (fmtOf ty4).bind fun ty => if aux == 0 && b == 0 && c == 0 && rm == .rne && !sat then some (.ptov h d (bits 0 4 a) ty, pok a) else none
  | _ => none

/-- An MX slot (R42, R60; 09_matrix.md R255). -/
noncomputable def parseMx (x : BitVec 32) : Option Instr :=
  (guardOf (bits 21 6 x)).bind fun g =>
  let f (lo w : Nat) : BitVec w := bits lo w x
  match (bits 27 5 x).toNat with
  | 0x00 => if f 0 6 == 0 then some (.mpushb g (f 14 7) (x.getLsbD 13) (f 6 7)) else none
  | 0x01 => if f 14 7 == 0 && f 0 6 == 0 then some (.mpushbz g (x.getLsbD 13) (f 6 7)) else none
  | 0x02 => if f 0 21 == 0 then some (.mflip g) else none
  | 0x03 => if f 0 5 == 0 then some (.mpusha g (f 14 7) (f 12 2) (f 6 6) (x.getLsbD 5)) else none
  | 0x04 => some (.mpushas g (f 14 7) (f 12 2) (f 6 6) (f 0 6))
  | 0x05 => if f 0 4 == 0 then some (.mpushan g (f 14 7) (f 12 2) (x.getLsbD 11) (x.getLsbD 10) (f 4 6)) else none
  | 0x06 => if f 0 21 == 0 then some (.mshift g) else none
  | 0x07 => if f 0 10 == 0 then some (.mdrain g (f 19 2) (f 17 2) (x.getLsbD 16) (f 10 6)) else none
  | 0x08 => if f 0 10 == 0 then some (.mdrainz g (f 19 2) (f 17 2) (x.getLsbD 16) (f 10 6)) else none
  | 0x09 => if f 0 12 == 0 then some (.mzero g (f 19 2) (x.getLsbD 18) (f 12 6)) else none
  | 0x0A => if f 0 13 == 0 then some (.mchk g (f 14 7) (x.getLsbD 13)) else none
  | 0x0B => (fmtOf (f 17 4)).bind fun af => (fmtOf (f 13 4)).bind fun bf =>
      if f 0 9 == 0 then some (.mcfg g af bf (f 11 2) (x.getLsbD 10) (x.getLsbD 9)) else none
  | _ => none

/-- The vector atomic of an opcode with its operands (07_streams_registers.md R205). -/
noncomputable def vamoOf (h : LHead) (d a : VCode) (ret sz : Bool) (sb : BitVec 4) (v : VCode) : Nat → Option Instr
  | 0x10 => some (.vamoor h d a ret sz sb v)
  | 0x11 => some (.vamoand h d a ret sz sb v)
  | 0x12 => some (.vamoxor h d a ret sz sb v)
  | 0x13 => some (.vamoadd h d a ret sz sb v)
  | 0x14 => some (.vamomin h d a ret sz sb v)
  | 0x15 => some (.vamomax h d a ret sz sb v)
  | 0x16 => some (.vamoxchg h d a ret sz sb v)
  | 0x17 => some (.vamocas h d a ret sz sb v)
  | _ => none

/-- The common fields of LD, ST and FB (R42). -/
def lheadOf (x : BitVec 48) : Option LHead :=
  (guardOf (bits 36 6 x)).bind fun g => (widthOf (bits 34 2 x)).bind fun w => some ⟨g, w, bits 30 4 x⟩

/-- An LD slot (R42, R61; 07_streams_registers.md R198, R205). -/
noncomputable def parseLd (x : BitVec 48) : Option (Instr × Bool) :=
  (lheadOf x).bind fun h =>
  let f (lo w : Nat) : BitVec w := bits lo w x
  let d : VCode := f 23 7
  let a : VCode := f 16 7
  match (bits 42 6 x).toNat with
  | 0x00 => if f 0 16 == 0 then some (.vld h d a, true) else none
  | 0x01 => (esizeOf (f 12 2)).bind fun sz =>
      if f 14 2 == 0 && f 0 8 == 0 then some (.vldx h d a sz (f 8 4), true) else none
  | 0x02 => if f 12 4 == 0 then some (.vldb h d a (f 0 12), true) else none
  | 0x03 => if f 0 16 == 0 then some (.pld h (f 23 4) a, pok d) else none
  | op => if f 14 1 == 0 && f 0 1 == 0 && (f 12 2 == 1 || f 12 2 == 2) then
      (vamoOf h d a (x.getLsbD 15) (x.getLsbD 13) (f 8 4) (f 1 7) op).map fun i => (i, true) else none

/-- An ST slot (R42, R61; 07_streams_registers.md R198). -/
noncomputable def parseSt (x : BitVec 48) : Option (Instr × Bool) :=
  (lheadOf x).bind fun h =>
  let f (lo w : Nat) : BitVec w := bits lo w x
  let d : VCode := f 23 7
  let a : VCode := f 16 7
  match (bits 42 6 x).toNat with
  | 0x00 => if f 0 16 == 0 then some (.vst h d a, true) else none
  | 0x01 => (esizeOf (f 12 2)).bind fun sz =>
      if f 14 2 == 0 && f 0 8 == 0 then some (.vstx h d a sz (f 8 4), true) else none
  | 0x02 => if f 0 16 == 0 then some (.pst h (f 23 4) a, pok d) else none
  | 0x03 => if f 25 5 == 0 && f 0 16 == 0 then some (.rqst h (f 23 2) a, true) else none
  | _ => none

/-- An FB slot (R42, R61; 10_fabric.md R295, 11_exact_reduction.md R311). -/
noncomputable def parseFb (x : BitVec 48) : Option (Instr × Bool) :=
  (lheadOf x).bind fun h =>
  let f (lo w : Nat) : BitVec w := bits lo w x
  let d : VCode := f 23 7
  if f 16 7 != 0 then none else
  match (bits 42 6 x).toNat with
  | 0x00 => if f 0 8 == 0 then some (.fsend h d (f 8 8), true) else none
  | 0x01 => if d == 0 && f 2 6 == 0 then some (.fsendq h (f 0 2) (f 8 8), true) else none
  | 0x02 => some (.fsends h d (f 8 8) (f 0 8), true)
  | 0x03 => if f 0 8 == 0 then some (.frecv h d (f 8 8), true) else none
  | 0x04 => if f 0 8 == 0 then some (.frecvt h d (f 8 8), true) else none
  | 0x10 => if f 0 10 == 0 then some (.collv h d (f 10 6), true) else none
  | 0x11 => if d == 0 && f 2 8 == 0 then some (.collq h (f 0 2) (f 10 6), true) else none
  | _ => none

/-- The checks of one slot in their order (R39): the instruction, then its operands. -/
def checkSlot (ci co : Byte) : Option (Instr × Bool) → Except Byte Instr
  | none => .error ci
  | some (i, reps) => if instrOk i then if reps && operandOk i then .ok i else .error co else .error ci

/-- A control slot whose fields always represent its operands. -/
def checkC (o : Option Instr) : Except Byte Instr := checkSlot 0x02 0x03 (o.map fun i => (i, true))

/-! ### Bundles -/

/-- The present slots of a bundle before any check of them: S0 S1 BR SM WN HY SY XT, or VA VB MX LD ST FB SY XL. -/
structure RawC where
  scope : Option (BitVec 16)
  s0 : Option (BitVec 32)
  s1 : Option (BitVec 32)
  br : Option (BitVec 32)
  sm : Option (BitVec 32)
  wn : Option (BitVec 96)
  hy : Option (BitVec 48)
  sy : Option (BitVec 32)
  xt : Option (BitVec 64)

/-- See `RawC`. -/
structure RawL where
  scope : Option (BitVec 16)
  va : Option (BitVec 64)
  vb : Option (BitVec 64)
  mx : Option (BitVec 32)
  ld : Option (BitVec 48)
  st : Option (BitVec 48)
  fb : Option (BitVec 48)
  sy : Option (BitVec 32)
  xl : Option (BitVec 64)

/-- One 16-bit field, when present (R30). -/
def take1 (present : Bool) : List (BitVec 16) → Option (Option (BitVec 16) × List (BitVec 16))
  | ps => if present then (match ps with
    | a :: r => some (some a, r)
    | _ => none) else some (none, ps)

/-- A 32-bit slot, its first parcel most significant (R30). -/
def take2 (present : Bool) : List (BitVec 16) → Option (Option (BitVec 32) × List (BitVec 16))
  | ps => if present then (match ps with
    | a :: b :: r => some (some (a ++ b), r)
    | _ => none) else some (none, ps)

/-- A 48-bit slot (R30). -/
def take3 (present : Bool) : List (BitVec 16) → Option (Option (BitVec 48) × List (BitVec 16))
  | ps => if present then (match ps with
    | a :: b :: c :: r => some (some (a ++ b ++ c), r)
    | _ => none) else some (none, ps)

/-- A 64-bit slot (R30). -/
def take4 (present : Bool) : List (BitVec 16) → Option (Option (BitVec 64) × List (BitVec 16))
  | ps => if present then (match ps with
    | a :: b :: c :: d :: r => some (some (a ++ b ++ c ++ d), r)
    | _ => none) else some (none, ps)

/-- A 96-bit slot (R30). -/
def take6 (present : Bool) : List (BitVec 16) → Option (Option (BitVec 96) × List (BitVec 16))
  | ps => if present then (match ps with
    | a :: b :: c :: d :: e :: f :: r => some (some (a ++ b ++ c ++ d ++ e ++ f), r)
    | _ => none) else some (none, ps)

/-- The slots of a control bundle from the parcels after its header (R26); `none` when the parcels run out. -/
def rawC (h : BitVec 16) (ps : List (BitVec 16)) : Option RawC :=
  (take1 (h.getLsbD 14) ps).bind fun (scope, ps) => (take2 (h.getLsbD 13) ps).bind fun (s0, ps) =>
  (take2 (h.getLsbD 12) ps).bind fun (s1, ps) => (take2 (h.getLsbD 11) ps).bind fun (br, ps) =>
  (take2 (h.getLsbD 10) ps).bind fun (sm, ps) => (take6 (h.getLsbD 9) ps).bind fun (wn, ps) =>
  (take3 (h.getLsbD 8) ps).bind fun (hy, ps) => (take2 (h.getLsbD 7) ps).bind fun (sy, ps) =>
  (take4 (h.getLsbD 6) ps).bind fun (xt, _) => some ⟨scope, s0, s1, br, sm, wn, hy, sy, xt⟩

/-- The slots of a lane bundle from the parcels after its header (R26). -/
def rawL (h : BitVec 16) (ps : List (BitVec 16)) : Option RawL :=
  (take1 (h.getLsbD 14) ps).bind fun (scope, ps) => (take4 (h.getLsbD 13) ps).bind fun (va, ps) =>
  (take4 (h.getLsbD 12) ps).bind fun (vb, ps) => (take2 (h.getLsbD 11) ps).bind fun (mx, ps) =>
  (take3 (h.getLsbD 10) ps).bind fun (ld, ps) => (take3 (h.getLsbD 9) ps).bind fun (st, ps) =>
  (take3 (h.getLsbD 8) ps).bind fun (fb, ps) => (take2 (h.getLsbD 7) ps).bind fun (sy, ps) =>
  (take4 (h.getLsbD 6) ps).bind fun (xl, _) => some ⟨scope, va, vb, mx, ld, st, fb, sy, xl⟩

/-- A bundle's length in bytes (R27). -/
def bundleLen (h : BitVec 16) : Nat :=
  let b (i n : Nat) : Nat := if h.getLsbD i then n else 0
  if h.getLsbD 15 then
    2 + b 14 2 + b 13 8 + b 12 8 + b 11 4 + b 10 6 + b 9 6 + b 8 6 + b 7 4 + b 6 8
  else
    2 + b 14 2 + b 13 4 + b 12 4 + b 11 4 + b 10 4 + b 9 12 + b 8 6 + b 7 4 + b 6 8

/-- Does an S slot consume the immediate (R52)? -/
def sConsumes (x : BitVec 32) : Bool := bits 24 8 x == 0x31#8 || bits 24 8 x == 0x32#8

/-- Is an S opcode assigned (R53)? -/
def sAssigned (x : BitVec 32) : Bool :=
  let o := (bits 24 8 x).toNat
  o ≤ 0x0D || (0x10 ≤ o && o ≤ 0x1E) || (0x20 ≤ o && o ≤ 0x25) || (0x28 ≤ o && o ≤ 0x2B) || (0x30 ≤ o && o ≤ 0x33) ||
  (0x38 ≤ o && o ≤ 0x3B) || o == 0x40

/-- The scalar destination an S slot names (R34): CSRW, CSRS and CSRC have none. -/
def sDest (x : BitVec 32) : List Nat :=
  let o := (bits 24 8 x).toNat
  if sAssigned x && !(0x39 ≤ o && o ≤ 0x3B) then [(bits 19 5 x).toNat] else []

/-- The scalar destination of a BR slot: LOOP's counter (13_control_slice.md R370). -/
def brDest (x : BitVec 32) : List Nat := if bits 26 6 x == 0x10#6 then [(bits 21 5 x).toNat] else []

/-- The scalar destination of an SM slot: loads, atomics, CHSTAT and RAMO. -/
def smDest (x : BitVec 32) : List Nat :=
  let o := (bits 26 6 x).toNat
  if o ≤ 6 || (0x10 ≤ o && o ≤ 0x19) || o == 0x23 || o == 0x24 then [(bits 21 5 x).toNat] else []

/-- The scalar destination of a WN slot: WSHRD and WSTAT (04_winch.md R102). -/
def wnDest (x : BitVec 96) : List Nat :=
  if bits 88 8 x == 0x01#8 then [(bits 46 5 x).toNat] else if bits 88 8 x == 0x0D#8 then [(bits 52 5 x).toNat] else []

/-- The scalar destination of an SY slot (15_sync_time_phases.md R421, 11_exact_reduction.md R311). -/
def syDest (x : BitVec 32) : List Nat :=
  match (bits 26 6 x).toNat with
  | 0x03 => [(bits 7 5 x).toNat]
  | 0x07 => [(bits 8 5 x).toNat]
  | 0x08 | 0x0A | 0x12 => [(bits 15 5 x).toNat]
  | 0x1B => [(bits 9 5 x).toNat]
  | _ => []

/-- Does the list of named destinations, x0 left out, name one twice (R34)? -/
def clash : List Nat → Bool
  | [] => false
  | a :: r => (a != 0 && r.contains a) || clash r

/-- The register destination of a VA or VB slot: 0-95 a vector register, 128 + p a predicate (R35). -/
def vDest (x : BitVec 64) : List Nat :=
  let o := (bits 56 8 x).toNat
  let d := (bits 37 7 x).toNat
  if (0x20 ≤ o && o ≤ 0x25) || (0x4A ≤ o && o ≤ 0x4E) || (0xD4 ≤ o && o ≤ 0xD8) then (if d < 16 then [128 + d] else [])
  else if o ≤ 0x0B || (0x10 ≤ o && o ≤ 0x1D) || (0x40 ≤ o && o ≤ 0x4F) || (0x80 ≤ o && o ≤ 0x85) || (0xA0 ≤ o && o ≤ 0xAB)
    || (0xB0 ≤ o && o ≤ 0xB2) || (0xC0 ≤ o && o ≤ 0xC6) || (0xD0 ≤ o && o ≤ 0xD9) then (if d < 96 then [d] else [])
  else []

/-- The register destination of an MX slot: MCHK (09_matrix.md R255). -/
def mxDest (x : BitVec 32) : List Nat :=
  let d := (bits 14 7 x).toNat
  if bits 27 5 x == 0x0A#5 && d < 96 then [d] else []

/-- The register destination of an LD slot. An atomic that returns nothing names none. -/
def ldDest (x : BitVec 48) : List Nat :=
  let o := (bits 42 6 x).toNat
  let d := (bits 23 7 x).toNat
  if o ≤ 2 then (if d < 96 then [d] else [])
  else if o == 3 then (if d < 16 then [128 + d] else [])
  else if 0x10 ≤ o && o ≤ 0x17 && x.getLsbD 15 then (if d < 96 then [d] else [])
  else []

/-- The register destination of an FB slot: FRECV and FRECVT. -/
def fbDest (x : BitVec 48) : List Nat :=
  let o := (bits 42 6 x).toNat
  let d := (bits 23 7 x).toNat
  if (o == 3 || o == 4) && d < 96 then [d] else []

/-- Do two slots name one destination (R35)? VA and VB may. -/
def laneClash (v m l f : List Nat) : Bool :=
  m.any v.contains || l.any v.contains || f.any v.contains || l.any m.contains || f.any m.contains || f.any l.contains

/-- The width a VA or VB slot counts in R38: a width code of 0b11 is left out. -/
def vWidth (x : BitVec 64) : Nat :=
  match (bits 48 2 x).toNat with
  | 0 => 256
  | 1 => 512
  | 2 => 1024
  | _ => 0

/-- A decoded bundle: its scope, whether it ends a block, its length, and each slot with the number TCAUSE.SLOT gives it,
either an instruction or the fault code its encoding raises. -/
structure Bundle where
  scope : BitVec 2
  last : Bool
  len : Nat
  slots : List (Nat × Except Byte Instr)

/-- A present slot with its number. -/
def slotAt {α : Type} (n : Nat) (f : α → Except Byte Instr) : Option α → List (Nat × Except Byte Instr)
  | none => []
  | some x => [(n, f x)]

/-- 1 when present and consuming. -/
def consN {α : Type} (f : α → Bool) : Option α → Nat
  | none => 0
  | some x => if f x then 1 else 0

/-- A named destination of an optional slot. -/
def destN {α : Type} (f : α → List Nat) : Option α → List Nat
  | none => []
  | some x => f x

/-- The scope of a bundle (R51). -/
def scopeOf : Option (BitVec 16) → BitVec 2
  | none => 0
  | some p => bits 14 2 p

/-- Decode a control bundle whose header is `h`, from the parcels that follow it in its bank (R25-R39). -/
def decodeC (h : BitVec 16) (ps : List (BitVec 16)) : Except Byte Bundle :=
  match rawC h ps with
  | none => .error 0x01
  | some r =>
    let users := consN sConsumes r.s0 + consN sConsumes r.s1 +
      consN (fun x => bits 42 6 x == 0x02#6 && x.getLsbD 41) r.hy
    let dests := destN sDest r.s0 ++ destN sDest r.s1 ++ destN brDest r.br ++ destN smDest r.sm ++ destN wnDest r.wn ++
      destN syDest r.sy
    let xt := r.xt.getD 0
    if h.getLsbD 15 || bits 0 5 h != 0#5 || h.getLsbD 5 || destN (fun p => [(bits 0 14 p).toNat]) r.scope != [] &&
        destN (fun p => [(bits 0 14 p).toNat]) r.scope != [0] || users != (if r.xt.isSome then 1 else 0) || clash dests then
      .error 0x01
    else
      .ok ⟨scopeOf r.scope, false, bundleLen h,
        slotAt 1 (fun x => checkC (parseS x xt)) r.s0 ++ slotAt 2 (fun x => checkC (parseS x xt)) r.s1 ++
        slotAt 3 (fun x => checkC (parseBr x)) r.br ++ slotAt 4 (fun x => checkC (parseSm x)) r.sm ++
        slotAt 5 (fun x => checkC (parseWn x)) r.wn ++ slotAt 6 (fun x => checkC (parseHy x xt)) r.hy ++
        slotAt 7 (fun x => checkC (parseSy false x)) r.sy⟩

/-- Decode a lane bundle (R25-R39). -/
noncomputable def decodeL (h : BitVec 16) (ps : List (BitVec 16)) : Except Byte Bundle :=
  match rawL h ps with
  | none => .error 0x20
  | some r =>
    let isMovx (x : BitVec 64) : Bool := bits 56 8 x == 0xD1#8
    let users := consN isMovx r.va + consN isMovx r.vb
    let width := (match r.va with
      | none => 0
      | some x => vWidth x) + (match r.vb with
      | none => 0
      | some x => vWidth x)
    let xl := r.xl.getD 0
    if !h.getLsbD 15 || bits 0 5 h != 0#5 || destN (fun p => [(bits 0 14 p).toNat]) r.scope != [] &&
        destN (fun p => [(bits 0 14 p).toNat]) r.scope != [0] || users != (if r.xl.isSome then 1 else 0) || width > 1024 ||
        laneClash (destN vDest r.va ++ destN vDest r.vb) (destN mxDest r.mx) (destN ldDest r.ld) (destN fbDest r.fb) then
      .error 0x20
    else
      let c := checkSlot 0x21 0x22
      let c' (o : Option Instr) := c (o.map fun i => (i, true))
      .ok ⟨scopeOf r.scope, h.getLsbD 5, bundleLen h,
        slotAt 1 (fun x => c (parseV x xl)) r.va ++ slotAt 2 (fun x => c (parseV x xl)) r.vb ++
        slotAt 3 (fun x => c' (parseMx x)) r.mx ++ slotAt 4 (fun x => c (parseLd x)) r.ld ++
        slotAt 5 (fun x => c (parseSt x)) r.st ++ slotAt 6 (fun x => c (parseFb x)) r.fb ++
        slotAt 7 (fun x => c' (parseSy true x)) r.sy⟩

/-- Decode the bundle at the head of the parcels that are left in its bank, for the sequencer that fetches it (R25). -/
noncomputable def decodeBundle (lane : Bool) : List (BitVec 16) → Except Byte Bundle
  | [] => .error (if lane then 0x20 else 0x01)
  | h :: ps => if lane then decodeL h ps else decodeC h ps

/-- The one instruction of a bundle that holds one, or NOP for the empty bundle (R28); its sequencer is the one its K bit
names. -/
noncomputable def decodeOne : List (BitVec 16) → Option Instr
  | [] => none
  | h :: ps =>
    match decodeBundle (h.getLsbD 15) (h :: ps) with
    | .error _ => none
    | .ok b =>
      match b.slots with
      | [] => some (.nop (h.getLsbD 15) b.last)
      | [(_, .ok i)] => some i
      | _ => none

/-- The parcels of an instruction whose bits are numbered as the opcode table numbers them: the first word lowest. -/
def tableParcels : Nat → Nat → List (BitVec 16)
  | 0, _ => []
  | n + 1, w => BitVec.ofNat 16 w :: tableParcels n (w / 65536)

/-- The instruction the decoder reads from an instruction of the opcode table; words above `nbits` are zero. -/
noncomputable def decodeTableWord (nbits w : Nat) : Option Instr := decodeOne (tableParcels 27 (w % 2 ^ nbits))

/-! ### The encoder -/

/-- A bundle header (R25). -/
def header (k : Bool) (pm : BitVec 9) (e : Bool) : BitVec 16 := BitVec.ofBool k ++ pm ++ BitVec.ofBool e ++ 0#5

/-- The parcels of a 32-bit slot (R30). -/
def parcels2 (x : BitVec 32) : List (BitVec 16) := [bits 16 16 x, bits 0 16 x]

/-- The parcels of a 48-bit slot. -/
def parcels3 (x : BitVec 48) : List (BitVec 16) := [bits 32 16 x, bits 16 16 x, bits 0 16 x]

/-- The parcels of a 64-bit slot. -/
def parcels4 (x : BitVec 64) : List (BitVec 16) := [bits 48 16 x, bits 32 16 x, bits 16 16 x, bits 0 16 x]

/-- The parcels of a 96-bit slot. -/
def parcels6 (x : BitVec 96) : List (BitVec 16) :=
  [bits 80 16 x, bits 64 16 x, bits 48 16 x, bits 32 16 x, bits 16 16 x, bits 0 16 x]

/-- A bundle of one 32-bit slot, with the presence mask given. -/
def enc32 (k : Bool) (pm : BitVec 9) (x : BitVec 32) : List (BitVec 16) := header k pm false :: parcels2 x

/-- A bundle of one 32-bit slot and its immediate. -/
def enc32x (k : Bool) (pm : BitVec 9) (x : BitVec 32) (imm : Word) : List (BitVec 16) :=
  header k pm false :: (parcels2 x ++ parcels4 imm)

/-- A bundle of one 48-bit slot. -/
def enc48 (k : Bool) (pm : BitVec 9) (x : BitVec 48) : List (BitVec 16) := header k pm false :: parcels3 x

/-- A bundle of one VA slot. -/
def enc64 (x : BitVec 64) : List (BitVec 16) := header true 0x080#9 false :: parcels4 x

/-- A bundle of one VA slot and its immediate. -/
def enc64x (x : BitVec 64) (imm : Word) : List (BitVec 16) := header true 0x081#9 false :: (parcels4 x ++ parcels4 imm)

/-- A bundle of one WN slot. -/
def enc96 (x : BitVec 96) : List (BitVec 16) := header false 0x008#9 false :: parcels6 x

/-- An R-form S slot (R40). -/
def slotR (op : BitVec 8) (xd xa xb : XReg) : BitVec 32 := op ++ xd ++ xa ++ xb ++ 0#9

/-- An I-form S slot (R40). -/
def slotI (op : BitVec 8) (xd xa : XReg) (imm : BitVec 14) : BitVec 32 := op ++ xd ++ xa ++ imm

/-- A BR slot (R40). -/
def slotBr (op : BitVec 6) (xa xb : XReg) (off : BitVec 16) : BitVec 32 := op ++ xa ++ xb ++ off

/-- An SM slot (R40). -/
def slotSm (op : BitVec 6) (xd xa : XReg) (cls : BitVec 4) (rest : BitVec 12) : BitVec 32 := op ++ xd ++ xa ++ cls ++ rest

/-- A load or store (R40). -/
def slotMem (op : BitVec 6) (m : SmAddr) (xd : XReg) : BitVec 32 :=
  slotSm op xd m.xa m.cls (BitVec.ofBool m.cbuf ++ m.off)

/-- A scalar atomic (R40). -/
def slotAtom (op : BitVec 6) (t : SmAtom) (xd xb : XReg) : BitVec 32 :=
  slotSm op xd t.xa t.cls (BitVec.ofBool t.cbuf ++ xb ++ 0#6)

/-- A channel instruction (10_fabric.md R298). -/
def slotCh (op : BitVec 6) (xd xa : XReg) (ch : Byte) : BitVec 32 := slotSm op xd xa 0 (ch ++ 0#4)

/-- The fixed fields of a WN command before its operands (R40). -/
def slotW (op : BitVec 8) (h : WHead) (rest : BitVec 57) : BitVec 96 :=
  op ++ h.wsem ++ h.wth ++ h.ssem ++ h.sinc ++ h.q ++ BitVec.ofBool h.ord ++ rest

/-- A WN instruction that takes effect at issue (04_winch.md R92). -/
def slotW0 (op : BitVec 8) (rest : BitVec 57) : BitVec 96 := op ++ 0#31 ++ rest

/-- CW, xW and xV. -/
def cwBits : Option (XReg × XReg) → BitVec 11
  | none => 0#11
  | some (xw, xv) => 1#1 ++ xw ++ xv

/-- CR and xR. -/
def crBits : Option XReg → BitVec 6
  | none => 0#6
  | some r => 1#1 ++ r

/-- BA and NB. -/
def baBits : WBar → BitVec 8
  | none => 0#8
  | some nb => 1#1 ++ nb

/-- An HY slot (R40). -/
def slotHy (op : BitVec 6) (x : Bool) (rest : BitVec 41) : BitVec 48 := op ++ BitVec.ofBool x ++ rest

/-- An SY slot (R40). -/
def slotSy (op : BitVec 6) (g : OptGuard) (rest : BitVec 20) : BitVec 32 := op ++ guardCode g ++ rest

/-- A VA or VB slot (R42). -/
def slotV (op : BitVec 8) (h : VHead) (rm : RMode) (sat : Bool) (d a b c : VCode) (ty : BitVec 4) (aux : BitVec 12) :
    BitVec 64 :=
  op ++ guardCode h.guard ++ widthCode h.w ++ rmCode rm ++ BitVec.ofBool sat ++ d ++ a ++ b ++ c ++ ty ++ aux

/-- An MX slot (R42). -/
def slotMx (op : BitVec 5) (g : OptGuard) (rest : BitVec 21) : BitVec 32 := op ++ guardCode g ++ rest

/-- An LD, ST or FB slot (R42). -/
def slotL (op : BitVec 6) (h : LHead) (d a : VCode) (aux : BitVec 16) : BitVec 48 :=
  op ++ guardCode h.guard ++ widthCode h.w ++ h.cls ++ d ++ a ++ aux

/-- AUX of a vector atomic (07_streams_registers.md R205). -/
def vamoAux (ret sz : Bool) (sb : BitVec 4) (v : VCode) : BitVec 16 :=
  BitVec.ofBool ret ++ 0#1 ++ (if sz then 2#2 else 1#2) ++ sb ++ v ++ 0#1

/-- A one-slot SY bundle of the sequencer its head names. -/
def encSy (op : BitVec 6) (h : SyHead) (rest : BitVec 20) : List (BitVec 16) := enc32 h.lane 0x002#9 (slotSy op h.guard rest)

/-- A one-slot SY control bundle. -/
def encSyC (op : BitVec 6) (rest : BitVec 20) : List (BitVec 16) := enc32 false 0x002#9 (slotSy op none rest)

/-- The parcels of the bundle that holds just this instruction; an event has none. -/
def encode : Instr → Option (List (BitVec 16))
  | .nop k e => some [header k 0 e]
  | .add xd xa xb => some (enc32 false 0x080#9 (slotR 0x00 xd xa xb))
  | .sub xd xa xb => some (enc32 false 0x080#9 (slotR 0x01 xd xa xb))
  | .mul xd xa xb => some (enc32 false 0x080#9 (slotR 0x03 xd xa xb))
  | .mulh xd xa xb => some (enc32 false 0x080#9 (slotR 0x04 xd xa xb))
  | .mulhu xd xa xb => some (enc32 false 0x080#9 (slotR 0x05 xd xa xb))
  | .div xd xa xb => some (enc32 false 0x080#9 (slotR 0x06 xd xa xb))
  | .divu xd xa xb => some (enc32 false 0x080#9 (slotR 0x07 xd xa xb))
  | .rem xd xa xb => some (enc32 false 0x080#9 (slotR 0x08 xd xa xb))
  | .remu xd xa xb => some (enc32 false 0x080#9 (slotR 0x09 xd xa xb))
  | .min xd xa xb => some (enc32 false 0x080#9 (slotR 0x0A xd xa xb))
  | .max xd xa xb => some (enc32 false 0x080#9 (slotR 0x0B xd xa xb))
  | .minu xd xa xb => some (enc32 false 0x080#9 (slotR 0x0C xd xa xb))
  | .maxu xd xa xb => some (enc32 false 0x080#9 (slotR 0x0D xd xa xb))
  | .and xd xa xb => some (enc32 false 0x080#9 (slotR 0x10 xd xa xb))
  | .or xd xa xb => some (enc32 false 0x080#9 (slotR 0x11 xd xa xb))
  | .xor xd xa xb => some (enc32 false 0x080#9 (slotR 0x12 xd xa xb))
  | .shl xd xa xb => some (enc32 false 0x080#9 (slotR 0x16 xd xa xb))
  | .shr xd xa xb => some (enc32 false 0x080#9 (slotR 0x17 xd xa xb))
  | .sra xd xa xb => some (enc32 false 0x080#9 (slotR 0x18 xd xa xb))
  | .seq xd xa xb => some (enc32 false 0x080#9 (slotR 0x20 xd xa xb))
  | .sne xd xa xb => some (enc32 false 0x080#9 (slotR 0x21 xd xa xb))
  | .slt xd xa xb => some (enc32 false 0x080#9 (slotR 0x22 xd xa xb))
  | .sltu xd xa xb => some (enc32 false 0x080#9 (slotR 0x23 xd xa xb))
  | .addsh xd xa xb => some (enc32 false 0x080#9 (slotR 0x33 xd xa xb))
  | .addi xd xa imm => some (enc32 false 0x080#9 (slotI 0x02 xd xa imm))
  | .andi xd xa imm => some (enc32 false 0x080#9 (slotI 0x13 xd xa imm))
  | .ori xd xa imm => some (enc32 false 0x080#9 (slotI 0x14 xd xa imm))
  | .xori xd xa imm => some (enc32 false 0x080#9 (slotI 0x15 xd xa imm))
  | .slti xd xa imm => some (enc32 false 0x080#9 (slotI 0x24 xd xa imm))
  | .sltiu xd xa imm => some (enc32 false 0x080#9 (slotI 0x25 xd xa imm))
  | .shli xd xa k => some (enc32 false 0x080#9 (slotI 0x19 xd xa (0#8 ++ k)))
  | .shri xd xa k => some (enc32 false 0x080#9 (slotI 0x1A xd xa (0#8 ++ k)))
  | .srai xd xa k => some (enc32 false 0x080#9 (slotI 0x1B xd xa (0#8 ++ k)))
  | .clz xd xa => some (enc32 false 0x080#9 (slotI 0x1C xd xa 0))
  | .ctz xd xa => some (enc32 false 0x080#9 (slotI 0x1D xd xa 0))
  | .popc xd xa => some (enc32 false 0x080#9 (slotI 0x1E xd xa 0))
  | .wfld xd xa n => some (enc32 false 0x080#9 (slotI 0x28 xd xa (0#11 ++ n)))
  | .bfx xd xa lsb len1 => some (enc32 false 0x080#9 (slotI 0x29 xd xa (0#2 ++ lsb ++ len1)))
  | .bfxu xd xa lsb len1 => some (enc32 false 0x080#9 (slotI 0x2A xd xa (0#2 ++ lsb ++ len1)))
  | .bfins xd xa lsb len1 => some (enc32 false 0x080#9 (slotI 0x2B xd xa (0#2 ++ lsb ++ len1)))
  | .li xd imm => some (enc32 false 0x080#9 (slotI 0x30 xd 0 imm))
  | .lix xd imm => some (enc32x false 0x081#9 (slotI 0x31 xd 0 0) imm)
  | .addx xd xa imm => some (enc32x false 0x081#9 (slotI 0x32 xd xa 0) imm)
  | .csrr xd csr => some (enc32 false 0x080#9 (slotI 0x38 xd 0 (0#2 ++ csr)))
  | .csrw csr xa => some (enc32 false 0x080#9 (slotI 0x39 0 xa (0#2 ++ csr)))
  | .csrs csr xa => some (enc32 false 0x080#9 (slotI 0x3A 0 xa (0#2 ++ csr)))
  | .csrc csr xa => some (enc32 false 0x080#9 (slotI 0x3B 0 xa (0#2 ++ csr)))
  | .accept xd => some (enc32 false 0x080#9 (slotI 0x40 xd 0 0))
  | .jmp off => some (enc32 false 0x020#9 (slotBr 0x00 0 0 off))
  | .jmpr xa => some (enc32 false 0x020#9 (slotBr 0x01 xa 0 0))
  | .call off => some (enc32 false 0x020#9 (slotBr 0x02 0 0 off))
  | .callr xa => some (enc32 false 0x020#9 (slotBr 0x03 xa 0 0))
  | .ret => some (enc32 false 0x020#9 (slotBr 0x04 0 0 0))
  | .beq xa xb off => some (enc32 false 0x020#9 (slotBr 0x08 xa xb off))
  | .bne xa xb off => some (enc32 false 0x020#9 (slotBr 0x09 xa xb off))
  | .blt xa xb off => some (enc32 false 0x020#9 (slotBr 0x0A xa xb off))
  | .bge xa xb off => some (enc32 false 0x020#9 (slotBr 0x0B xa xb off))
  | .bltu xa xb off => some (enc32 false 0x020#9 (slotBr 0x0C xa xb off))
  | .bgeu xa xb off => some (enc32 false 0x020#9 (slotBr 0x0D xa xb off))
  | .loop xa off => some (enc32 false 0x020#9 (slotBr 0x10 xa 0 off))
  | .bswap idx => some (enc32 false 0x020#9 (slotBr 0x11 0 0 (0#2 ++ idx)))
  | .trap n => some (enc32 false 0x020#9 (slotBr 0x18 0 0 (0#8 ++ n)))
  | .eret => some (enc32 false 0x020#9 (slotBr 0x19 0 0 0))
  | .endp => some (enc32 false 0x020#9 (slotBr 0x1A 0 0 0))
  | .ldb m xd => some (enc32 false 0x010#9 (slotMem 0x00 m xd))
  | .ldbu m xd => some (enc32 false 0x010#9 (slotMem 0x01 m xd))
  | .ldh m xd => some (enc32 false 0x010#9 (slotMem 0x02 m xd))
  | .ldhu m xd => some (enc32 false 0x010#9 (slotMem 0x03 m xd))
  | .ldw m xd => some (enc32 false 0x010#9 (slotMem 0x04 m xd))
  | .ldwu m xd => some (enc32 false 0x010#9 (slotMem 0x05 m xd))
  | .ldd m xd => some (enc32 false 0x010#9 (slotMem 0x06 m xd))
  | .stb m xd => some (enc32 false 0x010#9 (slotMem 0x08 m xd))
  | .sth m xd => some (enc32 false 0x010#9 (slotMem 0x09 m xd))
  | .stw m xd => some (enc32 false 0x010#9 (slotMem 0x0A m xd))
  | .std m xd => some (enc32 false 0x010#9 (slotMem 0x0B m xd))
  | .amoadd t xd xb => some (enc32 false 0x010#9 (slotAtom 0x10 t xd xb))
  | .amoand t xd xb => some (enc32 false 0x010#9 (slotAtom 0x11 t xd xb))
  | .amoor t xd xb => some (enc32 false 0x010#9 (slotAtom 0x12 t xd xb))
  | .amoxor t xd xb => some (enc32 false 0x010#9 (slotAtom 0x13 t xd xb))
  | .amomin t xd xb => some (enc32 false 0x010#9 (slotAtom 0x14 t xd xb))
  | .amomax t xd xb => some (enc32 false 0x010#9 (slotAtom 0x15 t xd xb))
  | .amominu t xd xb => some (enc32 false 0x010#9 (slotAtom 0x16 t xd xb))
  | .amomaxu t xd xb => some (enc32 false 0x010#9 (slotAtom 0x17 t xd xb))
  | .amoswap t xd xb => some (enc32 false 0x010#9 (slotAtom 0x18 t xd xb))
  | .amocas t xd xb => some (enc32 false 0x010#9 (slotAtom 0x19 t xd xb))
  | .chrsv ch xa => some (enc32 false 0x010#9 (slotCh 0x20 0 xa ch))
  | .chrel ch xa => some (enc32 false 0x010#9 (slotCh 0x21 0 xa ch))
  | .chwait ch xa => some (enc32 false 0x010#9 (slotCh 0x22 0 xa ch))
  | .chstat xd ch => some (enc32 false 0x010#9 (slotCh 0x23 xd 0 ch))
  | .ramo cls xd xa aop sz det xb =>
    some (enc32 false 0x010#9 (slotSm 0x24 xd xa cls (aopCode aop ++ BitVec.ofBool sz ++ BitVec.ofBool det ++ xb ++ 0#1)))
  | .wshp sh fld xa => some (enc96 (slotW0 0x00 (sh ++ fld ++ xa ++ 0#46)))
  | .wshrd xd sh fld => some (enc96 (slotW0 0x01 (sh ++ fld ++ xd ++ 0#46)))
  | .wcopy h ssh dsh o ba pc tag =>
    some (enc96 (slotW 0x02 h (ssh ++ dsh ++ cwBits o.cw ++ crBits o.cr ++ baBits ba ++ BitVec.ofBool pc ++ tag ++ 0#9)))
  | .whalo h sh dm fw hw o tag =>
    some (enc96 (slotW 0x03 h (sh ++ dm ++ BitVec.ofBool fw ++ hw ++ cwBits o.cw ++ crBits o.cr ++ tag ++ 0#13)))
  | .wamo h aop sz xa xb xc o tag =>
    some (enc96 (slotW 0x04 h (aopCode aop ++ BitVec.ofBool sz ++ xa ++ xb ++ xc ++ 0#5 ++ crBits o.cr ++ tag ++ 0#10)))
  | .wamor h aop sz xa xb xc xd o tag =>
    some (enc96 (slotW 0x05 h (aopCode aop ++ BitVec.ofBool sz ++ xa ++ xb ++ xc ++ xd ++ crBits o.cr ++ tag ++ 0#10)))
  | .wcrc h sh alg xw o tag =>
    some (enc96 (slotW 0x06 h (sh ++ BitVec.ofBool alg ++ xw ++ crBits o.cr ++ tag ++ 0#26)))
  | .wfillw h ssh dsh xg si o tag =>
    some (enc96 (slotW 0x07 h (ssh ++ dsh ++ xg ++ si ++ crBits o.cr ++ cwBits o.cw ++ tag ++ 0#7)))
  | .wsig h o ba tag => some (enc96 (slotW 0x08 h (cwBits o.cw ++ crBits o.cr ++ baBits ba ++ tag ++ 0#16)))
  | .wflush h fq => some (enc96 (slotW 0x09 h (fq ++ 0#55)))
  | .wtlbp h xa kind o tag => some (enc96 (slotW 0x0A h (xa ++ kind ++ crBits o.cr ++ tag ++ 0#28)))
  | .wrqcfgRq n xa xb => some (enc96 (slotW0 0x0B (0#1 ++ n ++ xa ++ xb ++ 0#44)))
  | .wrqcfgCr n xa xb => some (enc96 (slotW0 0x0B (1#1 ++ n ++ xa ++ xb ++ 0#44)))
  | .wscrubInterval h xa si o tag => some (enc96 (slotW 0x0C h (0#2 ++ xa ++ si ++ crBits o.cr ++ tag ++ 0#22)))
  | .wscrubNow h xa si o tag => some (enc96 (slotW 0x0C h (1#2 ++ xa ++ si ++ crBits o.cr ++ tag ++ 0#22)))
  | .wscrubDrop h xa si o tag => some (enc96 (slotW 0x0C h (2#2 ++ xa ++ si ++ crBits o.cr ++ tag ++ 0#22)))
  | .wstat xd => some (enc96 (slotW0 0x0D (xd ++ 0#52)))
  | .dispatch blk xn imt rot den se sem =>
    some (enc48 false 0x004#9 (slotHy 0x00 false
      (blk ++ xn ++ BitVec.ofBool imt ++ BitVec.ofBool rot ++ den ++ BitVec.ofBool se ++ sem ++ 0#4)))
  | .mask p xa xb => some (enc48 false 0x004#9 (slotHy 0x01 false (p ++ xa ++ xb ++ 0#27)))
  | .param q (.reg xa) => some (enc48 false 0x004#9 (slotHy 0x02 false (q ++ xa ++ 0#32)))
  | .param q (.imm v) =>
    some (header false 0x005#9 false :: (parcels3 (slotHy 0x02 true (q ++ 0#37)) ++ parcels4 v))
  | .scfg st fld xa => some (enc48 false 0x004#9 (slotHy 0x03 false (st ++ fld ++ xa ++ 0#29)))
  | .ldepth l => some (enc48 false 0x004#9 (slotHy 0x04 false (l ++ 0#34)))
  | .rbset b => some (enc48 false 0x004#9 (slotHy 0x05 false (b ++ 0#34)))
  | .rseed xa => some (enc48 false 0x004#9 (slotHy 0x06 false (xa ++ 0#36)))
  | .semsig h sem inc => some (encSy 0x00 h (sem ++ inc))
  | .semwait sem xa => some (encSyC 0x01 (sem ++ xa ++ 0#7))
  | .semset sem xa => some (encSyC 0x02 (sem ++ xa ++ 0#7))
  | .semrd xd sem => some (encSyC 0x03 (sem ++ xd ++ 0#7))
  | .arrive h nb => some (encSy 0x04 h (nb ++ 0#13))
  | .wait nb => some (encSyC 0x05 (nb ++ 0#13))
  | .arrwait nb => some (encSyC 0x06 (nb ++ 0#13))
  | .barset xd nb xa w => some (encSyC 0x07 (nb ++ xd ++ xa ++ BitVec.ofBool w ++ 0#2))
  | .waita xd xa xb ne sz tmo =>
    some (encSyC 0x08 (xd ++ xa ++ xb ++ BitVec.ofBool ne ++ BitVec.ofBool sz ++ BitVec.ofBool tmo ++ 0#2))
  | .waitt xa => some (encSyC 0x09 (xa ++ 0#15))
  | .rdtime xd => some (encSyC 0x0A (xd ++ 0#15))
  | .phbegin => some (encSyC 0x0C 0)
  | .phcommit => some (encSyC 0x0D 0)
  | .phcancel => some (encSyC 0x0E 0)
  | .fence h cm => some (encSy 0x10 h (cm ++ 0#4))
  | .ifence => some (encSyC 0x11 0)
  | .digrd xd sel => some (encSyC 0x12 (xd ++ BitVec.ofBool sel ++ 0#14))
  | .digset xa w => some (encSyC 0x13 (xa ++ BitVec.ofBool w ++ 0#14))
  | .collb id xa xb => some (encSyC 0x18 (id ++ xa ++ xb ++ 0#4))
  | .collopen id xa xb => some (encSyC 0x19 (id ++ xa ++ xb ++ 0#4))
  | .collabt id => some (encSyC 0x1A (id ++ 0#14))
  | .collst xd id => some (encSyC 0x1B (id ++ xd ++ 0#9))
  | .vadd h d a b ty u sat => some (enc64 (slotV 0x00 h .rne sat d a b 0 (fmtCode ty) (BitVec.ofBool u ++ 0#11)))
  | .vsub h d a b ty u sat => some (enc64 (slotV 0x01 h .rne sat d a b 0 (fmtCode ty) (BitVec.ofBool u ++ 0#11)))
  | .vmul h d a b ty u sat => some (enc64 (slotV 0x02 h .rne sat d a b 0 (fmtCode ty) (BitVec.ofBool u ++ 0#11)))
  | .vmulh h d a b ty u => some (enc64 (slotV 0x03 h .rne false d a b 0 (fmtCode ty) (BitVec.ofBool u ++ 0#11)))
  | .vmad h d a b c ty u sat => some (enc64 (slotV 0x04 h .rne sat d a b c (fmtCode ty) (BitVec.ofBool u ++ 0#11)))
  | .vneg h d a ty sat => some (enc64 (slotV 0x05 h .rne sat d a 0 0 (fmtCode ty) 0#12))
  | .vabs h d a ty sat => some (enc64 (slotV 0x06 h .rne sat d a 0 0 (fmtCode ty) 0#12))
  | .vdot4 h d a b c u sat => some (enc64 (slotV 0x07 h .rne sat d a b c (0x1#4) (BitVec.ofBool u ++ 0#11)))
  | .vmin h d a b ty => some (enc64 (slotV 0x08 h .rne false d a b 0 (fmtCode ty) 0#12))
  | .vmax h d a b ty => some (enc64 (slotV 0x09 h .rne false d a b 0 (fmtCode ty) 0#12))
  | .vminu h d a b ty => some (enc64 (slotV 0x0A h .rne false d a b 0 (fmtCode ty) 0#12))
  | .vmaxu h d a b ty => some (enc64 (slotV 0x0B h .rne false d a b 0 (fmtCode ty) 0#12))
  | .vand h d a b => some (enc64 (slotV 0x10 h .rne false d a b 0 (0x0#4) 0#12))
  | .vor h d a b => some (enc64 (slotV 0x11 h .rne false d a b 0 (0x0#4) 0#12))
  | .vxor h d a b => some (enc64 (slotV 0x12 h .rne false d a b 0 (0x0#4) 0#12))
  | .vandn h d a b => some (enc64 (slotV 0x13 h .rne false d a b 0 (0x0#4) 0#12))
  | .vnot h d a => some (enc64 (slotV 0x14 h .rne false d a 0 0 (0x0#4) 0#12))
  | .vbsel h d a b c => some (enc64 (slotV 0x15 h .rne false d a b c (0x0#4) 0#12))
  | .vpopc h d a ty => some (enc64 (slotV 0x16 h .rne false d a 0 0 (fmtCode ty) 0#12))
  | .vclz h d a ty => some (enc64 (slotV 0x17 h .rne false d a 0 0 (fmtCode ty) 0#12))
  | .vshl h d a b ty => some (enc64 (slotV 0x18 h .rne false d a b 0 (fmtCode ty) 0#12))
  | .vshr h d a b ty => some (enc64 (slotV 0x19 h .rne false d a b 0 (fmtCode ty) 0#12))
  | .vsra h d a b ty => some (enc64 (slotV 0x1A h .rne false d a b 0 (fmtCode ty) 0#12))
  | .vshli h d a ty k => some (enc64 (slotV 0x1B h .rne false d a 0 0 (fmtCode ty) (0#6 ++ k)))
  | .vshri h d a ty k => some (enc64 (slotV 0x1C h .rne false d a 0 0 (fmtCode ty) (0#6 ++ k)))
  | .vsrai h d a ty k => some (enc64 (slotV 0x1D h .rne false d a 0 0 (fmtCode ty) (0#6 ++ k)))
  | .vcmpeq h p a b ty => some (enc64 (slotV 0x20 h .rne false (0#3 ++ p) a b 0 (fmtCode ty) 0#12))
  | .vcmpne h p a b ty => some (enc64 (slotV 0x21 h .rne false (0#3 ++ p) a b 0 (fmtCode ty) 0#12))
  | .vcmplt h p a b ty => some (enc64 (slotV 0x22 h .rne false (0#3 ++ p) a b 0 (fmtCode ty) 0#12))
  | .vcmple h p a b ty => some (enc64 (slotV 0x23 h .rne false (0#3 ++ p) a b 0 (fmtCode ty) 0#12))
  | .vcmpltu h p a b ty => some (enc64 (slotV 0x24 h .rne false (0#3 ++ p) a b 0 (fmtCode ty) 0#12))
  | .vcmpleu h p a b ty => some (enc64 (slotV 0x25 h .rne false (0#3 ++ p) a b 0 (fmtCode ty) 0#12))
  | .vfadd h d a b ty rm sat => some (enc64 (slotV 0x40 h rm sat d a b 0 (fmtCode ty) 0#12))
  | .vfmul h d a b ty rm sat => some (enc64 (slotV 0x41 h rm sat d a b 0 (fmtCode ty) 0#12))
  | .vfsub h d a b ty rm sat => some (enc64 (slotV 0x42 h rm sat d a b 0 (fmtCode ty) 0#12))
  | .vfma h d a b c ty rm sat => some (enc64 (slotV 0x43 h rm sat d a b c (fmtCode ty) 0#12))
  | .vfms h d a b c ty rm sat => some (enc64 (slotV 0x44 h rm sat d a b c (fmtCode ty) 0#12))
  | .vfnma h d a b c ty rm sat => some (enc64 (slotV 0x45 h rm sat d a b c (fmtCode ty) 0#12))
  | .vfmin h d a b ty => some (enc64 (slotV 0x46 h .rne false d a b 0 (fmtCode ty) 0#12))
  | .vfmax h d a b ty => some (enc64 (slotV 0x47 h .rne false d a b 0 (fmtCode ty) 0#12))
  | .vfabs h d a ty => some (enc64 (slotV 0x48 h .rne false d a 0 0 (fmtCode ty) 0#12))
  | .vfneg h d a ty => some (enc64 (slotV 0x49 h .rne false d a 0 0 (fmtCode ty) 0#12))
  | .vfcmpeq h p a b ty => some (enc64 (slotV 0x4A h .rne false (0#3 ++ p) a b 0 (fmtCode ty) 0#12))
  | .vfcmplt h p a b ty => some (enc64 (slotV 0x4B h .rne false (0#3 ++ p) a b 0 (fmtCode ty) 0#12))
  | .vfcmple h p a b ty => some (enc64 (slotV 0x4C h .rne false (0#3 ++ p) a b 0 (fmtCode ty) 0#12))
  | .vfcmpun h p a b ty => some (enc64 (slotV 0x4D h .rne false (0#3 ++ p) a b 0 (fmtCode ty) 0#12))
  | .vfclass h p a ty cm => some (enc64 (slotV 0x4E h .rne false (0#3 ++ p) a 0 0 (fmtCode ty) (0#3 ++ cm)))
  | .vfscale h d a b ty rm sat => some (enc64 (slotV 0x4F h rm sat d a b 0 (fmtCode ty) 0#12))
  | .vcvt h d a ty df u rm sat => some (enc64 (slotV 0x80 h rm sat d a 0 0 (fmtCode ty) (fmtCode df ++ BitVec.ofBool u ++ 0#7)))
  | .vcvthb h d a df rm sat => some (enc64 (slotV 0x81 h rm sat d a 0 0 (0xA#4) (fmtCode df ++ 0#8)))
  | .vcvtfhb h d a ty t rm => some (enc64 (slotV 0x82 h rm false d a 0 0 (fmtCode ty) (0#2 ++ t ++ 0#8)))
  | .vcvtmx h d a rm => some (enc64 (slotV 0x83 h rm false d a 0 0 (0xA#4) 0#12))
  | .vcvtxm h d a rm => some (enc64 (slotV 0x84 h rm false d a 0 0 (0xA#4) 0#12))
  | .vcvtscl h d a ty dir rm sat => some (enc64 (slotV 0x85 h rm sat d a 0 0 (fmtCode ty) (BitVec.ofBool dir ++ 0#11)))
  | .vperm h d a b c ty => some (enc64 (slotV 0xA0 h .rne false d a b c (fmtCode ty) 0#12))
  | .vshuf h d a sel => some (enc64 (slotV 0xA1 h .rne false d a 0 0 (0x0#4) (0#4 ++ sel)))
  | .vrot h d a ty k => some (enc64 (slotV 0xA2 h .rne false d a 0 0 (fmtCode ty) (0#5 ++ k)))
  | .vslide h d a b ty k => some (enc64 (slotV 0xA3 h .rne false d a b 0 (fmtCode ty) (0#4 ++ k)))
  | .vzipl h d a b ty => some (enc64 (slotV 0xA4 h .rne false d a b 0 (fmtCode ty) 0#12))
  | .vziph h d a b ty => some (enc64 (slotV 0xA5 h .rne false d a b 0 (fmtCode ty) 0#12))
  | .vuzpe h d a b ty => some (enc64 (slotV 0xA6 h .rne false d a b 0 (fmtCode ty) 0#12))
  | .vuzpo h d a b ty => some (enc64 (slotV 0xA7 h .rne false d a b 0 (fmtCode ty) 0#12))
  | .vbcst h d a ty k => some (enc64 (slotV 0xA8 h .rne false d a 0 0 (fmtCode ty) (0#5 ++ k)))
  | .vcmpr h d a p ty => some (enc64 (slotV 0xA9 h .rne false d a (0#3 ++ p) 0 (fmtCode ty) 0#12))
  | .vexpd h d a p ty => some (enc64 (slotV 0xAA h .rne false d a (0#3 ++ p) 0 (fmtCode ty) 0#12))
  | .vtrn h d a b ty hi => some (enc64 (slotV 0xAB h .rne false d a b 0 (fmtCode ty) (0#11 ++ BitVec.ofBool hi)))
  | .vred h d a ty opr u rm sat => some (enc64 (slotV 0xB0 h rm sat d a 0 0 (fmtCode ty) (BitVec.ofBool u ++ 0#9 ++ redCode opr)))
  | .vredx h d a c acc rm sat => some (enc64 (slotV 0xB1 h rm sat d a 0 c (0x5#4) (BitVec.ofBool acc ++ 0#11)))
  | .vscan h d a ty opr u rm sat => some (enc64 (slotV 0xB2 h rm sat d a 0 0 (fmtCode ty) (BitVec.ofBool u ++ 0#9 ++ redCode opr)))
  | .vrcp h d a ty rm sat => some (enc64 (slotV 0xC0 h rm sat d a 0 0 (fmtCode ty) 0#12))
  | .vrsq h d a ty rm sat => some (enc64 (slotV 0xC1 h rm sat d a 0 0 (fmtCode ty) 0#12))
  | .vsqrt h d a ty rm sat => some (enc64 (slotV 0xC2 h rm sat d a 0 0 (fmtCode ty) 0#12))
  | .vexp2 h d a ty rm sat => some (enc64 (slotV 0xC3 h rm sat d a 0 0 (fmtCode ty) 0#12))
  | .vlog2 h d a ty rm sat => some (enc64 (slotV 0xC4 h rm sat d a 0 0 (fmtCode ty) 0#12))
  | .vtanh h d a ty rm sat => some (enc64 (slotV 0xC5 h rm sat d a 0 0 (fmtCode ty) 0#12))
  | .vsigm h d a ty rm sat => some (enc64 (slotV 0xC6 h rm sat d a 0 0 (fmtCode ty) 0#12))
  | .vmov h d a => some (enc64 (slotV 0xD0 h .rne false d a 0 0 (0x0#4) 0#12))
  | .vmovx h d imm => some (enc64x (slotV 0xD1 h .rne false d 0 0 0 (0x0#4) 0#12) imm)
  | .vpoprq h d q => some (enc64 (slotV 0xD2 h .rne false d 0 0 0 (0x0#4) (0#10 ++ q)))
  | .vrnd h d => some (enc64 (slotV 0xD3 h .rne false d 0 0 0 (0x0#4) 0#12))
  | .pand h d a b => some (enc64 (slotV 0xD4 h .rne false (0#3 ++ d) (0#3 ++ a) (0#3 ++ b) 0 (0x0#4) 0#12))
  | .por h d a b => some (enc64 (slotV 0xD5 h .rne false (0#3 ++ d) (0#3 ++ a) (0#3 ++ b) 0 (0x0#4) 0#12))
  | .pxor h d a b => some (enc64 (slotV 0xD6 h .rne false (0#3 ++ d) (0#3 ++ a) (0#3 ++ b) 0 (0x0#4) 0#12))
  | .pandn h d a b => some (enc64 (slotV 0xD7 h .rne false (0#3 ++ d) (0#3 ++ a) (0#3 ++ b) 0 (0x0#4) 0#12))
  | .vtop h d a ty => some (enc64 (slotV 0xD8 h .rne false (0#3 ++ d) a 0 0 (fmtCode ty) 0#12))
  | .ptov h d a ty => some (enc64 (slotV 0xD9 h .rne false d (0#3 ++ a) 0 0 (fmtCode ty) 0#12))
  | .mpushb g st au row => some (enc32 true 0x020#9 (slotMx 0x00 g (st ++ BitVec.ofBool au ++ row ++ 0#6)))
  | .mpushbz g au row => some (enc32 true 0x020#9 (slotMx 0x01 g (0#7 ++ BitVec.ofBool au ++ row ++ 0#6)))
  | .mflip g => some (enc32 true 0x020#9 (slotMx 0x02 g 0))
  | .mpusha g a fr row nw => some (enc32 true 0x020#9 (slotMx 0x03 g (a ++ fr ++ row ++ BitVec.ofBool nw ++ 0#5)))
  | .mpushas g a fr row ix => some (enc32 true 0x020#9 (slotMx 0x04 g (a ++ fr ++ row ++ ix)))
  | .mpushan g a fr nw sp ix =>
    some (enc32 true 0x020#9 (slotMx 0x05 g (a ++ fr ++ BitVec.ofBool nw ++ BitVec.ofBool sp ++ ix ++ 0#4)))
  | .mshift g => some (enc32 true 0x020#9 (slotMx 0x06 g 0))
  | .mdrain g q fr au row => some (enc32 true 0x020#9 (slotMx 0x07 g (q ++ fr ++ BitVec.ofBool au ++ row ++ 0#10)))
  | .mdrainz g q fr au row => some (enc32 true 0x020#9 (slotMx 0x08 g (q ++ fr ++ BitVec.ofBool au ++ row ++ 0#10)))
  | .mzero g fr al row => some (enc32 true 0x020#9 (slotMx 0x09 g (fr ++ BitVec.ofBool al ++ row ++ 0#12)))
  | .mchk g d clr => some (enc32 true 0x020#9 (slotMx 0x0A g (d ++ BitVec.ofBool clr ++ 0#13)))
  | .mcfg g af bf spm sat rst =>
    some (enc32 true 0x020#9 (slotMx 0x0B g
      (fmtCode af ++ fmtCode bf ++ spm ++ BitVec.ofBool sat ++ BitVec.ofBool rst ++ 0#9)))
  | .vld h d a => some (enc48 true 0x010#9 (slotL 0x00 h d a 0))
  | .vldx h d a sz sb => some (enc48 true 0x010#9 (slotL 0x01 h d a (0#2 ++ esizeCode sz ++ sb ++ 0#8)))
  | .vldb h d a off => some (enc48 true 0x010#9 (slotL 0x02 h d a (0#4 ++ off)))
  | .pld h d a => some (enc48 true 0x010#9 (slotL 0x03 h (0#3 ++ d) a 0))
  | .vamoor h d a ret sz sb v => some (enc48 true 0x010#9 (slotL 0x10 h d a (vamoAux ret sz sb v)))
  | .vamoand h d a ret sz sb v => some (enc48 true 0x010#9 (slotL 0x11 h d a (vamoAux ret sz sb v)))
  | .vamoxor h d a ret sz sb v => some (enc48 true 0x010#9 (slotL 0x12 h d a (vamoAux ret sz sb v)))
  | .vamoadd h d a ret sz sb v => some (enc48 true 0x010#9 (slotL 0x13 h d a (vamoAux ret sz sb v)))
  | .vamomin h d a ret sz sb v => some (enc48 true 0x010#9 (slotL 0x14 h d a (vamoAux ret sz sb v)))
  | .vamomax h d a ret sz sb v => some (enc48 true 0x010#9 (slotL 0x15 h d a (vamoAux ret sz sb v)))
  | .vamoxchg h d a ret sz sb v => some (enc48 true 0x010#9 (slotL 0x16 h d a (vamoAux ret sz sb v)))
  | .vamocas h d a ret sz sb v => some (enc48 true 0x010#9 (slotL 0x17 h d a (vamoAux ret sz sb v)))
  | .vst h d a => some (enc48 true 0x008#9 (slotL 0x00 h d a 0))
  | .vstx h d a sz sb => some (enc48 true 0x008#9 (slotL 0x01 h d a (0#2 ++ esizeCode sz ++ sb ++ 0#8)))
  | .pst h d a => some (enc48 true 0x008#9 (slotL 0x02 h (0#3 ++ d) a 0))
  | .rqst h q a => some (enc48 true 0x008#9 (slotL 0x03 h (0#5 ++ q) a 0))
  | .fsend h d ch => some (enc48 true 0x004#9 (slotL 0x00 h d 0 (ch ++ 0#8)))
  | .fsendq h q ch => some (enc48 true 0x004#9 (slotL 0x01 h 0 0 (ch ++ 0#6 ++ q)))
  | .fsends h d ch sem => some (enc48 true 0x004#9 (slotL 0x02 h d 0 (ch ++ sem)))
  | .frecv h d ch => some (enc48 true 0x004#9 (slotL 0x03 h d 0 (ch ++ 0#8)))
  | .frecvt h d ch => some (enc48 true 0x004#9 (slotL 0x04 h d 0 (ch ++ 0#8)))
  | .collv h d id => some (enc48 true 0x004#9 (slotL 0x10 h d 0 (id ++ 0#10)))
  | .collq h q id => some (enc48 true 0x004#9 (slotL 0x11 h 0 0 (id ++ 0#8 ++ q)))
  | _ => none

end Sys2Proof
end

