-- ==== Sys2Proof/Config.lean ====
section
/-!
DEFINITION. What the spec leaves open: free values, with no body, so that a statement holds for every choice of them.
-/

namespace Sys2Proof.Config

/-- The data a host read of poisoned bytes carries (17_faults_repair.md R476 calls it unspecified): free, applied to the counter `State.free`. -/
opaque hostPoisonData : Nat → BitVec 8

/-- Whether a dropped atomic at a peer was performed (12_leaving_module.md R343: both outcomes are possible), and every
other two-way choice the hardware makes out of sight of the agenda. -/
opaque coin : Nat → Bool

/-- The private-key signature of an attestation report (17_faults_repair.md R492): the key never leaves the flash, so its bytes are free. -/
opaque identitySign : List (BitVec 8) → List (BitVec 8)

/-- The modulus of the Usaris signing key that the boot ROM's digest names (17_faults_repair.md R487, R488): not in the spec. -/
opaque romKey : Nat

/-- Whether the firmware in flash has the digest the configuration block names (17_faults_repair.md R488 step 1): the
firmware is not in the spec. -/
opaque firmwareDigest : BitVec 256

/-- The sideband and payload of an optical record that carries a packet of a class whose layout the spec leaves to its owner
(10_fabric.md R279, 12_leaving_module.md R339): the sending tile, the class, and the packet. -/
opaque encodeRecord : Nat → Nat → Sys2Proof.Body → BitVec 64 × BitVec 1024

/-- The tile and the packet of such a record at its receiver. -/
opaque decodeRecord : BitVec 64 → BitVec 1024 → Option (Nat × Sys2Proof.Body)

/-- The set of a last-level slice that holds a page, of an ASID, a page number and a page size (03_far_memory.md R79 names 64 sets and no
function). -/
opaque sliceSet : BitVec 16 → Nat → Nat → Nat

/-- A value the spec does not state, one for each use (see the assumption log). -/
opaque freeWord : Nat → BitVec 64

end Sys2Proof.Config
end

