-- ==== Sys2Proof/Machine/SMap.lean ====
section
/-!
DEFINITION. Sparse maps from Nat keys, held as lists of pairs in one canonical form: keys strictly rising, and in a map
with a default no entry equal to it. Registers, tables and memory are held in them.
-/

namespace Sys2Proof.Machine

/-- A sparse map: (key, value) pairs, keys strictly rising. -/
abbrev SMap (α : Type) := List (Nat × α)

/-- The value at a key, or the default where nothing is listed. -/
def SMap.get {α : Type} (d : α) : List (Nat × α) → Nat → α
  | [], _ => d
  | (j, v) :: rest, k => if j = k then v else SMap.get d rest k

/-- The value at a key, when one is listed. -/
def SMap.find? {α : Type} : List (Nat × α) → Nat → Option α
  | [], _ => none
  | (j, v) :: rest, k => if j = k then some v else SMap.find? rest k

/-- The map without the key. -/
def SMap.erase {α : Type} : List (Nat × α) → Nat → List (Nat × α)
  | [], _ => []
  | (j, v) :: rest, k => if j = k then SMap.erase rest k else (j, v) :: SMap.erase rest k

/-- Insert before the first larger key. -/
def SMap.insert {α : Type} (k : Nat) (v : α) : List (Nat × α) → List (Nat × α)
  | [] => [(k, v)]
  | (j, w) :: rest => if k < j then (k, v) :: (j, w) :: rest else (j, w) :: SMap.insert k v rest

/-- Replace the value at a key, whatever it is. -/
def SMap.put {α : Type} (m : List (Nat × α)) (k : Nat) (v : α) : List (Nat × α) :=
  SMap.insert k v (SMap.erase m k)

/-- Replace the value at a key, listing nothing for the default. -/
def SMap.set {α : Type} [DecidableEq α] (d : α) (m : List (Nat × α)) (k : Nat) (v : α) : List (Nat × α) :=
  if v = d then SMap.erase m k else SMap.put m k v

/-- Every key is above the bound and keys rise strictly. -/
def SMap.rising {α : Type} : Nat → List (Nat × α) → Bool
  | _, [] => true
  | lo, (j, _) :: rest => decide (lo ≤ j) && SMap.rising (j + 1) rest

/-- The canonical form of a map with a default: keys strictly rising, and no entry equal to the default. -/
def SMap.wf {α : Type} [DecidableEq α] (d : α) (m : List (Nat × α)) : Bool :=
  SMap.rising 0 m && m.all fun e => decide (e.2 ≠ d)

end Sys2Proof.Machine
end

