-- ==== Sys2Proof/Machine/State.lean ====
section
/-!
DEFINITION. The state of one Gnoden module as plain data: everything INVENTORY.md lists, held once. Per-tile state is
grouped by the unit that owns it; the module-wide state follows.
-/

namespace Sys2Proof.Machine

open Sys2Proof

/-! ### Control slice and lane sequencer (13_control_slice.md R356) -/

/-- Whether a tile's control slice fetches (R377, 16_launch.md R455). -/
inductive Fetch where
  | notStarted | running | ended
deriving DecidableEq, Repr

/-- A Halyard token: the HY instruction and the values it captured at issue, and the cycle it was enqueued (R382, R388).
`bad` is an uncorrectable entry (17_faults_repair.md R485). -/
structure Token where
  instr : Instr
  vals : List Word
  enq : Nat
  bad : Bool
deriving DecidableEq, Repr

/-- The running lane block (R387). `off` marks an LPC that ran past the end of its bank (R357); `since` is the cycle its first
bundle issued. -/
structure Block where
  blk : BitVec 15
  rot : Bool
  se : Bool
  sem : Byte
  lpc : BitVec 16
  off : Bool
  trip : Nat
  since : Nat
deriving DecidableEq, Repr

/-- A pending WSHP write: `left` counts the bundles still to execute before it shows (04_winch.md R101). -/
structure ShapeWrite where
  sh : BitVec 3
  fld : BitVec 3
  val : Word
  left : Nat
deriving DecidableEq, Repr

/-- What the stalled control bundle waits for, one name for each waiting instruction or unit (02_bundles.md R31). `arrived` and `sm`
name what a bundle has already done once while it waits: its barrier arrival, and its SM access (14_memory_model.md R409, R412). -/
inductive Wait where
  | reg | accept | chrsv | chwait | ramo | winch | wflush | halyard | ramp | semwait | barrier | waita | waitt
  | arrived | phbegin | phcommit | phround | phclose | phcancel | fence | ifence | collopen | collb | sm
deriving DecidableEq, Repr

/-- The ramp limiter (R390-R392). -/
structure Ramp where
  en : Bool
  up : Nat
  dn : Nat
  lvl : Nat
  beats : Nat
  mlast : Nat
  floor : Nat
  whw : Nat
  wstart : Nat
  held : Bool
deriving DecidableEq, Repr

/-- The trap CSRs (17_faults_repair.md R468) and HND. `epcOff` remembers that the interrupted CPC had run past its bank, `granted` what
the interrupted bundle keeps for its reissue (13_control_slice.md R369). -/
structure Trap where
  tvec : BitVec 16
  re : Byte
  cause : Word
  epc : BitVec 16
  epcOff : Bool
  lv : Bool
  ltrip : BitVec 24
  llpc : BitVec 16
  val : Word
  scr : Word
  hnd : Bool
  hstart : Nat
  pend : List Cause
  granted : List (Wait × Instr × Word)
deriving DecidableEq, Repr

/-- The control slice and the lane sequencer. `lpc` is LPC while no block runs (R387). -/
structure Ctl where
  x : List (Nat × Word)
  xbad : BitVec 32
  xpois : BitVec 32
  cpc : BitVec 16
  off : Bool
  ret : List (BitVec 16)
  fv0 : Bool
  fv1 : Bool
  fetch : Fetch
  frozen : Bool
  hq : List Token
  blk : Option Block
  lpc : BitVec 16
  laneFree : Nat
  rb : Nat
  depth : Nat
  ramp : Ramp
  trap : Trap
  tileid : Word
  widw : BitVec 42
  wshp : List ShapeWrite
  waits : List (Wait × Instr)
  granted : List (Wait × Instr × Word)
  waitFrom : Nat
  waitAt : Nat
  after : Option Instr
  softStop : Bool
deriving DecidableEq, Repr

/-! ### Lanes (06_number_formats.md, 07_streams_registers.md, 08_vector.md) -/

/-- What a lane write in flight will write when it lands (08_vector.md R211-R213). -/
inductive LaneTarget where
  /-- A physical vector register: a bit mask, the data, the lane groups it marks poisoned, and those whose marks it clears. -/
  | vec (phys : Nat) (mask data : BitVec 1024) (marks clr : BitVec 4)
  /-- A physical predicate register. -/
  | prd (phys : Nat) (mask data : BitVec 128) (mark : Bool)
  /-- Sticky flags of LFPSR. -/
  | flags (f : BitVec 20)
  /-- Bytes of a buffer: physical address, byte, poisoned; `dig` marks a store the digest counts (15 R441). -/
  | mem (cells : List (Nat × Byte × Bool)) (dig : Bool)
  /-- A vector atomic that waits for older stores (07_streams_registers.md R205, 14_memory_model.md R401): operation, element bytes,
  elements with their addresses, operands and compare values, the poisoned groups of either and of the offsets, and the physical
  register that takes the old values. -/
  | amo (op : AOp) (size : Nat) (els : List (Nat × Nat)) (b cmp : BitVec 1024) (bad off : BitVec 4) (ret : Option Nat)
  /-- A lane SEMSIG (14_memory_model.md R409). -/
  | sem (n : Byte) (inc : Nat)
  /-- A lane ARRIVE (14_memory_model.md R409). -/
  | arrive (nb : BitVec 7)
deriving DecidableEq, Repr

/-- A lane write in flight: the cycle it lands, the cycle it issued, and what it writes. -/
structure LaneWrite where
  due : Nat
  issued : Nat
  target : LaneTarget
deriving DecidableEq, Repr

/-- A block-end signal not yet applied (08_vector.md R215): the semaphore, and the cycle it is due. -/
structure EndSig where
  sem : Byte
  due : Nat
deriving DecidableEq, Repr

/-- The lane registers and what is in flight to them. `replay` holds the lanes until every write in flight has landed (R214); `fresh`
are the flags that landed in cycle `freshAt` (06_number_formats.md R176). -/
structure Lane where
  v : List (Nat × BitVec 1024)
  vmark : List (Nat × BitVec 4)
  vbad : List (Nat × BitVec 4)
  p : List (Nat × BitVec 128)
  pmark : List (Nat × Bool)
  q : List (Nat × Word)
  st : List (Nat × BitVec 32)
  seed : Word
  rn : Word
  drm : BitVec 3
  flags : BitVec 20
  pending : List LaneWrite
  sigs : List EndSig
  held : List (Nat × Nat)
  stop : Bool
  replay : Bool
  fresh : BitVec 20
  freshAt : Nat
deriving DecidableEq, Repr

/-! ### Matrix array (09_matrix.md) -/

/-- A row in flight (R243): advancing beats since its push, the target, the column totals that will be accumulated,
and the flags its arithmetic raised. -/
structure MxRow where
  age : Nat
  frame : BitVec 2
  row : BitVec 6
  fresh : Bool
  poison : Bool
  sinceFlip : Bool
  totals : BitVec 2048
  flags : BitVec 5
deriving DecidableEq, Repr

/-- A row of a result queue (R266). -/
structure RqRow where
  data : BitVec 2048
  marks : Byte
deriving DecidableEq, Repr

/-- MXSR (R269). -/
structure Mxsr where
  mis : BitVec 16
  fk : BitVec 6
  fn : BitVec 6
  fv : Bool
  ck : BitVec 6
  nv : Bool
  ovf : Bool
  unf : Bool
  nx : Bool
deriving DecidableEq, Repr

/-- The matrix array. `smarks` marks the scale groups that were read poisoned (R164), `done` the rows whose accumulation stands at the end
of the cycle (05_tile_buffers.md R134), `spare` the cell words of the logical rows that cell row 64 mirrors (R270). -/
structure Mx where
  cells : List (Nat × BitVec 16)
  scales : List (Nat × Byte)
  pmarks : List (Nat × Bool)
  smarks : List (Nat × Bool)
  desc : List (Nat × Word)
  active : Bool
  rows : List MxRow
  done : List MxRow
  spare : List (Nat × BitVec 16)
  latched : Option (List (Nat × Bool))
  srow : BitVec 7
  drow : BitVec 6
  mrow : BitVec 6
  af : Fmt
  bf : Fmt
  spm : BitVec 2
  sat : Bool
  sr : Mxsr
  rq : List (Nat × List RqRow)
  half : List (Nat × Bool)
  broken : List (Nat × Nat)
  beatNow : Bool
deriving DecidableEq, Repr

/-! ### Tile buffers (05_tile_buffers.md) -/

/-- The ECC condition of a stored word (R138): nothing wrong, one bit, or uncorrectable. -/
inductive Ecc where
  | clean | single | bad
deriving DecidableEq, Repr

/-- The check of one frame row (R141): XOR of its words, a parity bit for each word, the poison bit, and which words clean
shared-port writes have covered since it was set. -/
structure FrameRow where
  chk : BitVec 32
  par : BitVec 64
  poison : Bool
  cleaned : BitVec 64
deriving DecidableEq, Repr

/-- Where a bank's contents came from (R143, 16_launch.md R455): image address, image id, tile index, offset of the bank in the image, its length. -/
structure BankSource where
  asid : BitVec 16
  va : Nat
  imgid : Word
  idx : Nat
  off : Nat
  len : Nat
deriving DecidableEq, Repr

/-- The refill record of a phase pair (R149): the source and destination shapes of one copy, its conversion in the latter. -/
structure Refill where
  src : List Word
  dst : List Word
deriving DecidableEq, Repr

/-- A declared phase pair (R147-R149). `writes` counts the command writes into the fill half since the previous commit,
`only` the copy that made them when there was exactly one that a refill record may name. -/
structure Pair where
  off : Nat
  size : Nat
  f : Bool
  writes : Nat
  only : Option Refill
  refill : Option Refill
deriving DecidableEq, Repr

/-- A declared weight region (R151-R153). -/
structure WRegion where
  base : Nat
  size : Nat
  gc : Bool
  ready : Bool
  writing : Nat
deriving DecidableEq, Repr

/-- The buffers of a tile, one byte space: port side from 0, starboard side from 0x10_0000, W from 0x20_0000, C from
0x30_0000, I-store from 0x40_0000. -/
structure Buf where
  mem : List (Nat × Byte)
  poison : List (Nat × Bool)
  ecc : List (Nat × Ecc)
  frow : List (Nat × FrameRow)
  ispar : List (Nat × Bool)
  src0 : Option BankSource
  src1 : Option BankSource
  tag0 : Option (Word × Nat)
  tag1 : Option (Word × Nat)
  cor : BitVec 16
  unc : BitVec 16
  frfix : BitVec 16
  iparc : BitVec 16
  pairs : List Pair
  wregs : List WRegion
  fixes : Nat
  rewrite : List Nat
deriving DecidableEq, Repr

/-! ### Winch (04_winch.md) -/

/-- A command with everything it captured at issue (R93): `vals` are the register values in the order its operands name
them, `src` and `dst` the six fields of the shapes it names. `packet` is the request queue it serves, if any; `refill` marks
the copy that a cancellation reissues outside the queues (05_tile_buffers.md R150). -/
structure WCmd where
  id : Nat
  q : BitVec 2
  op : Instr
  vals : List Word
  src : List Word
  dst : List Word
  inPhase : Bool
  packet : Option (BitVec 2)
  refill : Bool
deriving DecidableEq, Repr

/-- How far a started command has come (R96): moving its payload, writing its completion word, writing the record of a packet to
its ring, ready to complete, or complete but for a barrier arrival the switch has not accepted. -/
inductive WPhase where
  | moving | word | ring | ready | arriving
deriving DecidableEq, Repr

/-- What the access at hand of a started command waits for. -/
inductive WHold where
  /-- Nothing: it can be made. -/
  | free
  /-- The response of a remote tile or peer module. -/
  | resp
  /-- Its turn at the memory port of a far physical address, which a leaf of a base and a size translated. -/
  | far (pa vbase size : Nat)
  /-- A far-TLB miss. -/
  | miss
  /-- A refused miss, sent again at a cycle (03_far_memory.md R82). -/
  | retry (cycle : Nat)
deriving DecidableEq, Repr

/-- How a command ended: its code, AUX, and word 0 of a translation fault record (03_far_memory.md R86). -/
structure WFault where
  code : Byte
  aux : BitVec 32
  word0 : Word
deriving DecidableEq, Repr

/-- A started command (R95-R97, R112): the item of its payload and the access within it, the bytes its reads have brought, the
output of a template expansion, COUNT and the running digests, whether it moved poison or was cancelled, what its access at
hand waits for, the weight regions it is writing (a tile, or the number of tiles plus a channel, and the region), which bytes of the
far unit it is in it has written, with the poison among them, the CRC-64 of the bytes that are no scale bytes, and where in far memory
it has written scale bytes. -/
structure WRun where
  cmd : WCmd
  phase : WPhase
  fault : Option WFault
  idx : Nat
  sub : Nat
  buf : List (Byte × Bool)
  outb : Option (List (Byte × Bool))
  count : Nat
  crc32 : BitVec 32
  crc64 : Word
  poison : Bool
  canceled : Bool
  hold : WHold
  wrote : List (Nat × Nat)
  unit : List Nat
  foul : Bool
  code64 : Word
  scales : List Nat
deriving DecidableEq, Repr

/-- Configuration of a request queue (R122) with its read position. -/
structure ReqQueue where
  en : Bool
  wq : BitVec 2
  lg : Nat
  side : Bool
  base : Nat
  wix : Nat
  rix : Nat
  rd : Nat
deriving DecidableEq, Repr

/-- A completion ring (R122) with its write position. -/
structure ComplRing where
  loc : Word
  lg : Nat
  wp : Nat
deriving DecidableEq, Repr

/-- States of a shard entry (R119, R120). -/
inductive ShardState where
  | invalid | valid | bad
deriving DecidableEq, Repr

/-- A shard entry: physical W offset, length, digest (R119, 05_tile_buffers.md R152); `code` is the CRC-64 of the bytes of its range, which
the scrubber compares (R120). It is the digest except for HB4 elements, whose scale bytes stand apart. -/
structure Shard where
  state : ShardState
  off : Nat
  len : Nat
  digest : Word
  code : Word
deriving DecidableEq, Repr

/-- The Winch of a tile. `checking` is the shard whose digest the scrubber is recomputing (R120, R125). -/
structure Winch where
  sh : List (Nat × Word)
  queued : List WCmd
  running : List WRun
  errEn : BitVec 4
  errSem : BitVec 32
  rq : List (Nat × ReqQueue)
  cr : List (Nat × ComplRing)
  shards : List (Nat × Shard)
  scrubInt : BitVec 32
  scrubDue : Nat
  scrubIdx : Nat
  checking : Option Nat
  tlb : List (BitVec 16 × Leaf)
  nextId : Nat
deriving DecidableEq, Repr

/-! ### Fabric (10_fabric.md) and collectives (11_exact_reduction.md): per tile -/

/-- The dynamic state of one channel (R283, R284, R288, R299). -/
structure Chan where
  nxt : BitVec 16
  ack : BitVec 16
  exp : BitVec 16
  con : BitVec 16
  rsv : Nat
  avl : Nat
  clm : Nat
  nak : BitVec 6
  brk : Bool
  ovr : Bool
  moved : Nat
deriving DecidableEq, Repr

/-- A stored flit of the send or receive store (R281). -/
structure Slot where
  ch : Byte
  seq : BitVec 16
  flit : Flit
  bad : Bool
deriving DecidableEq, Repr

/-- An outstanding RAMO (R301, R302): its id, its class, the register it will write, whether it is deterministic, whether it goes through
a gateway, its home with the place and the bytes it acts on there (14_memory_model.md R399), whether its own bundle still waits, and
the response that then waits with it. -/
structure RamoOut where
  rid : Nat
  cls : BitVec 4
  xd : XReg
  det : Bool
  gateway : Bool
  home : Nat
  place : Nat
  size : Nat
  held : Bool
  resp : Option (Word × Bool)
deriving DecidableEq, Repr

/-- A switch of the fabric and the channel state of its tile: among them its routing tables, the links out of service, the trapped packets
that wait for a generation, and of each output the last 8 flits it sent (10_fabric.md R276, R291, R292). -/
structure Fab where
  route : List (Nat × Word)
  chans : List (Nat × Chan)
  sendStore : List Slot
  recvStore : List Slot
  ramos : List RamoOut
  nextRid : Nat
  held : List RamoReq
  cols : List (Nat × BitVec 4)
  rows : List (Nat × BitVec 4)
  linkDown : BitVec 8
  naked : List Nak
  gen : Byte
  retry : List (Nat × List Nat)
deriving DecidableEq, Repr

/-- The state of a collective round at one tile (R312). -/
inductive RoundState where
  | idle | opened | aborted
deriving DecidableEq, Repr

/-- An element inside a switch (R319): the SCL image of its value under sum and isum, its own bits under the other operations,
and whether it is poisoned. -/
structure CElem where
  v : BitVec 512
  p : Bool
deriving DecidableEq, Repr

/-- One reduction id at one tile. The local round (R312): its state, ROUND, LEN, CUR, SRC, slots reserved, the end index of
each contribution that holds a slot with the cycle in which the switch combined the last of it, destination, completion location, and
whether a contribution was a malformed image. The entry (R304, R318): whether it is active and with which round, the last round with
the code it ended by and the flags it had, the round to record instead of it (R313), timers and aborts (R324). The switch (R319-R323): elements held from each input (0 the tile, 1 to 4 the
children N, E, S, W, 5 the own total of a ring root, 16 + m the partials of module m), each child's COUNT and LEN, whether the
header went up, elements combined, elements and flits waiting for a full flit upward, results not yet sent, results done,
ring totals by module, ring flits that wait for the window, the flags and poison of the results so far (R321), and the number of the
next flit expected on each edge (R322). -/
structure Coll where
  state : RoundState
  rnd : BitVec 16
  len : Nat
  cur : Nat
  src : Bool
  nslot : Nat
  slots : List (Nat × Option Nat)
  de : Bool
  dst : Word
  cwe : Bool
  cwl : Word
  malformed : Bool
  active : Bool
  act : BitVec 16
  lv : Bool
  last : BitVec 16
  lastCode : Byte
  lastFlags : Byte
  successor : Option (BitVec 16)
  timer : Option Nat
  grace : Option Nat
  abp : Bool
  abcode : Byte
  inq : List (Nat × List CElem)
  heads : List (Nat × (Nat × Nat))
  hdr : Bool
  comb : Nat
  outq : List CElem
  upSeq : Nat
  resq : List CElem
  resDone : Nat
  downSeq : Nat
  ringCnt : List (Nat × Nat)
  ringOut : List (BitVec 1024)
  flags : Byte
  poison : Bool
  exp : List (Nat × Nat)
deriving DecidableEq, Repr

/-- The sending end of one direction of a tree edge, for one id (R322): the flits not yet acknowledged, oldest first, each with whether it
has been sent, and the cycle an acknowledgement last moved it. -/
structure TreeOut where
  q : List (CollFlit × Bool)
  moved : Nat
deriving DecidableEq, Repr

/-- A named barrier at one tile (R329-R331): its entry, ARR - DONE * COUNT, DONE, the episodes each child has reported, and
the episodes reported to the parent. -/
structure Barrier where
  ent : BitVec 32
  pend : Nat
  done : BitVec 16
  kids : List (Nat × BitVec 16)
  sent : BitVec 16
deriving DecidableEq, Repr

/-- The reduction switch of a tile (R304, R312, R322): its table, the rounds, the barriers, a detour half that waits for its
pair by port, the reduction-store slots that rounds have reserved, and the windows of its edges by id and port. -/
structure Red where
  table : List (Nat × Word)
  colls : List (Nat × Coll)
  bars : List (Nat × Barrier)
  halves : List (Nat × DetourFlit)
  store : Nat
  outs : List (Nat × TreeOut)
deriving DecidableEq, Repr

/-! ### Semaphores, time and phases (15_sync_time_phases.md) -/

/-- The snapshot of an open phase (R432). -/
structure Snap where
  x : List (Nat × Word)
  ret : List (BitVec 16)
  restart : BitVec 16
  off : Bool
  q : List (Nat × Word)
  p : List (Nat × BitVec 128)
  pmark : List (Nat × Bool)
  st : List (Nat × BitVec 32)
  rb : Nat
  depth : Nat
  seed : Word
  rn : Word
  srow : BitVec 7
  drow : BitVec 6
  mrow : BitVec 6
  af : Fmt
  bf : Fmt
  spm : BitVec 2
  sat : Bool
deriving DecidableEq, Repr

/-- Where a commit stands (R435): its round is under way, its round is complete, everything of it is complete. -/
inductive Commit where
  | none | round | applied | acked
deriving DecidableEq, Repr

/-- Semaphores, wait tickets, phases and digests of a tile. `pcp` counts the copies with PC = 1 that are outstanding, `closing` those that
have completed and whose close is still to be made (R431, R436); `semIn` are the semaphores of FSENDS arrivals that wait for their place
in the cycle (R423). -/
structure Sync where
  sem : List (Nat × BitVec 16)
  ov : Bool
  ovSem : Byte
  wt : List (Nat × BitVec 16)
  det : Bool
  ver : Bool
  inph : Bool
  esc : Bool
  pcp : Nat
  cnc : BitVec 16
  phn : BitVec 32
  snap : Option Snap
  shadow : List (Nat × BitVec 16)
  run : Word
  dig : Word
  expd : Word
  commit : Commit
  closing : Nat
  canceling : Bool
  refilling : Bool
  semIn : List Byte
deriving DecidableEq, Repr

/-- Everything one tile holds. -/
structure Tile where
  ctl : Ctl
  lane : Lane
  mx : Mx
  buf : Buf
  winch : Winch
  fab : Fab
  red : Red
  sync : Sync
deriving DecidableEq, Repr

/-! ### Module-wide state -/

/-- A packet of the fabric (10_fabric.md R275-R292): where it is, where it goes, the earliest cycle of its next hop, how often
its last link has failed in a row (R291), and for a body that leaves the module the optical port, the class and the channel it goes by
(12_leaving_module.md R339, R341). -/
structure Packet where
  id : Nat
  at_ : Nat
  dest : Nat
  gen : Byte
  due : Nat
  src : Nat
  fails : Nat
  via : Option (Nat × Nat × Byte)
  body : Body
deriving DecidableEq, Repr

/-- A pending walk of a translation side and the misses that joined it (03_far_memory.md R82, R88). -/
structure Walk where
  id : Nat
  asid : BitVec 16
  region : Nat
  waiting : List XMiss
  stale : Bool
deriving DecidableEq, Repr

/-- A translation side (R79, R80, R82): its slice, its walks and its walk counter. -/
structure XSide where
  live : Bool
  slice : List (BitVec 16 × Leaf)
  walks : List Walk
  count : Word
deriving DecidableEq, Repr

/-- An outstanding invalidation (R87, R88). -/
structure Inval where
  kind : BitVec 2
  asid : BitVec 16
  base : Nat
  pages : Nat
  tag : BitVec 16
  fn : BitVec 2
  slot : Option (BitVec 4)
deriving DecidableEq, Repr

/-- Far memory and translation. `invalWait` holds the invalidations of the controller itself that wait until fewer than 16 are outstanding
(R87). -/
structure Far where
  mem : List (Nat × Byte)
  ecc : List (Nat × Ecc)
  poison : List (Nat × Bool)
  cor : List (Nat × Nat)
  corBoot : List (Nat × Nat)
  corTile : List (Nat × Nat)
  asids : List (Nat × Word)
  sides : List (Nat × XSide)
  nextWalk : Nat
  invals : List Inval
  invalWait : List Inval
deriving DecidableEq, Repr

/-- A record that waits at a port, or whose flits the peer has not acknowledged: its bytes, the port tile it came to, since when, and the
packet it carries (12_leaving_module.md R336, R339, R343). -/
structure PortRec where
  bytes : List Byte
  lane : Nat
  since : Nat
  src : Nat
  body : Body
deriving DecidableEq, Repr

/-- An optical port, as a sender and as a receiver (12_leaving_module.md R333-R344): its peer, whether it is up or training and
until when, the module and port number it sent in training, the laser groups lit in each direction, the groups whose light it receives
and since when; the sender's and the receiver's beat counts, the beats of the flit sent last, each with its wavelength; the sender's
next and oldest unacknowledged numbers, replay buffer with the cycle each flit was last sent, and restarts without progress; the
receiver's expected number, whether it discards DATA, and until when it sends no REPLAY; when the next IDLE is due; a reef under way
(the expected number it named, its next repeat, its end, the groups lost and those it has named), and an UNREEF that waits or runs; the
bytes of a record not yet complete, the flits sent, the records that wait, those sent and not acknowledged, and the port tile that the
last one came from. -/
structure Port where
  peer : Option (BitVec 12 × Nat)
  up : Bool
  training : Bool
  trainDue : Nat
  announced : Option (BitVec 12 × Nat)
  groupsOut : BitVec 4
  groupsIn : BitVec 4
  light : BitVec 4
  litSince : List (Nat × Nat)
  beat : Nat
  rxBeat : Nat
  wire : List (Nat × BitVec 36)
  nextSeq : Nat
  oldest : Nat
  expect : Nat
  replay : List (OptFlit × Nat)
  restarts : Nat
  discard : Bool
  hold : Nat
  idleDue : Nat
  reef : Option Nat
  reefDue : Option Nat
  reefEnd : Option Nat
  reefGroups : BitVec 4
  reefNamed : BitVec 4
  unreef : Bool
  unreefGroups : BitVec 4
  stream : List Byte
  out : List OptFlit
  records : List PortRec
  sent : List PortRec
  turn : Nat
deriving DecidableEq, Repr

/-- An event record before a ring holds it (R349). -/
structure EvRec where
  code : Byte
  fn : BitVec 2
  ring : Nat
  region : BitVec 16
  src : Byte
  srcix : BitVec 16
  arg0 : Word
  arg1 : Word
  time : Word
deriving DecidableEq, Repr

/-- An event ring of a function (R349, R350). -/
structure Ring where
  base : Word
  lg : Nat
  en : Bool
  vector : BitVec 11
  wp : Nat
  head : Nat
  seq : Nat
  holdUntil : Nat
  owed : Bool
deriving DecidableEq, Repr

/-- A deferred mailbox command in progress (R348). -/
structure Deferred where
  fn : BitVec 2
  slot : BitVec 4
  tag : BitVec 16
  opc : Byte
  region : BitVec 16
  id : Nat
deriving DecidableEq, Repr

/-- A running HCOPY (R348). -/
structure HCopy where
  id : Nat
  fn : BitVec 2
  tag : BitVec 16
  host : Word
  far : Word
  len : Nat
  toHost : Bool
deriving DecidableEq, Repr

/-- The host side of the module (12_leaving_module.md R345-R350). The kept part of each function's mailbox, its MSI-X table and pending
array, and the uncorrectable-error status of AER; the rings, the events that wait for one and those dropped; the links, their rate
(its PCIe generation) and width; host memory, the vectors raised and the completions sent; the commands that have yet to complete. -/
structure HostSide where
  mbox : List (Nat × Byte)
  msix : List (Nat × Byte)
  pba : List (Nat × Bool)
  aer : List (Nat × BitVec 32)
  rings : List (Nat × Ring)
  pend : List EvRec
  dropped : List (Nat × Nat)
  linkUp : BitVec 4
  rate : List (Nat × Byte)
  width : List (Nat × Byte)
  mem : List (Nat × Byte)
  mempoison : List (Nat × Bool)
  vectors : List (BitVec 2 × BitVec 11)
  replies : List (BitVec 2 × Byte × Bytes)
  hcopies : List HCopy
  nextCopy : Nat
  deferred : List Deferred
  nextDef : Nat
deriving DecidableEq, Repr

/-- Module time (R352-R354). -/
inductive TimeState where
  | free | locked | lost
deriving DecidableEq, Repr

/-- Module time and its discipline (R352, R354): MTIME, its fraction in thirds of a unit, how often it has wrapped, the last offset from
the grandmaster, the correction still to slew and the frequency it runs at, in thirds of a unit per four cycles; the arrival of a
two-step Sync, the last Sync as the grandmaster sent it and as it arrived, the sending of the delay request under way, and the path's
delay; and the pulses of the 1PPS output. -/
structure Clock where
  mtime : Word
  frac : Nat
  era : Nat
  state : TimeState
  offset : Int
  slew : Int
  freq : Int
  syncAt : Option Int
  sync : Option (Int × Int)
  askedAt : Option Int
  delay : Int
  pulses : Nat
deriving DecidableEq, Repr

/-- Where a region stands (16_launch.md). -/
inductive RegState where
  | binding | running | softSaving | forcedSaving | saved | ending
deriving DecidableEq, Repr

/-- A region (R448, R455-R462). `err` marks one whose forced pre-emption follows a region error (17_faults_repair.md R474); `want` is
the strongest request that waits for its turn (R462): 0 none, 1 soft, 2 forced, 3 teardown. -/
structure Region where
  id : BitVec 16
  asid : BitVec 16
  fn : BitVec 2
  evr : Byte
  dq : BitVec 4
  px : Nat
  py : Nat
  wd : Nat
  ht : Nat
  flags : BitVec 5
  slack : Nat
  imgid : Word
  imgva : Nat
  lid : Word
  mods : List (BitVec 12)
  mm : Bool
  count : Nat
  next : Nat
  ext : List Nat
  widw : BitVec 42
  spdl : Nat
  sfbase : Nat
  sfstr : Nat
  ranges : List Word
  livev : BitVec 96
  livef : BitVec 4
  state : RegState
  tau : Word
  started : List Nat
  savedTiles : List Nat
  released : List Nat
  deadline : Option Nat
  kind : BitVec 2
  tag : BitVec 16
  slot : BitVec 4
  prio : Nat
  serial : Option Nat
  rst : Bool
  lltv : Word
  baseid : Word
  err : Bool
  want : BitVec 2
deriving DecidableEq, Repr

/-- The distributor (R452, R453). -/
structure Dist where
  queues : List (Nat × List Bytes)
  fns : List (Nat × List (BitVec 2 × BitVec 4 × BitVec 16))
  prio : List (Nat × Nat)
  eff : List (Nat × Nat)
  waitc : List (Nat × Nat)
  lastq : Nat
  sel : Option (Nat × Bytes × (BitVec 2 × BitVec 4 × BitVec 16))
  due : Nat
deriving DecidableEq, Repr

/-- What a module keeps of a multi-module launch (R463, R464, R509). -/
structure Launch where
  lid : Word
  mods : List (BitVec 12)
  leader : BitVec 12
  grants : List (Nat × BitVec 12)
  awaiting : List (Nat × BitVec 12 × List (BitVec 12))
  held : List (Nat × Nat)
  nextBatch : Nat
  reissue : List Nat
  live : List (BitVec 12)
  failed : List (BitVec 12)
  beats : List (Nat × Nat)
  views : List View
  binds : List BindMsg
  bindDue : Option Nat
  minority : Bool
  asked : Nat
deriving DecidableEq, Repr

/-- A splice (17_faults_repair.md R481-R484): the logical tile, the spare a host names, the code that asked for it, the home the tile had
then. -/
structure SpliceReq where
  tile : Nat
  spare : Option Nat
  trigger : Byte
  home : Nat
  stage : Nat
  due : Nat
  cmd : Option Deferred
deriving DecidableEq, Repr

/-- Power states (17_faults_repair.md R493). -/
inductive Power where
  | p0 | p1 | p2 | p3 | off
deriving DecidableEq, Repr

/-- What a save keeps that the layout of a frame has no room for (R459): the captured shapes of unstarted commands, the sidebands of
stored flits, the fill-half writes of each pair with the copy that made them, the
deterministic RAMOs of an open phase, a work identifier already delivered to a bundle that waits, where a commit stands, and the
CRC-64 of each shard's own bytes. -/
structure FrameRest where
  cmds : List WCmd
  sendStore : List Slot
  recvStore : List Slot
  fills : List (Nat × Option Refill)
  ramos : List RamoOut
  held : List (Nat × RamoReq)
  granted : List (Wait × Instr × Word)
  commit : Commit
  closing : Nat
  codes : List (Nat × Word)
deriving DecidableEq, Repr

/-- The module controller and the management controller. -/
structure Ctrl where
  regions : List Region
  nextRegion : BitVec 16
  launched : Bool
  dist : Dist
  launches : List Launch
  outbox : List (BitVec 12 × MgmtMsg)
  modno : BitVec 12
  phys : List (Nat × Nat)
  deadTiles : List Nat
  deadLinks : List (Nat × Nat)
  retired : List (Nat × Byte)
  cells : List (Nat × Nat)
  cellLog : List Nat
  config : List (Nat × Byte)
  cfgLen : Nat
  counter : BitVec 32
  reason : Byte
  recovery : Bool
  splices : List SpliceReq
  power : Power
  corrections : List (Nat × Nat)
  lltVersion : Word
  saves : List (Nat × FrameRest)
deriving DecidableEq, Repr

/-- What the hardware does by itself, at a cycle it computes: the events of the opcode table that the end of a cycle
schedules, and the region runtime's own continuations. -/
inductive Auto where
  | land | rampEnd | blockEnd | handler | scrub | winchStart (q : BitVec 2) | pkt (n : BitVec 2) | winchMove (cmd : Nat)
  | winchDone (cmd : Nat) | walk (side : BitVec 2) (id : Nat) | invals | hop (id : Nat) | resend (ch : Byte) | ack (ch : Byte)
  | gen (n : Nak) | timer (id : BitVec 6) | grace (id : BitVec 6) | detApply | start | release | force (region : BitVec 16)
  | softDue (region : BitVec 16) | teardown (region : BitVec 16) (cause : Byte) | distribute | bind | ringWrite (fn : BitVec 2) (ring : Nat)
  | splice | spliceDue | hcopy (id : Nat) | closePhase | bindDue (region : BitVec 16) | mail (fn : BitVec 2) (slot : BitVec 4)
  | trap (c : Cause) | escalate (c : Cause) | refetch (lane : Bool) (addr : Nat)
  | idle (port : Nat) | age (port : Nat) | retrain (port : Nat) | reefRepeat (port : Nat) | reefEnd (port : Nat)
  | barrier | treeResend (k : Nat) | accumulate | fsends | phaseDone | saveStep (region : BitVec 16) | wait | cancel | nak (n : Nak) | vector (fn : BitVec 2) (ring : Nat) | mgmt (m : MgmtMsg) | beat (lid : Word) (pmod : BitVec 12)
deriving DecidableEq, Repr

/-- Who acts next. The list is plain data that the machine reads from its head; when it is empty the cycle ends. Every
choice the hardware makes freely (00_scope.md R2) is the order of its entries. -/
inductive Turn where
  | control (tile : Nat)
  | lane (tile : Nat)
  | event (tile : Nat) (i : Instr)
  | auto (tile : Nat) (a : Auto)
deriving DecidableEq, Repr

/-- The scalar registers as they stood before a bundle: values, outstanding RAMOs, and poison or parity marks (R31). -/
structure PreRegs where
  x : List (Nat × Word)
  ramos : List RamoOut
  foul : BitVec 32
deriving DecidableEq, Repr

/-- The bundle being issued (02_bundles.md R31-R39): its address, the next sequential address, its scope, the slot at
work (numbered as TCAUSE), the scalar registers and the tile as they stood before it, and what its slots have asked for so far: the
first fault, the waits, the instruction that acts after the others, stream pops (stream, position, units), streams named as
sources without a pop, ports used, the ports each stream has reached, streams named as destinations, the positions pushes started from, the result queues that later slots pop, the buffer bytes a fault's reads have checked,
the registers whose poison raised it, how many tokens the bundle has queued, and the row a drain will push. -/
structure Bun where
  active : Bool
  lane : Bool
  addr : BitVec 16
  seq : Nat
  scope : BitVec 2
  slot : BitVec 4
  xs : Option PreRegs
  was : Option Tile
  raised : Option Cause
  waits : List (Wait × Instr)
  late : Option Instr
  popped : List (Nat × Nat × Nat)
  peeks : List Nat
  ports : List Nat
  reached : List (Nat × Nat)
  dsts : List Nat
  claimed : List (Nat × Nat)
  ahead : List Nat
  touch : List Nat
  hit : BitVec 32
  tok : Nat
  drain : Option (Nat × RqRow)
deriving DecidableEq, Repr

/-- The whole module. The last fields are the model's own: who moves next, the tile the next meaning acts for, the bundle
at issue, and the counter that numbers uses of free values. -/
structure State where
  tiles : List (Nat × Tile)
  spares : List (Nat × Tile)
  net : List Packet
  nextPacket : Nat
  far : Far
  ports : List (Nat × Port)
  host : HostSide
  clock : Clock
  ctrl : Ctrl
  cycle : Nat
  agenda : List Turn
  here : Nat
  bun : Bun
  free : Nat
deriving DecidableEq, Repr

/-- Why a step can stop with a fault. -/
inductive Fault where
  /-- Raised by `step` when the agenda names a tile outside the 5544 logical tiles of 01_module.md R15: no such tile
  exists. Safe: the machine has no such party. -/
  | noSuchTile
deriving DecidableEq, Repr

/-- Why a step can be refused. -/
inductive Refusal where
  /-- Raised by `exec` for a row of the opcode table that has no meaning yet. Safe: nothing is claimed about it. -/
  | notModelled (mnemonic : String)
deriving DecidableEq, Repr

/-! ### Reset: the values when module boot completes (00_scope.md R7) -/

/-- The ramp limiter at boot (13_control_slice.md R390, R391). -/
def Ramp.reset : Ramp :=
  { en := true, up := 120, dn := 120, lvl := 120, beats := 0, mlast := 0, floor := 0, whw := 0, wstart := 0, held := false }

/-- The trap CSRs at boot: zero (17_faults_repair.md R468). -/
def Trap.reset : Trap :=
  { tvec := 0, re := 0, cause := 0, epc := 0, epcOff := false, lv := false, ltrip := 0, llpc := 0, val := 0, scr := 0,
    hnd := false, hstart := 0, pend := [], granted := [] }

/-- The control slice and lane sequencer before a launch (R356, R364-R368): L is 80, everything else zero or empty. -/
def Ctl.reset : Ctl :=
  { x := [], xbad := 0, xpois := 0, cpc := 0, off := false, ret := [], fv0 := false, fv1 := false, fetch := .notStarted,
    frozen := false, hq := [], blk := none, lpc := 0, laneFree := 0, rb := 0, depth := 80, ramp := Ramp.reset, trap := Trap.reset,
    tileid := 0, widw := 0, wshp := [], waits := [], granted := [], waitFrom := 0, waitAt := 0,
    after := Option.none, softStop := false }

/-- The lanes before a launch (06_number_formats.md R174, R175; 07_streams_registers.md R184). -/
def Lane.reset : Lane :=
  { v := [], vmark := [], vbad := [], p := [], pmark := [], q := [], st := [], seed := 0, rn := 0, drm := 0, flags := 0,
    pending := [], sigs := [], held := [], stop := false, replay := false, fresh := 0, freshAt := 0 }

/-- MXSR at boot (09_matrix.md R269). -/
def Mxsr.reset : Mxsr :=
  { mis := 0, fk := 0, fn := 0, fv := false, ck := 0, nv := false, ovf := false, unf := false, nx := false }

/-- The matrix array before a launch (09_matrix.md R265, R268): AF and BF are BF16. -/
def Mx.reset : Mx :=
  { cells := [], scales := [], pmarks := [], smarks := [], desc := [], active := false, rows := [], done := [], spare := [],
    latched := none, srow := 0, drow := 0, mrow := 0, af := .bf16, bf := .bf16, spm := 0, sat := false, sr := Mxsr.reset, rq := [], half := [], broken := [],
    beatNow := false }

/-- The buffers before a launch. -/
def Buf.reset : Buf :=
  { mem := [], poison := [], ecc := [], frow := [], ispar := [], src0 := none, src1 := none, tag0 := none, tag1 := none,
    cor := 0, unc := 0, frfix := 0, iparc := 0, pairs := [], wregs := [], fixes := 0, rewrite := [] }

/-- The Winch before a launch (04_winch.md). -/
def Winch.reset : Winch :=
  { sh := [], queued := [], running := [], errEn := 0, errSem := 0, rq := [], cr := [], shards := [], scrubInt := 0,
    scrubDue := 0, scrubIdx := 0, checking := Option.none, tlb := [], nextId := 0 }

/-- The switch before a launch (10_fabric.md): an unlisted routing entry is the default table's. -/
def Fab.reset : Fab :=
  { route := [], chans := [], sendStore := [], recvStore := [], ramos := [], nextRid := 0, held := [], cols := [], rows := [],
    linkDown := 0, naked := [], gen := 0, retry := [] }

/-- The reduction switch before a launch (11_exact_reduction.md). -/
def Red.reset : Red := { table := [], colls := [], bars := [], halves := [], store := 0, outs := [] }

/-- Semaphores, tickets, phases and digests before a launch (15_sync_time_phases.md). -/
def Sync.reset : Sync :=
  { sem := [], ov := false, ovSem := 0, wt := [], det := false, ver := false, inph := false, esc := false, pcp := 0,
    cnc := 0, phn := 0, snap := none, shadow := [], run := 0, dig := 0, expd := 0, commit := .none, closing := 0,
    canceling := false, refilling := false, semIn := [] }

/-- A tile when boot completes. -/
def Tile.reset : Tile :=
  { ctl := Ctl.reset, lane := Lane.reset, mx := Mx.reset, buf := Buf.reset, winch := Winch.reset, fab := Fab.reset,
    red := Red.reset, sync := Sync.reset }

/-- No bundle at issue. -/
def Bun.none : Bun :=
  { active := false, lane := false, addr := 0, seq := 0, scope := 0, slot := 15, xs := Option.none, was := Option.none, raised := Option.none,
    waits := [], late := Option.none, popped := [], peeks := [], ports := [], reached := [], dsts := [], claimed := [], ahead := [], touch := [], hit := 0, tok := 0,
    drain := Option.none }

/-- Far memory and translation at boot (03_far_memory.md). -/
def Far.reset : Far :=
  { mem := [], ecc := [], poison := [], cor := [], corBoot := [], corTile := [], asids := [], sides := [], nextWalk := 0, invals := [], invalWait := [] }

/-- The event that ends boot, held for each function until its ring 0 is enabled (17_faults_repair.md R488 step 8). -/
def bootEvents : List EvRec :=
  [0, 1, 2, 3].map fun f =>
    { code := 0xF0, fn := f, ring := 0, region := 0xFFFF, src := 4, srcix := 0, arg0 := 0, arg1 := 0, time := 0 }

/-- The host side at boot (12_leaving_module.md R345-R350): the four links trained at their full rate. -/
def HostSide.reset : HostSide :=
  { mbox := [], msix := [], pba := [], aer := [], rings := [], pend := bootEvents, dropped := [], linkUp := 15, rate := [], width := [], mem := [],
    mempoison := [], vectors := [], replies := [], hcopies := [], nextCopy := 0, deferred := [], nextDef := 0 }

/-- Module time at boot (12_leaving_module.md R354). -/
def Clock.reset : Clock := 
  { mtime := 0, frac := 0, era := 0, state := .free, offset := 0, slew := 0, freq := 0, syncAt := Option.none, sync := Option.none
    askedAt := Option.none, delay := 0, pulses := 0 }

/-- The distributor at boot (16_launch.md R452): LASTQ is 15. -/
def Dist.reset : Dist :=
  { queues := [], fns := [], prio := [], eff := [], waitc := [], lastq := 15, sel := Option.none, due := 0 }

/-- The controllers at boot: no regions, power state P0, no defects. -/
def Ctrl.reset : Ctrl :=
  { regions := [], nextRegion := 1, launched := false, dist := Dist.reset, launches := [], outbox := [], modno := 0, phys := [], deadTiles := [],
    deadLinks := [], retired := [], cells := [], cellLog := [], config := [], cfgLen := 0, counter := 0, reason := 0, recovery := false,
    splices := [], power := .p0, corrections := [], lltVersion := 0, saves := [] }

/-- The module when boot completes, before any image runs (00_scope.md R7). -/
def State.reset : State :=
  { tiles := [], spares := [], net := [], nextPacket := 0, far := Far.reset, ports := [], host := HostSide.reset, clock := Clock.reset,
    ctrl := Ctrl.reset, cycle := 0, agenda := [], here := 0, bun := Bun.none, free := 0 }

end Sys2Proof.Machine
end

