-- ==== Sys2Proof/Machine/Base.lean ====
section
/-!
DEFINITION. Access to the tiles of the state, the region of a tile, the agenda and event records: the plumbing every
meaning is written over.
-/

namespace Sys2Proof.Machine

open Sys2Proof

/-- The outcome of every meaning. -/
abbrev Out := Host.Outcome State Fault Refusal

/-! ### Tiles -/

/-- The tile of an index 84*y + x (01_module.md R15). -/
def State.tile (s : State) (t : Nat) : Tile := SMap.get Tile.reset s.tiles t

/-- Replace one tile. -/
def State.setTile (s : State) (t : Nat) (x : Tile) : State := { s with tiles := SMap.put s.tiles t x }

/-- The tile the present meaning acts for. -/
def State.t (s : State) : Tile := s.tile s.here

/-- Update the tile the present meaning acts for. -/
def State.modT (s : State) (f : Tile → Tile) : State := s.setTile s.here (f s.t)

/-- Update its control slice. -/
def State.modCtl (s : State) (f : Ctl → Ctl) : State := s.modT fun t => { t with ctl := f t.ctl }

/-- Update its lanes. -/
def State.modLane (s : State) (f : Lane → Lane) : State := s.modT fun t => { t with lane := f t.lane }

/-- Update its matrix array. -/
def State.modMx (s : State) (f : Mx → Mx) : State := s.modT fun t => { t with mx := f t.mx }

/-- Update its buffers. -/
def State.modBuf (s : State) (f : Buf → Buf) : State := s.modT fun t => { t with buf := f t.buf }

/-- Update its Winch. -/
def State.modWinch (s : State) (f : Winch → Winch) : State := s.modT fun t => { t with winch := f t.winch }

/-- Update its switch. -/
def State.modFab (s : State) (f : Fab → Fab) : State := s.modT fun t => { t with fab := f t.fab }

/-- Update its reduction switch. -/
def State.modRed (s : State) (f : Red → Red) : State := s.modT fun t => { t with red := f t.red }

/-- Update its semaphores and phases. -/
def State.modSync (s : State) (f : Sync → Sync) : State := s.modT fun t => { t with sync := f t.sync }

/-- Update its trap CSRs. -/
def State.modTrap (s : State) (f : Trap → Trap) : State := s.modCtl fun c => { c with trap := f c.trap }

/-- Act for another tile, then for the present one again. -/
def State.atTile (s : State) (t : Nat) (f : State → State) : State := { f { s with here := t } with here := s.here }

/-- Update the far memory. -/
def State.modFar (s : State) (f : Far → Far) : State := { s with far := f s.far }

/-- Update the host side. -/
def State.modHost (s : State) (f : HostSide → HostSide) : State := { s with host := f s.host }

/-- Update the controllers. -/
def State.modCtrl (s : State) (f : Ctrl → Ctrl) : State := { s with ctrl := f s.ctrl }

/-- A turn that comes before every other. -/
def State.soon (s : State) (t : Turn) : State := { s with agenda := t :: s.agenda }

/-- The present tile does something next, before every other turn. -/
def State.auto (s : State) (a : Auto) : State := s.soon (.auto s.here a)

/-- Logical x of a tile index. -/
def tileX (t : Nat) : Nat := t % 84

/-- Logical y of a tile index. -/
def tileY (t : Nat) : Nat := t / 84

/-- The neighbour of a tile at a port: 0 N, 1 E, 2 S, 3 W (01_module.md R15). -/
def neighbour (t : Nat) (port : Nat) : Nat :=
  let x := tileX t
  let y := tileY t
  match port with
  | 0 => 84 * ((y + 65) % 66) + x
  | 1 => 84 * y + (x + 1) % 84
  | 2 => 84 * ((y + 1) % 66) + x
  | _ => 84 * y + (x + 83) % 84

/-- The default home of a logical tile as 72*px + py (01_module.md R16). -/
def defaultHome (t : Nat) : Nat :=
  let x := tileX t
  let y := tileY t
  let px := if x < 42 then 2 * x else 2 * (83 - x) + 1
  let o := if y < 33 then 2 * y else 2 * (65 - y) + 1
  let f := o / 11
  let j := o % 11
  72 * px + (if j < 5 then 12 * f + j else 12 * f + j + 1)

/-- The live home of a logical tile (01_module.md R18). -/
def State.home (s : State) (t : Nat) : Nat := (SMap.find? s.ctrl.phys t).getD (defaultHome t)

/-! ### Regions -/

/-- Is a tile inside a region's rectangle (16_launch.md R448)? -/
def Region.has (r : Region) (t : Nat) : Bool :=
  decide (r.px ≤ tileX t ∧ tileX t < r.px + r.wd ∧ r.py ≤ tileY t ∧ tileY t < r.py + r.ht)

/-- Does a region still hold its tiles? -/
def Region.live (r : Region) : Bool := r.state != .saved

/-- The region of a tile. -/
def State.regionAt (s : State) (t : Nat) : Option Region := s.ctrl.regions.find? fun r => r.live && r.has t

/-- The region of the present tile. -/
def State.region (s : State) : Option Region := s.regionAt s.here

/-- The region of an id. -/
def State.regionOf (s : State) (id : BitVec 16) : Option Region := s.ctrl.regions.find? fun r => r.id == id

/-- Update the region of an id. -/
def State.modRegion (s : State) (id : BitVec 16) (f : Region → Region) : State :=
  s.modCtrl fun c => { c with regions := c.regions.map fun r => if r.id == id then f r else r }

/-- The tile indices of a region, in tile index order (16_launch.md R448). -/
def Region.tiles (r : Region) : List Nat :=
  (upto r.ht).flatMap fun y => (upto r.wd).map fun x => 84 * (r.py + y) + (r.px + x)

/-- The region-relative index of a tile (16_launch.md R448). -/
def Region.index (r : Region) (t : Nat) : Nat := (tileY t - r.py) * r.wd + (tileX t - r.px)

/-- FLAGS of R445. -/
def Region.det (r : Region) : Bool := r.flags.getLsbD 0
/-- Far-fault trapping (R445). -/
def Region.fft (r : Region) : Bool := r.flags.getLsbD 2
/-- Winch-fault trapping (R445). -/
def Region.wft (r : Region) : Bool := r.flags.getLsbD 3
/-- The image has static channels (R445). -/
def Region.stat (r : Region) : Bool := r.flags.getLsbD 4

/-! ### Event records (12_leaving_module.md R349) -/

/-- Queue an event for a function, dropping and counting it when 4096 wait (R349). -/
def State.pendEvent (s : State) (e : EvRec) : State :=
  s.modHost fun h =>
    if (h.pend.filter fun x => x.fn == e.fn).length < 4096 then { h with pend := h.pend ++ [e] }
    else { h with dropped := SMap.set 0 h.dropped e.fn.toNat (SMap.get 0 h.dropped e.fn.toNat + 1) }

/-- An event for ring 0 of every function, with its REGION field (R349). -/
def State.ringZero (s : State) (region : BitVec 16) (code src : Byte) (srcix : BitVec 16) (a0 a1 : Word) : State :=
  [0, 1, 2, 3].foldl (fun s f => s.pendEvent
    { code := code, fn := f, ring := 0, region := region, src := src, srcix := srcix
      arg0 := a0, arg1 := a1, time := s.clock.mtime }) s

/-- A module event: to ring 0 of every function (R349). -/
def State.moduleEvent (s : State) (code src : Byte) (srcix : BitVec 16) (a0 a1 : Word) : State :=
  s.ringZero 0xFFFF code src srcix a0 a1

/-- An event of a module code that concerns a region: to ring 0 of every function and to the region's own ring (R349). DEDUCED:
its REGION field names the region on both. -/
def State.regionEvent (s : State) (r : Region) (code : Byte) (src : Byte) (srcix : BitVec 16) (a0 a1 : Word) : State :=
  let s := s.ringZero r.id code src srcix a0 a1
  if r.evr == 0 then s else
    s.pendEvent
      { code := code, fn := r.fn, ring := r.evr.toNat, region := r.id, src := src, srcix := srcix, arg0 := a0
        arg1 := a1, time := s.clock.mtime }

/-- An event addressed to a region runtime: it goes to the ring named at launch, its source the tile's home; a module event, of code
0xC0 or above, goes to ring 0 of every function too (R349). -/
def State.tileEvent (s : State) (code : Byte) (a0 a1 : Word) : State :=
  match s.region with
  | none => s
  | some r =>
    let ix := BitVec.ofNat 16 (s.home s.here)
    if 0xC0 ≤ code.toNat then s.regionEvent r code 0 ix a0 a1
    else
      s.pendEvent
        { code := code, fn := r.fn, ring := r.evr.toNat, region := r.id, src := 0, srcix := ix, arg0 := a0, arg1 := a1
          time := s.clock.mtime }

/-- A free value: the counter that numbers it advances, so that no two uses share one. -/
def State.freeWord (s : State) : Word × State := (Config.freeWord s.free, { s with free := s.free + 1 })

/-- The fault codes that a chapter assigns (17_faults_repair.md R467); the hardware writes no other (00_scope.md R12). -/
def assignedCodes : List (Nat × Nat) :=
  [(0x01, 0x0C), (0x10, 0x16), (0x20, 0x32), (0x40, 0x4C), (0x50, 0x58), (0x60, 0x6C), (0x80, 0x83), (0x90, 0x91), (0xA0, 0xAC), (0xC0, 0xCC),
    (0xE0, 0xE8), (0xEA, 0xF5)]

/-- Is a code assigned? -/
def assigned (c : Byte) : Bool := assignedCodes.any fun r => decide (r.1 ≤ c.toNat ∧ c.toNat ≤ r.2)

/-- A free assigned code: where a record carries a cause that no rule numbers (00_scope.md R11, R12). -/
def State.freeCode (s : State) : Byte × State :=
  let cs := assignedCodes.flatMap fun r => (upto (r.2 + 1 - r.1)).map fun i => BitVec.ofNat 8 (r.1 + i)
  let (w, s) := s.freeWord
  (cs.getD (w.toNat % cs.length) 0x01, s)

/-- A free choice between two outcomes. -/
def State.coin (s : State) : Bool × State := (Config.coin s.free, { s with free := s.free + 1 })

end Sys2Proof.Machine
end

