-- ==== Sys2Proof/Machine/Mem.lean ====
section
/-!
DEFINITION. Tile buffers: the physical address space, phase-pair and weight-generation mapping, check bits and poison
(05_tile_buffers.md), and the store digest (15_sync_time_phases.md R441).
-/

namespace Sys2Proof.Machine

open Sys2Proof

/-- Buffers as location words name them (04_winch.md R98). -/
inductive BufId where
  | a | w | c | i
deriving DecidableEq, Repr

/-- The size of a buffer, or of an A-buffer side (R98, R128). -/
def BufId.size : BufId → Nat
  | .a => 0xC0000
  | .w => 0x100000
  | .c => 0x60000
  | .i => 0x10000

/-- Where a buffer stands in the byte space of a tile. -/
def BufId.base : BufId → Bool → Nat
  | .a, false => 0
  | .a, true => 0x100000
  | .w, _ => 0x200000
  | .c, _ => 0x300000
  | .i, _ => 0x400000

/-- The buffer of a location word's BUF field (R98). -/
def bufOf (b : BitVec 2) : BufId :=
  match b.toNat with
  | 0 => .a
  | 1 => .w
  | 2 => .c
  | _ => .i

/-! ### Memory -/

/-- A memory: the bytes that differ from zero, which is what a byte that nothing has written reads as (DESIGN CHOICE: the spec
gives buffers, far memory and host memory no contents at power-on). -/
abbrev Memory := List Host.Cell

/-- The canonical form: addresses strictly rising, and no entry equal to what an unlisted address reads as. -/
def Memory.wf (m : Memory) : Bool := SMap.wf (0 : BitVec 8) m

/-! ### Mapping -/

/-- The declared pair that holds an A-buffer offset (R147). -/
def pairAt (ps : List Pair) (o : Nat) : Option Pair := ps.find? fun p => decide (p.off ≤ o ∧ o < p.off + p.size)

/-- The physical side of a logical side at an offset: flipped inside a pair whose F is set (R148). -/
def physSide (ps : List Pair) (side : Bool) (o : Nat) : Bool :=
  match pairAt ps o with
  | none => side
  | some p => side != p.f

/-- The declared weight region whose named offsets hold a W offset (R151). -/
def wregAt (rs : List WRegion) (o : Nat) : Option WRegion := rs.find? fun r => decide (r.base ≤ o ∧ o < r.base + r.size)

/-- Does a W offset lie in the second generation of a region, which no Winch access may name (R151)? -/
def wregUpper (rs : List WRegion) (o : Nat) : Bool :=
  rs.any fun r => decide (r.base + r.size ≤ o ∧ o < r.base + 2 * r.size)

/-- The physical W offset a read of the current generation reaches (R152). -/
def wRead (rs : List WRegion) (o : Nat) : Nat :=
  match wregAt rs o with
  | none => o
  | some r => if r.gc then o + r.size else o

/-- The physical W offset a write into the idle generation reaches (R152). -/
def wWrite (rs : List WRegion) (o : Nat) : Nat :=
  match wregAt rs o with
  | none => o
  | some r => if r.gc then o else o + r.size

/-- The physical byte address of an A-buffer byte (R148). -/
def Buf.aAddr (b : Buf) (side : Bool) (o : Nat) : Nat := BufId.base .a (physSide b.pairs side o) + o

/-- The physical byte address of a C-buffer byte. -/
def cAddr (o : Nat) : Nat := 0x300000 + o

/-- The physical byte address an SM access, a lane access or a RAMO reaches: A with its side, or C. -/
def Buf.addr (b : Buf) (cbuf side : Bool) (o : Nat) : Nat := if cbuf then cAddr o else b.aAddr side o

/-! ### Reads -/

/-- A physical address inside the accumulator frames (R129). -/
def inFrames (a : Nat) : Bool := decide (0x300000 ≤ a ∧ a < 0x310000)

/-- The frame row of a physical address, 0-255. -/
def frameRow (a : Nat) : Nat := (a - 0x300000) / 256

/-- One stored byte. -/
def Buf.byte (b : Buf) (a : Nat) : Byte := SMap.get 0 b.mem a

/-- A row with nothing wrong. -/
def FrameRow.zero : FrameRow := { chk := 0, par := 0, poison := false, cleaned := 0 }

/-- The record of a frame row. -/
def Buf.row (b : Buf) (r : Nat) : FrameRow := SMap.get FrameRow.zero b.frow r

/-- Replace the record of a frame row. -/
def Buf.setRow (b : Buf) (r : Nat) (x : FrameRow) : Buf := { b with frow := SMap.set FrameRow.zero b.frow r x }

/-- Is the stored word, or the frame row, of a byte poisoned (R138, R141)? -/
def Buf.poisoned (b : Buf) (a : Nat) : Bool :=
  if inFrames a then (b.row (frameRow a)).poison else SMap.get false b.poison (a / 8)

/-- The 32-bit word at a physical address. -/
def Buf.word32 (b : Buf) (a : Nat) : BitVec 32 := b.byte (a + 3) ++ b.byte (a + 2) ++ b.byte (a + 1) ++ b.byte a

/-- The stored bytes of a run. -/
def Buf.bytes (b : Buf) (a n : Nat) : Bytes := (upto n).map fun i => b.byte (a + i)

/-- Saturating increment of a 16-bit count (R145). -/
def inc16 (x : BitVec 16) : BitVec 16 := if x == 0xFFFF then x else x + 1

/-- The parity of a word (R141). -/
def parity32 (w : BitVec 32) : Bool := popcN 32 w.toNat % 2 == 1

/-- What a read finds in a word of A, W or C staging (R138): a single-bit error is corrected and counted, and stays in the word until
its correction is written back; an uncorrectable one poisons the word and is counted. -/
def Buf.touchWord (b : Buf) (w : Nat) : Buf :=
  match SMap.get Ecc.clean b.ecc w with
  | .clean => b
  | .single =>
    { b with cor := inc16 b.cor, fixes := b.fixes + 1, rewrite := if b.rewrite.contains w then b.rewrite else w :: b.rewrite }
  | .bad => { b with ecc := SMap.set Ecc.clean b.ecc w .clean, poison := SMap.set false b.poison w true, unc := inc16 b.unc }

/-- The corrections that reads have found are written back (R138). DESIGN CHOICE (notes/assumptions/21.md): between the cycle of the
read and the next. -/
def Buf.writeBack (b : Buf) : Buf :=
  { b with
    ecc := b.rewrite.foldl (fun m w => if SMap.get Ecc.clean m w == .single then SMap.set Ecc.clean m w .clean else m) b.ecc
    rewrite := [] }

/-- XOR of the words of a frame row. -/
def Buf.rowXor (b : Buf) (r : Nat) : BitVec 32 :=
  (upto 64).foldl (fun acc n => acc ^^^ b.word32 (0x300000 + 256 * r + 4 * n)) 0

/-- The words of a frame row whose parity fails. -/
def Buf.rowBad (b : Buf) (r : Nat) : List Nat :=
  (upto 64).filter fun n => parity32 (b.word32 (0x300000 + 256 * r + 4 * n)) != (b.row r).par.getLsbD n

/-- Store four bytes without any check. -/
def Buf.poke32 (b : Buf) (a : Nat) (v : BitVec 32) : Buf :=
  { b with mem := loopN (fun i m => SMap.set 0 m (a + i) (bits (8 * i) 8 v)) 4 b.mem }

/-- What a read finds in a frame row (R141): one word with a parity failure is rebuilt; anything worse poisons the row.
The Boolean says that event 0x83 is due. -/
def Buf.touchRow (b : Buf) (r : Nat) : Buf × Bool :=
  let x := b.rowXor r
  match b.rowBad r with
  | [] =>
    if x == (b.row r).chk then (b, false)
    else ({ b.setRow r { b.row r with poison := true, cleaned := 0 } with frfix := inc16 b.frfix }, true)
  | [n] =>
    let a := 0x300000 + 256 * r + 4 * n
    let v := b.word32 a ^^^ x ^^^ (b.row r).chk
    let row := b.row r
    ({ (b.poke32 a v).setRow r { row with par := setBits n 1 row.par (BitVec.ofBool (parity32 v)) } with frfix := inc16 b.frfix }, false)
  | _ => ({ b.setRow r { b.row r with poison := true, cleaned := 0 } with frfix := inc16 b.frfix }, true)

/-- Each element once, in order of first appearance. -/
def dedup : List Nat → List Nat
  | [] => []
  | a :: r => a :: (dedup r).filter (· != a)

/-- The check units a list of addresses touches: 64-bit words, or frame rows numbered from 2^40. -/
def units (as : List Nat) : List Nat :=
  dedup (as.map fun a => if inFrames a then 2 ^ 40 + frameRow a else a / 8)

/-- Check every unit of a read; the list names the frame rows newly poisoned. -/
def Buf.touch (b : Buf) (as : List Nat) : Buf × List Nat :=
  (units as).foldl (fun (b, ev) u =>
    if u < 2 ^ 40 then (b.touchWord u, ev)
    else
      let (b, e) := b.touchRow (u - 2 ^ 40)
      (b, if e then ev ++ [u - 2 ^ 40] else ev)) (b, [])

/-- Event 0x83 for each frame row newly poisoned (R141; 17_faults_repair.md R494). -/
def State.rowEvents (s : State) (rows : List Nat) : State :=
  rows.foldl (fun s r => s.tileEvent 0x83 (BitVec.ofNat 64 (r / 64 + 4 * (r % 64))) 0) s

/-- Read bytes at physical addresses of the present tile: each byte with its poison, after the checks of R138 and R141. -/
def State.readAt (s : State) (as : List Nat) : List (Byte × Bool) × State :=
  let (b, ev) := s.t.buf.touch as
  (as.map fun a => (b.byte a, b.poisoned a), (s.modBuf fun _ => b).rowEvents ev)

/-- The addresses of a run. -/
def run (a n : Nat) : List Nat := (upto n).map fun i => a + i

/-- Is any byte read poisoned? -/
def anyPoison (l : List (Byte × Bool)) : Bool := l.any fun x => x.2

/-- The little-endian value of bytes read. -/
def valueOf (l : List (Byte × Bool)) : Nat := ofBytes (l.map fun x => x.1)

/-! ### Writes -/

/-- The cells of a write that fall in one 64-bit word. -/
def cellsIn (w : Nat) (cells : List (Nat × Byte × Bool)) : List (Nat × Byte × Bool) := cells.filter fun c => c.1 / 8 == w

/-- Write into one word of A, W, C staging or the I-store (R139): a write of the whole word makes new check bits and clears
its poison, a narrower one keeps a poisoned or uncorrectable word poisoned, and poisoned bytes poison it. -/
def Buf.writeWord (b : Buf) (w : Nat) (cells : List (Nat × Byte × Bool)) : Buf :=
  let whole := (upto 8).all fun i => cells.any fun c => c.1 == 8 * w + i
  let b := if whole then b else b.touchWord w
  let b := { b with ecc := SMap.set Ecc.clean b.ecc w .clean }
  let p := cells.any (fun c => c.2.2) || (!whole && SMap.get false b.poison w)
  { b with
    mem := cells.foldl (fun (m : List (Nat × Byte)) (c : Nat × Byte × Bool) => SMap.set 0 m c.1 c.2.1) b.mem
    poison := SMap.set false b.poison w p
    ispar := SMap.set false b.ispar w (!whole && SMap.get false b.ispar w) }

/-- Write into one 32-bit word of a frame: the check and the parity follow (R141). Poisoned bytes poison the row; clean
writes that have covered all 64 words since then clear it. -/
def Buf.writeFrame (b : Buf) (a : Nat) (cells : List (Nat × Byte × Bool)) : Buf :=
  let r := frameRow a
  let n := a % 256 / 4
  let old := b.word32 a
  let b1 := { b with mem := cells.foldl (fun (m : List (Nat × Byte)) (c : Nat × Byte × Bool) => SMap.set 0 m c.1 c.2.1) b.mem }
  let new := b1.word32 a
  let x := b1.row r
  let dirty := cells.any fun c => c.2.2
  let whole := (upto 4).all fun i => cells.any fun c => c.1 == a + i
  let cleaned : BitVec 64 :=
    if dirty then 0 else if whole && x.poison then x.cleaned ||| ((1 : BitVec 64) <<< n) else x.cleaned
  let done := x.poison && cleaned == BitVec.allOnes 64
  b1.setRow r
    { chk := x.chk ^^^ old ^^^ new
      par := setBits n 1 x.par (BitVec.ofBool (parity32 new))
      poison := (x.poison || dirty) && !done
      cleaned := if done then 0 else cleaned }

/-- The frame words a list of addresses touches. -/
def frameWords (as : List Nat) : List Nat := dedup ((as.filter inFrames).map fun a => a / 4 * 4)

/-- The 64-bit words a list of addresses touches outside the frames. -/
def plainWords (as : List Nat) : List Nat := dedup ((as.filter fun a => !inFrames a).map fun a => a / 8)

/-- Write bytes at physical addresses, each with its poison; of two writes to one byte the later stands. -/
def Buf.write (b : Buf) (cells : List (Nat × Byte × Bool)) : Buf :=
  let as := cells.map fun c => c.1
  let b := (plainWords as).foldl (fun b w => b.writeWord w (cellsIn w cells)) b
  (frameWords as).foldl (fun b a => b.writeFrame a (cells.filter fun c => c.1 / 4 * 4 == a)) b

/-- The cells of a run of bytes. -/
def cellsOf (a : Nat) (d : List (Byte × Bool)) : List (Nat × Byte × Bool) :=
  (d.zip (upto d.length)).map fun (x, i) => (a + i, x.1, x.2)

/-- Clean bytes. -/
def clean (d : Bytes) : List (Byte × Bool) := d.map fun b => (b, false)

/-- Poison the words, or the rows, of the addresses (R120). -/
def Buf.poisonAll (b : Buf) (as : List Nat) : Buf :=
  (units as).foldl (fun b u =>
    if u < 2 ^ 40 then { b with poison := SMap.set false b.poison u true }
    else b.setRow (u - 2 ^ 40) { b.row (u - 2 ^ 40) with poison := true, cleaned := 0 }) b

/-! ### Waking and the store digest -/

/-- One term of the store digest (R441): tile index, logical side and word offset, byte mask, word, poison. -/
def digestTerm (i a m : Nat) (d : Word) (p : Bool) : Word :=
  let mask := (upto 8).foldl (fun acc k => if m / 2 ^ k % 2 = 1 then acc + 255 * 2 ^ (8 * k) else acc) 0
  let z : Word := BitVec.ofNat 64 (i * 2 ^ 31 + a * 2 ^ 9 + m * 2 + (if p then 1 else 0))
  let y := z * 0x9E3779B97F4A7C15#64 + (d &&& BitVec.ofNat 64 mask)
  let y := y ^^^ (y >>> 31)
  let y := y * 0xA3B195E51D4C7F2B#64
  let y := y ^^^ (y >>> 29)
  let y := y * 0x8CB92BA72F3D8DD7#64
  y ^^^ (y >>> 32)

/-- The logical place in a fill half of the byte at a physical A address, if it lies in one (R148, R441): in a pair, the
fill half is logical starboard, so the physical side that F does not name. -/
def fillPlace (ps : List Pair) (a : Nat) : Option Nat :=
  if a < 0x200000 then
    let o := a % 0x100000
    let side := decide (0x100000 ≤ a)
    match pairAt ps o with
    | none => none
    | some p => if (side != p.f) then some (0x100000 + o) else none
  else none

/-- Add the digest terms of a performed store of these cells (R441). -/
def State.digest (s : State) (cells : List (Nat × Byte × Bool)) : State :=
  let b := s.t.buf
  let idx := match s.region with
    | none => 0
    | some r => r.index s.here
  let term (w : Nat) : Word :=
    match fillPlace b.pairs (8 * w) with
    | none => 0
    | some a =>
      let m := (upto 8).foldl (fun acc k => if cells.any (fun c => c.1 == 8 * w + k) then acc + 2 ^ k else acc) 0
      digestTerm idx a m (BitVec.ofNat 64 (ofBytes (b.bytes (8 * w) 8))) (b.poisoned (8 * w))
  s.modSync fun y => { y with run := (plainWords (cells.map fun c => c.1)).foldl (fun acc w => acc + term w) y.run }

/-- Note a write into the fill half of each pair that the addresses reach (R149): one that is no whole command. -/
def Buf.noteFill (b : Buf) (as : List Nat) : Buf :=
  { b with
    pairs := b.pairs.map fun p =>
      if as.any (fun a => decide (a < 0x200000 ∧ p.off ≤ a % 0x100000 ∧ a % 0x100000 < p.off + p.size) && (decide (0x100000 ≤ a) != p.f))
      then { p with writes := p.writes + 1, only := none } else p }

/-- Write bytes of the present tile's buffers. -/
def State.writeAt (s : State) (cells : List (Nat × Byte × Bool)) : State :=
  s.modBuf fun b => (b.write cells).noteFill (cells.map fun c => c.1)

/-- A store that the digest of an open phase counts: lane ST writes, vector atomics, SM stores and atomics (R441). -/
def State.storeAt (s : State) (cells : List (Nat × Byte × Bool)) : State := (s.writeAt cells).digest cells

end Sys2Proof.Machine
end

