-- ==== Sys2Proof/Machine/Numeric.lean ====
section
/-!
DEFINITION. Number formats and rounding (06_number_formats.md): exact values, RoundMag, RoundToFloat, RoundToInt, HB4
blocks, the random sequence, and the long accumulator with its SCL images.
-/

namespace Sys2Proof

/-! ### Float formats (R155) -/

/-- The parameters of a float format: mantissa bits, exponent bits, bias. -/
structure FloatFmt where
  mant : Nat
  expo : Nat
  bias : Int
deriving DecidableEq, Repr

/-- The float formats of R155. Other formats read as FP32 and are never asked for. -/
def Fmt.float : Fmt → FloatFmt
  | .bf16 => ⟨7, 8, 127⟩
  | .f16 => ⟨10, 5, 15⟩
  | .e5m2 => ⟨2, 5, 15⟩
  | .e4m3 => ⟨3, 4, 7⟩
  | _ => ⟨23, 8, 127⟩

/-- The precision P, hidden bit included. -/
def FloatFmt.prec (f : FloatFmt) : Nat := f.mant + 1

/-- Emin: the exponent of the smallest normal. -/
def FloatFmt.emin (f : FloatFmt) : Int := 1 - f.bias

/-- E4M3 has no infinity (R155). -/
def Fmt.hasInf (f : Fmt) : Bool := f != .e4m3

/-- The largest finite value m * 2^e (R155). -/
def Fmt.maxFin (f : Fmt) : Nat × Int :=
  let p := f.float
  if f == .e4m3 then (14, 5) else (2 ^ p.prec - 1, p.bias - p.mant)

/-- The number of bits of a float format. -/
def FloatFmt.width (f : FloatFmt) : Nat := 1 + f.expo + f.mant

/-- The number of random bits of a destination (R171). -/
def Fmt.srBits : Fmt → Nat
  | .f32 => 24
  | .bf16 => 16
  | .f16 => 13
  | .e5m2 | .e4m3 | .i8 => 8
  | .i4 | .hb4 => 4
  | _ => 16

end Sys2Proof

namespace Sys2Proof.Machine

open Sys2Proof

/-! ### Exact values -/

/-- An exact value: a NaN or infinity with its sign, or (-1)^s * m * 2^e, where `more` says that the magnitude lies strictly
between m * 2^e and (m + 1) * 2^e (an irrational value enclosed finely enough to round it). -/
inductive Exact where
  | nan (s : Bool)
  | inf (s : Bool)
  | fin (s : Bool) (m : Nat) (e : Int) (more : Bool)
deriving DecidableEq, Repr

/-- The sign of a value. -/
def Exact.sign : Exact → Bool
  | .nan s | .inf s | .fin s _ _ _ => s

/-- Is the value a NaN? -/
def Exact.isNan : Exact → Bool
  | .nan _ => true
  | _ => false

/-- Is the value infinite? -/
def Exact.isInf : Exact → Bool
  | .inf _ => true
  | _ => false

/-- Is the value a zero? -/
def Exact.isZero : Exact → Bool
  | .fin _ 0 _ false => true
  | _ => false

/-- A zero of a sign. -/
def Exact.zero (s : Bool) : Exact := .fin s 0 0 false

/-- An integer. -/
def Exact.ofInt (i : Int) : Exact := .fin (decide (i < 0)) i.natAbs 0 false

/-- The value with its sign changed. -/
def Exact.neg : Exact → Exact
  | .nan s => .nan (!s)
  | .inf s => .inf (!s)
  | .fin s m e r => .fin (!s) m e r

/-- The signed integer m * 2^(e - f) for an exponent f at most e. -/
def Exact.scaled (s : Bool) (m : Nat) (e f : Int) : Int :=
  let v : Int := (m * 2 ^ (e - f).toNat : Nat)
  if s then -v else v

/-- The value a float code stands for (R155). -/
def ofFloat (f : Fmt) (x : Nat) : Exact :=
  let p := f.float
  let s := x / 2 ^ (p.expo + p.mant) % 2 == 1
  let e := x / 2 ^ p.mant % 2 ^ p.expo
  let m := x % 2 ^ p.mant
  let top := 2 ^ p.expo - 1
  if f == .e4m3 && e == top && m == 7 then .nan s
  else if f != .e4m3 && e == top then (if m == 0 then .inf s else .nan s)
  else if e == 0 then .fin s m (p.emin - p.mant) false
  else .fin s (2 ^ p.mant + m) ((e : Int) - p.bias - p.mant) false

/-- The canonical NaN of a format with a sign (R156). -/
def canonNan (f : Fmt) (s : Bool) : Nat :=
  let p := f.float
  let sg := if s then 2 ^ (p.expo + p.mant) else 0
  if f == .e4m3 || f == .e5m2 then sg + 0x7F
  else sg + (2 ^ p.expo - 1) * 2 ^ p.mant + 2 ^ (p.mant - 1)

/-- The infinity of a format. -/
def infCode (f : Fmt) (s : Bool) : Nat :=
  let p := f.float
  (if s then 2 ^ (p.expo + p.mant) else 0) + (2 ^ p.expo - 1) * 2 ^ p.mant

/-- The code of a magnitude y * 2^q that is a point of the format's grid within its range (R155). -/
def encodeMag (f : Fmt) (s : Bool) (y : Nat) (q : Int) : Nat :=
  let p := f.float
  let sg := if s then 2 ^ (p.expo + p.mant) else 0
  if y == 0 then sg
  else
    let ex : Int := q + (bitLen y : Int) - 1
    if ex < p.emin then sg + y * 2 ^ (q - (p.emin - p.mant)).toNat
    else
      let d := (bitLen y : Int) - p.prec
      let sig := if d ≤ 0 then y * 2 ^ (-d).toNat else y / 2 ^ d.toNat
      sg + (ex + p.bias).toNat * 2 ^ p.mant + (sig - 2 ^ p.mant)

/-! ### Rounding (R167-R171) -/

/-- Flags NV, DZ, OF, UF, NX as bits 4 to 0 (R175). -/
abbrev Flags := BitVec 5

/-- Invalid operation. -/
def fNV : Flags := 16
/-- Division by zero. -/
def fDZ : Flags := 8
/-- Overflow. -/
def fOF : Flags := 4
/-- Underflow. -/
def fUF : Flags := 2
/-- Inexact. -/
def fNX : Flags := 1

/-- RoundMag between the neighbours `lo` and `lo + 1` of a grid (R167): `r` of `d` parts above `lo`, and a little more when
`more`. The result says whether the higher neighbour is taken. -/
def roundUp (rm : RMode) (s : Bool) (even : Bool) (r d : Nat) (more : Bool) (rnd k : Nat) : Bool :=
  match rm with
  | .rtz | .dyn => false
  | .rdn => s
  | .rup => !s
  | .rne => if 2 * r < d then false else if 2 * r > d || more then true else !even
  | .sr => decide (r * 2 ^ k / d + rnd ≥ 2 ^ k)

/-- RoundMag onto the points y * 2^q of a fixed spacing: the multiple, and whether it differs from the value. -/
def roundAt (rm : RMode) (s : Bool) (m : Nat) (e q : Int) (more : Bool) (rnd k : Nat) : Nat × Bool :=
  if e ≥ q then (m * 2 ^ (e - q).toNat, more)
  else
    let d := 2 ^ (q - e).toNat
    let lo := m / d
    let r := m % d
    if r == 0 && !more then (lo, false)
    else if roundUp rm s (lo % 2 == 0) r d more rnd k then (lo + 1, true) else (lo, true)

/-- RoundToFloat (R168): the code and the flags. -/
def roundToFloat (x : Exact) (f : Fmt) (rm : RMode) (sat : Bool) (rnd : Nat) : Nat × Flags :=
  let p := f.float
  let (mm, me) := f.maxFin
  match x with
  | .nan s => (canonNan f s, 0)
  | .inf s =>
    if sat then (encodeMag f s mm me, 0) else if f.hasInf then (infCode f s, 0) else (canonNan f s, fNV)
  | .fin s m e more =>
    if m == 0 && !more then (encodeMag f s 0 0, 0)
    else
      let ex : Int := e + (bitLen m : Int) - 1
      let q : Int := max ex p.emin - p.mant
      let (y, nx) := roundAt rm s m e q more rnd f.srBits
      let fl : Flags := (if nx then fNX else 0) ||| (if nx && decide (ex < p.emin) then fUF else 0)
      let big := if q ≥ me then decide (y * 2 ^ (q - me).toNat > mm) else decide (y > mm * 2 ^ (me - q).toNat)
      if big then
        if sat || rm == .rtz || (rm == .rdn && !s) || (rm == .rup && s) then (encodeMag f s mm me, fl ||| fOF)
        else if f.hasInf then (infCode f s, fl ||| fOF) else (canonNan f s, fl ||| fOF)
      else (encodeMag f s y q, fl)

/-- Clamp an integer (R169). -/
def clamp (v lo hi : Int) : Int := if v < lo then lo else if v > hi then hi else v

/-- The range of an n-bit integer, signed or unsigned. -/
def intRange (n : Nat) (signed : Bool) : Int × Int :=
  if signed then (-(2 ^ (n - 1) : Nat), (2 ^ (n - 1) : Nat) - 1) else (0, (2 ^ n : Nat) - 1)

/-- The n-bit pattern of an integer. -/
def wrap (n : Nat) (v : Int) : Nat := (v % (2 ^ n : Nat)).toNat

/-- RoundToInt (R169): the pattern and the flags. INDEF has only bit n - 1 set. -/
def roundToInt (x : Exact) (n : Nat) (signed : Bool) (rm : RMode) (sat : Bool) (rnd k : Nat) : Nat × Flags :=
  let (lo, hi) := intRange n signed
  match x with
  | .nan _ => (if sat then 0 else 2 ^ (n - 1), fNV)
  | .inf s => (if sat then wrap n (if s then lo else hi) else 2 ^ (n - 1), fNV)
  | .fin s m e more =>
    let (y, nx) := roundAt rm s m e 0 more rnd k
    let v : Int := if s then -(y : Int) else y
    if v < lo || v > hi then (if sat then wrap n (clamp v lo hi) else 2 ^ (n - 1), fNV)
    else (wrap n v, if nx then fNX else 0)

/-! ### Exact arithmetic on values -/

/-- The exact sum of finite values at a common exponent; the sign of an exact zero follows R158. -/
def addFin (rm : RMode) (s1 : Bool) (m1 : Nat) (e1 : Int) (s2 : Bool) (m2 : Nat) (e2 : Int) : Exact :=
  let e := min e1 e2
  let v := Exact.scaled s1 m1 e1 e + Exact.scaled s2 m2 e2 e
  if v == 0 then .zero (if s1 == s2 then s1 else rm == .rdn)
  else .fin (decide (v < 0)) v.natAbs e false

/-- The exact sum (R225): `none` is an invalid operation. A NaN operand takes precedence, the first one named. -/
def Exact.add (rm : RMode) (a b : Exact) : Option Exact :=
  match a, b with
  | .nan s, _ => some (.nan s)
  | _, .nan s => some (.nan s)
  | .inf s, .inf s' => if s == s' then some (.inf s) else none
  | .inf s, _ => some (.inf s)
  | _, .inf s => some (.inf s)
  | .fin s1 m1 e1 _, .fin s2 m2 e2 _ => some (addFin rm s1 m1 e1 s2 m2 e2)

/-- The exact product: `none` is 0 times infinity. -/
def Exact.mul (a b : Exact) : Option Exact :=
  match a, b with
  | .nan s, _ => some (.nan s)
  | _, .nan s => some (.nan s)
  | .inf s, .inf s' => some (.inf (s != s'))
  | .inf s, .fin s' m _ _ => if m == 0 then none else some (.inf (s != s'))
  | .fin s m _ _, .inf s' => if m == 0 then none else some (.inf (s != s'))
  | .fin s1 m1 e1 _, .fin s2 m2 e2 _ => some (.fin (s1 != s2) (m1 * m2) (e1 + e2) false)

/-- Compare finite or infinite values: below, equal, above. Zeros are equal whatever their signs. -/
def Exact.cmp (a b : Exact) : Ordering :=
  match a, b with
  | .inf s, .inf s' => if s == s' then .eq else if s then .lt else .gt
  | .inf s, _ => if s then .lt else .gt
  | _, .inf s => if s then .gt else .lt
  | .fin s1 m1 e1 _, .fin s2 m2 e2 _ =>
    let e := min e1 e2
    compare (Exact.scaled s1 m1 e1 e) (Exact.scaled s2 m2 e2 e)
  | _, _ => .eq

/-! ### HB4 blocks (R162-R166) -/

/-- The magnitude of a code of a type as m * 2^e, with its sign (R163). -/
def hb4Code (t c : Nat) : Bool × Nat × Int :=
  match t with
  | 0 => if c < 8 then (false, c, 0) else (true, 16 - c, 0)
  | 1 =>
    let k := c % 8
    (decide (8 ≤ c), [0, 1, 2, 3, 4, 6, 8, 12].getD k 0, -1)
  | 2 =>
    let k := c % 8
    (decide (8 ≤ c), if k == 0 then 0 else 1, (k : Int) - 7)
  | _ =>
    let k := c % 8
    (decide (8 ≤ c), [0, 1, 2, 3, 4, 6, 8, 12].getD k 0, 0)

/-- An element of an HB4 block: the code under the scale byte (R162, R164). -/
def hb4Elem (scale c : Nat) : Exact :=
  if scale % 64 == 63 then .nan false
  else
    let (s, m, e) := hb4Code (scale / 64) c
    .fin s m (e + (scale % 64 : Nat) - 31) false

/-- Code `i` of packed code bytes (R160). -/
def packedCode (codes : Nat) (i : Nat) : Nat := codes / 2 ^ (4 * i) % 16

/-- The grid magnitudes of a type and sign, in units of 2^u, smallest first, the further point XMAG last; each with the
lowest bit of its code (R165, R167). -/
def hb4Grid (t : Nat) (s : Bool) : List (Nat × Bool) × Int :=
  match t with
  | 0 =>
    if s then ((upto 10).map fun c => (c, c % 2 == 1), 0)
    else ((upto 9).map fun c => (c, c % 2 == 1), 0)
  | 1 => ([(0, false), (1, true), (2, false), (3, true), (4, false), (6, true), (8, false), (12, true), (16, false)], -1)
  | 2 => ([(0, false), (1, true), (2, false), (4, true), (8, false), (16, true), (32, false), (64, true), (128, false)], -6)
  | _ => ([(0, false), (1, true), (2, false), (3, true), (4, false), (6, true), (8, false), (12, true), (16, false)], 0)

/-- RoundMag onto a listed grid in units of 2^u: the value is m * 2^e, at or below the last point. -/
def roundGrid (g : List (Nat × Bool)) (u : Int) (m : Nat) (e : Int) (s : Bool) (rm : RMode) (rnd k : Nat) : Nat × Bool :=
  let f := min e u
  let v := m * 2 ^ (e - f).toNat
  let unit := 2 ^ (u - f).toNat
  match g.find? (fun p => p.1 * unit == v) with
  | some p => (p.1, false)
  | none =>
    let lo := ((g.filter fun p => decide (p.1 * unit < v)).getLastD (0, false))
    let hi := ((g.filter fun p => decide (p.1 * unit > v)).headD (0, false))
    if roundUp rm s (!lo.2) (v - lo.1 * unit) ((hi.1 - lo.1) * unit) false rnd k then (hi.1, true) else (lo.1, true)

/-- The largest magnitude of a type as m * 2^e (R163). -/
def hb4Max (t : Nat) : Nat × Int :=
  match t with
  | 0 => (7, 0)
  | 1 => (6, 0)
  | 2 => (1, 0)
  | _ => (12, 0)

/-- Is |x| at most m * 2^e? Infinity is above every finite value. -/
def Exact.leMag (x : Exact) (m : Nat) (e : Int) : Bool :=
  match x with
  | .fin _ xm xe _ =>
    let f := min xe e
    decide (xm * 2 ^ (xe - f).toNat ≤ m * 2 ^ (e - f).toNat)
  | _ => false

/-- The scale exponent field of a block (R165): the smallest e in 0-62 that holds every magnitude, else 62. -/
def hb4Scale (t : Nat) (xs : List Exact) : Nat :=
  let (m, _) := hb4Max t
  ((upto 63).find? fun (e : Nat) => xs.all fun x => x.leMag m (Int.ofNat e - 31)).getD 62

/-- The code of a type with a grid magnitude (in units of its grid) and a sign (R165). -/
def hb4Encode (t : Nat) (s : Bool) (y : Nat) : Nat :=
  match t with
  | 0 => if s then (16 - y) % 16 else y
  | _ =>
    let g := (hb4Grid t s).1
    let k := ((findIdx (fun p => p.1 == y) g 0).map fun r => r.1).getD 0
    if s then 8 + k else k

/-- One value of a block against a given scale (R165): the code and its flags. -/
def hb4Quant1 (t e : Nat) (x : Exact) (rm : RMode) (rnd : Nat) : Nat × Flags :=
  let s := x.sign
  let (g, u) := hb4Grid t s
  let top := (g.getLastD (0, false)).1
  let lmag := ((g.dropLast).getLastD (0, false)).1
  match x with
  | .fin _ m ex _ =>
    let ex' := ex - ((e : Int) - 31)
    let f := min ex' u
    if m * 2 ^ (ex' - f).toNat > top * 2 ^ (u - f).toNat then (hb4Encode t s lmag, fOF ||| fNX)
    else
      let (y, nx) := roundGrid g u m ex' s rm rnd 4
      if y == top then (hb4Encode t s lmag, fOF ||| fNX)
      else (hb4Encode t s y, if nx then fNX else 0)
  | _ => (hb4Encode t s lmag, fOF ||| fNX)

/-- HB4Quant (R165): 32 codes, the scale byte, and the flags of each element. `rnd i` are the random bits of code i. -/
def hb4Quant (xs : List Exact) (t : Nat) (rm : RMode) (rnd : Nat → Nat) : List Nat × Nat × List Flags :=
  if xs.any Exact.isNan then (xs.map fun _ => 0, 0x3F, xs.map fun _ => 0)
  else
    let e := hb4Scale t xs
    let r := (xs.zip (upto xs.length)).map fun (x, i) => hb4Quant1 t e x rm (rnd i)
    (r.map fun p => p.1, 64 * t + e, r.map fun p => p.2)

/-- The 32 elements of an HB4 block. -/
def hb4Block (codes scale : Nat) : List Exact := (upto 32).map fun i => hb4Elem scale (packedCode codes i)

/-- Pack codes, code 0 lowest. -/
def packCodes : List Nat → Nat
  | [] => 0
  | c :: r => c % 16 + 16 * packCodes r

/-- OCP MXFP4 to HB4 (R166): codes, scale byte, flags. Below the scales of HB4 a code that is rounded under 1 underflows (R155, R168). -/
def mxToHb4 (codes x : Nat) (rm : RMode) (rnd : Nat → Nat) : Nat × Nat × Flags :=
  if x == 0xFF then (0, 0x3F, 0)
  else if 96 ≤ x && x ≤ 158 then (codes, 64 + (x - 96), 0)
  else
    let vals := (upto 32).map fun i =>
      let (s, m, e) := hb4Code 1 (packedCode codes i)
      Exact.fin s m (e + (x : Int) - 127) false
    let e := if x < 96 then 0 else 62
    let r := (vals.zip (upto 32)).map fun (v, i) => hb4Quant1 1 e v rm (rnd i)
    let uf := (vals.zip r).any fun (v, p) => p.2.getLsbD 0 && x < 96 && v.leMag 1 (-31)
    (packCodes (r.map fun p => p.1), 64 + e,
      (r.foldl (fun acc p => acc ||| p.2) 0) ||| (if uf then fUF else 0))

/-- HB4 to OCP MXFP4 (R166): codes, E8M0 scale byte, flags. -/
def hb4ToMx (codes scale : Nat) (rm : RMode) (rnd : Nat → Nat) : Nat × Nat × Flags :=
  if scale % 64 == 63 then (0, 0xFF, 0)
  else if scale / 64 == 1 then (codes, scale % 64 + 96, 0)
  else
    let (cs, sc, fl) := hb4Quant (hb4Block codes scale) 1 rm rnd
    (packCodes cs, sc % 64 + 96, fl.foldl (fun acc p => acc ||| p) 0)

/-! ### Random numbers (R171-R173) -/

/-- One 32-bit word of a random entry (R173). -/
def randWord (seed n : Word) (j : Nat) : BitVec 32 :=
  let z := seed + (32 * n + BitVec.ofNat 64 j) * 0x9E3779B97F4A7C15#64
  let z := z ^^^ (z >>> 31)
  let z := z * 0xA3B195E51D4C7F2B#64
  let z := z ^^^ (z >>> 29)
  let z := z * 0x8CB92BA72F3D8DD7#64
  let z := z ^^^ (z >>> 32)
  bits 32 32 z

/-- RandEntry (R173). -/
def randEntry (seed n : Word) : BitVec 1024 := joinElems 32 32 1024 (randWord seed n)

/-- The k random bits at a bit position of an entry (R172). -/
def rndAt (pop : BitVec 1024) (pos k : Nat) : Nat := pop.toNat / 2 ^ pos % 2 ^ k

/-! ### The long accumulator and SCL (R178-R183) -/

/-- A long accumulator: the 320-bit value and the flags NAN, PINF, MINF (R178). -/
structure La where
  v : BitVec 320
  nan : Bool
  pinf : Bool
  minf : Bool
deriving DecidableEq, Repr

/-- The empty accumulator. -/
def La.zero : La := ⟨0, false, false, false⟩

/-- LAOf (R178). -/
def laOf : Exact → La
  | .nan _ => ⟨0, true, false, false⟩
  | .inf s => ⟨0, false, !s, s⟩
  | .fin s m e _ =>
    let k := e + 160
    let v : Nat := if k ≥ 0 then m * 2 ^ k.toNat else m / 2 ^ (-k).toNat
    ⟨BitVec.ofInt 320 (if s then -(v : Int) else v), false, false, false⟩

/-- LAAdd (R178, R179). -/
def La.add (a b : La) : La := ⟨a.v + b.v, a.nan || b.nan, a.pinf || b.pinf, a.minf || b.minf⟩

/-- The value of a long accumulator without infinities. -/
def La.num (a : La) : Exact :=
  let i := a.v.toInt
  .fin (decide (i < 0)) i.natAbs (-160) false

/-- LARound (R180). -/
def laRound (a : La) (f : Fmt) (rm : RMode) (sat : Bool) (rnd : Nat) : Nat × Flags :=
  if a.nan then (canonNan f false, 0)
  else if a.pinf && a.minf then (canonNan f false, fNV)
  else if a.pinf then roundToFloat (.inf false) f rm sat rnd
  else if a.minf then roundToFloat (.inf true) f rm sat rnd
  else roundToFloat a.num f rm sat rnd

/-- Word i of an accumulator (R181). -/
def La.word (a : La) (i : Nat) : BitVec 32 := bits (32 * i) 32 a.v

/-- The canonical SCL image of an accumulator (R181, R182). -/
def sclEncode (a : La) : BitVec 512 :=
  let s := a.v.getLsbD 319
  let fill : BitVec 32 := if s then 0xFFFFFFFF else 0
  let f := ((upto 10).find? fun i => a.word i != 0).getD 0
  let h := max f ((((upto 10).filter fun i => a.word i != fill).getLast?).getD f)
  let n := h - f + 1
  let hdr : Nat := (if s then 32768 else 0) + f * 2048 + n * 128
  let comp : Nat := (if a.minf then 4 else 0) + (if a.pinf then 2 else 0) + (if a.nan then 1 else 0)
  BitVec.ofNat 512 (hdr + 65536 * comp +
    (upto n).foldl (fun acc i => acc + (a.word (f + i)).toNat * 2 ^ (32 + 32 * i)) 0)

/-- Reading an SCL image (R181, R183): the accumulator, and whether the image is malformed. -/
def sclRead (x : BitVec 512) : La × Bool :=
  let v := x.toNat
  let n := nbits 7 4 v
  let f := nbits 11 4 v
  let s := nbits 15 1 v == 1
  let comp := nbits 16 16 v
  if nbits 0 7 v != 0 || n == 0 || f + n > 10 || comp / 8 != 0 then (⟨0, true, false, false⟩, true)
  else
    let words := (upto 10).map fun i =>
      if i < f then 0 else if i < f + n then nbits (32 + 32 * (i - f)) 32 v else if s then 0xFFFFFFFF else 0
    let la := (words.zip (upto 10)).foldl (fun acc (w, i) => acc + w * 2 ^ (32 * i)) 0
    (⟨BitVec.ofNat 320 la, comp % 2 == 1, comp / 2 % 2 == 1, comp / 4 % 2 == 1⟩, false)

/-- Reading an SCL image that may be poisoned (R183). DEDUCED (notes/assumptions/134.md): a poisoned image brings no value, so that
nothing is added for it, and it is not judged malformed. -/
def sclIf (poisoned : Bool) (x : BitVec 512) : La × Bool := if poisoned then (La.zero, false) else sclRead x

end Sys2Proof.Machine
end

