-- ==== Sys2Proof/Machine/MxCore.lean ====
section
/-!
DEFINITION. The arithmetic of the matrix array (09_matrix.md R240-R254, R270, R271): cell sums, column totals, the
completion of rows in flight and flush beats.
-/

namespace Sys2Proof.Machine

open Sys2Proof

/-! ### Planes -/

/-- Key of a cell of a plane (R240). -/
def cellKey (p : Bool) (l n : Nat) : Nat := (if p then 8192 else 0) + 64 * l + n

/-- Key of a scale byte: rows 8h to 8h + 7 of a plane, column n (R253). -/
def scaleKey (p : Bool) (h n : Nat) : Nat := (if p then 1024 else 0) + 64 * h + n

/-- Key of a group of scale bytes of a plane (R253). -/
def groupKey (p : Bool) (h : Nat) : Nat := (if p then 16 else 0) + h

/-- Key of a plane row's poison mark and descriptor (R254, R272). -/
def planeKey (p : Bool) (l : Nat) : Nat := (if p then 128 else 0) + l

/-- A cell word of a plane. -/
def Mx.cell (m : Mx) (p : Bool) (l n : Nat) : BitVec 16 := SMap.get 0 m.cells (cellKey p l n)

/-- The scale byte of a plane row and column (R253). -/
def Mx.scale (m : Mx) (p : Bool) (l n : Nat) : Byte := SMap.get 0 m.scales (scaleKey p (l / 8) n)

/-- The number of rows of a plane: 128 logical rows in sparse mode (R240, R249). -/
def Mx.rowsOf (m : Mx) : Nat := if m.spm == 0 then 64 else 128

/-- The plane row that cell row k multiplies by (R250); `ix` is the metadata register (R249). -/
def Mx.lrow (m : Mx) (ix : Nat) (k : Nat) : Nat :=
  if m.spm == 0 then k
  else
    let b := m.spm.toNat + 1
    2 ^ b * (k / 2 ^ (b - 1)) + nbits (b * k) b ix

/-- Elements of a cell word (R240): `sc` is the scale byte of HB4. -/
def cellElems (f : Fmt) (w : BitVec 16) (sc : Nat) : List Exact :=
  match f with
  | .i8 => [.ofInt (bits 0 8 w).toInt, .ofInt (bits 8 8 w).toInt]
  | .e4m3 | .e5m2 => [ofFloat f (nbits 0 8 w.toNat), ofFloat f (nbits 8 8 w.toNat)]
  | .hb4 => (upto 4).map fun j => hb4Elem sc (nbits (4 * j) 4 w.toNat)
  | _ => [ofFloat f w.toNat]

/-- What CellSum has gathered: the exact sum of finite products, the infinities, and a product that ends it. -/
structure CellAcc where
  sum : Exact
  pinf : Bool
  minf : Bool
  done : Option (Exact × Flags)
deriving DecidableEq, Repr

/-- The product of one multiplier, with the flag it raises (R242). -/
def cellProd (xy : Exact × Exact) : Exact × Flags :=
  if xy.1.isNan || xy.2.isNan then (.nan false, 0)
  else match xy.1.mul xy.2 with
    | none => (.nan false, fNV)
    | some v => (v, 0)

/-- One product enters CellSum (R242). -/
def cellStep (c : CellAcc) (p : Exact × Flags) : CellAcc :=
  if c.done.isSome then c
  else match p.1 with
    | .nan _ => { c with done := some p }
    | .inf true => { c with minf := true }
    | .inf false => { c with pinf := true }
    | v => { c with sum := (c.sum.add .rne v).getD c.sum }

/-- CellSum of the products of one cell (R242). -/
def cellSum (ps : List (Exact × Flags)) : Exact × Flags :=
  let c := ps.foldl cellStep { sum := .zero false, pinf := false, minf := false, done := none }
  match c.done with
  | some r => r
  | none =>
    if c.pinf && c.minf then (.nan false, fNV)
    else if c.pinf then (.inf false, 0)
    else if c.minf then (.inf true, 0)
    else if c.sum.isZero then (.zero false, 0) else (c.sum, 0)

/-- Are two products the same, bit for bit (R270)? -/
def sameProd (x y : Exact × Flags) : Bool :=
  x.2 == y.2 && (if x.1.isNan || y.1.isNan then x.1.isNan && y.1.isNan else x.1.cmp y.1 == .eq && x.1.sign == y.1.sign)

/-- MAdd: one FP32 addition of the array (R247). -/
def mAdd (sat : Bool) (x : Nat) (y : Exact) : Nat × Flags :=
  match (ofFloat .f32 x).add .rne y with
  | none => (0x7FC00000, fNV)
  | some (.nan _) => (0x7FC00000, 0)
  | some v => roundToFloat v .f32 .rne sat 0

/-- The value of a sum as an integer (exact sums of INT8 products). -/
def Exact.toInt : Exact → Int
  | .fin s m e _ => Exact.scaled s m e 0
  | _ => 0

/-- One accumulation into a frame element (R247, R248). -/
def frameAdd (int8 sat : Bool) (f : Nat) (tot : Nat) : Nat × Flags :=
  if int8 then
    let v := (BitVec.ofNat 32 f).toInt + (BitVec.ofNat 32 tot).toInt
    (wrap 32 (if sat then clamp v (-2147483648) 2147483647 else v), 0)
  else mAdd sat f (ofFloat .f32 tot)

/-- A product of a defective cell: a free value, one for each use. -/
def defectProd (int8 : Bool) (free : Nat) : Exact × Flags :=
  let w := Config.freeWord free
  (if int8 then .ofInt (bits 0 16 w).toInt else ofFloat .f32 (bits 0 32 w).toNat, 0)

/-- The products of A cell words with a cell word of plane row l and column n (R242, R253). -/
def Mx.prodsOf (m : Mx) (a : List Exact) (w : BitVec 16) (l n : Nat) : List (Exact × Flags) :=
  (a.zip (cellElems m.bf w (m.scale m.active l n).toNat)).map cellProd

/-- The products of cell row k and column n at a push (R242, R250): those of a defective cell are free. -/
def Mx.products (m : Mx) (a : List (List Exact)) (ix free k n : Nat) : List (Exact × Flags) :=
  let l := m.lrow ix k
  let ps := m.prodsOf (a.getD k []) (m.cell m.active l n) l n
  if SMap.get 0 m.broken (64 * k + n) != 0 then
    (upto ps.length).map fun j => defectProd (m.af == .i8) (free + 4 * (64 * k + n) + j)
  else ps

/-- The cell sum of cell row k and column n of a push (R242, R250, R253). -/
def Mx.sumAt (m : Mx) (a : List (List Exact)) (ix free k n : Nat) : Exact × Flags := cellSum (m.products a ix free k n)

/-- The column total of a push (R247): rows from top to bottom. -/
def Mx.column (m : Mx) (a : List (List Exact)) (ix free n : Nat) : Nat × Flags :=
  if m.af == .i8 then (wrap 32 ((upto 64).foldl (fun t k => t + (m.sumAt a ix free k n).1.toInt) 0), 0)
  else
    (upto 64).foldl (fun (p, fl) k =>
      let (cs, f1) := m.sumAt a ix free k n
      let (p, f2) := mAdd m.sat p cs
      (p, fl ||| f1 ||| f2)) (0, 0)

/-- The A row of a push: 64 cell words, and in HB4 the scale byte of each of the eight blocks (R240, R242). -/
def rowElems (f : Fmt) (a : BitVec 1024) (scales : List Nat) : List (List Exact) :=
  (upto 64).map fun k => cellElems f (bits (16 * k) 16 a) (scales.getD (k / 8) 0)

/-- Every column total of a push, and the flags (R247). -/
def Mx.totals (m : Mx) (a : BitVec 1024) (scales : List Nat) (ix free : Nat) : BitVec 2048 × Flags :=
  let rows := rowElems m.af a scales
  (upto 64).foldl (fun (t, fl) n =>
    let (v, f) := m.column rows ix free n
    (t ||| ((BitVec.ofNat 32 v).setWidth 2048 <<< (32 * n)), fl ||| f)) (0, 0)

/-- Does a push go through a poisoned plane row, or in HB4 through scale bytes that were read poisoned (R254; 06_number_formats.md R164)? -/
def Mx.throughPoison (m : Mx) (ix : Nat) : Bool :=
  (upto 64).any fun k =>
    let l := m.lrow ix k
    SMap.get false m.pmarks (planeKey m.active l) || (m.bf == .hb4 && SMap.get false m.smarks (groupKey m.active (l / 8)))

/-- The products the spare row computes in column n (R270): from the A cell word, the selection and the scales of row CK. -/
def Mx.spareProds (m : Mx) (a : List (List Exact)) (ix n : Nat) : List (Exact × Flags) :=
  let k := m.sr.ck.toNat
  let l := m.lrow ix k
  m.prodsOf (a.getD k []) (SMap.get 0 m.spare (64 * l + n)) l n

/-- The columns in which the spare row's products differ from those of row CK at a push (R270, R271). -/
def Mx.mismatches (m : Mx) (a : List (List Exact)) (ix free : Nat) : List Nat :=
  (upto 64).filter fun n => !((m.products a ix free m.sr.ck.toNat n).zip (m.spareProds a ix n)).all fun p => sameProd p.1 p.2

/-- What the spare row takes at MFLIP (R270): row CK of the active plane, or in sparse mode the logical rows of CK's group. -/
def Mx.mirror (m : Mx) : Mx :=
  let k := m.sr.ck.toNat
  let b := m.spm.toNat
  let ls := if m.spm == 0 then [k] else (upto (2 ^ (b + 1))).map fun i => 2 ^ (b + 1) * (k / 2 ^ b) + i
  { m with spare := ls.foldl (fun c l => loopN (fun n c => SMap.set 0 c (64 * l + n) (m.cell m.active l n)) 64 c) [] }

/-! ### Completion and flush (R243, R245) -/

/-- OR arithmetic flags into MXSR (R269). -/
def Mxsr.raise (x : Mxsr) (f : Flags) : Mxsr :=
  { x with
    nv := x.nv || f.getLsbD 4, ovf := x.ovf || f.getLsbD 2, unf := x.unf || f.getLsbD 1, nx := x.nx || f.getLsbD 0 }

/-- Physical address of element 0 of a frame row. -/
def frameAddr (fr : BitVec 2) (row : BitVec 6) : Nat := 0x300000 + 256 * (64 * fr.toNat + row.toNat)

/-- Store the 64 words of a frame row: the check and the parity follow (R141); of a row that is poisoned, `cleaned` are the words that
have been written clean since the bit was last set. -/
def Buf.storeRow (b : Buf) (r : Nat) (v : BitVec 2048) (poison : Bool) (cleaned : BitVec 64) : Buf :=
  let a := 0x300000 + 256 * r
  let b := (upto 64).foldl (fun b n => b.poke32 (a + 4 * n) (bits (32 * n) 32 v)) b
  let par : BitVec 64 := joinElems 1 64 64 fun n => BitVec.ofBool (parity32 (bits (32 * n) 32 v))
  b.setRow r
    { chk := (upto 64).foldl (fun acc n => acc ^^^ bits (32 * n) 32 v) 0, par := par, poison := poison
      cleaned := if poison then cleaned else 0 }

/-- The 2048 bits of a frame row. -/
def Buf.rowData (b : Buf) (r : Nat) : BitVec 2048 := joinElems 32 64 2048 fun n => b.word32 (0x300000 + 256 * r + 4 * n)

/-- A row in flight completes: its totals go into its frame row through the accumulate port (R243, R247, R248). A poisoned push sets the
row's poison anew (R254). -/
def State.completeRow (s : State) (x : MxRow) : State :=
  let m := s.t.mx
  let r := 64 * x.frame.toNat + x.row.toNat
  let (b, ev) := if x.fresh then (s.t.buf, false) else s.t.buf.touchRow r
  let old := b.rowData r
  let (v, fl) :=
    if x.fresh then (x.totals, (0 : Flags))
    else
      (upto 64).foldl (fun (t, fl) n =>
        let (e, f) := frameAdd (m.af == .i8) m.sat (bits (32 * n) 32 old).toNat (bits (32 * n) 32 x.totals).toNat
        (t ||| ((BitVec.ofNat 32 e).setWidth 2048 <<< (32 * n)), fl ||| f)) ((0 : BitVec 2048), (0 : Flags))
  let p := x.poison || (b.row r).poison
  ((s.modBuf fun _ => b.storeRow r v p (if x.poison then 0 else (b.row r).cleaned)).modMx fun m => { m with sr := m.sr.raise (x.flags ||| fl) }).rowEvents
    (if ev then [r] else [])

/-- One advancing beat, the push of the same beat not included: the oldest row completes at its 64th (R243). In a bundle its accumulation
stands at the end of the cycle, so that every read of the cycle sees the row before it, and every write is performed before it
(05_tile_buffers.md R134). -/
def State.advance (s : State) : State :=
  let rows := s.t.mx.rows.map fun x => { x with age := x.age + 1 }
  let out := rows.filter fun x => decide (64 ≤ x.age)
  let s := s.modMx fun m => { m with rows := rows.filter (fun x => decide (x.age < 64)), beatNow := true }
  if s.bun.active then s.modMx fun m => { m with done := m.done ++ out } else out.foldl State.completeRow s

/-- The accumulations of the cycle's beat are made (R243; 05_tile_buffers.md R134). -/
def State.accumulate (s : State) : State :=
  let rows := s.t.mx.done
  rows.foldl State.completeRow (s.modMx fun m => { m with done := [] })

/-- Flush beats: every row in flight completes, in push order (R245). -/
def State.flush (s : State) : State :=
  let s := s.accumulate
  let rows := s.t.mx.rows
  rows.foldl State.completeRow (s.modMx fun m => { m with rows := [] })

end Sys2Proof.Machine
end

