-- ==== Sys2Proof/Machine/Ops.lean ====
section
/-!
DEFINITION. The named operations over the registers, semaphores, lanes and traps of a tile: reads that interlock, raising a
fault, taking an exception (17_faults_repair.md R469), escalation (R471, R474, R475) and the return (R470).
-/

namespace Sys2Proof.Machine

open Sys2Proof

/-! ### Scalar registers (13_control_slice.md R356, 02_bundles.md R31, R34) -/

/-- The registers a tile's next bundle would read. -/
def State.preRegs (s : State) : PreRegs :=
  { x := s.t.ctl.x, ramos := s.t.fab.ramos, foul := s.t.ctl.xbad ||| s.t.ctl.xpois }

/-- The registers as the bundle at issue reads them (R31). -/
def State.pre (s : State) : PreRegs := s.bun.xs.getD s.preRegs

/-- The value a slot reads from xN: as it stood before the bundle issued; x0 reads zero (R31, R356). -/
def State.x (s : State) (r : XReg) : Word :=
  if r == 0 then 0 else SMap.get 0 s.pre.x r.toNat

/-- The RAMO whose return register r still awaits (10_fabric.md R301). -/
def State.ramoOn (s : State) (r : XReg) : Option RamoOut :=
  if r == 0 then none else s.pre.ramos.find? fun o => o.xd == r && o.resp.isNone && !o.held

/-- Is the register's value poisoned or its parity wrong (10_fabric.md R301, 17_faults_repair.md R478)? -/
def State.xFoul (s : State) (r : XReg) : Bool :=
  r != 0 && s.pre.foul.getLsbD r.toNat

/-- Write a scalar register; x0 discards (R34). The write clears the register's marks and detaches a RAMO that would
still return into it. -/
def State.setX (s : State) (r : XReg) (v : Word) : State :=
  if r == 0 then s
  else
    (s.modCtl fun c =>
      { c with
        x := SMap.set 0 c.x r.toNat v
        xbad := setBits r.toNat 1 c.xbad 0
        xpois := setBits r.toNat 1 c.xpois 0 }).modFab fun f =>
      { f with ramos := f.ramos.map fun o => if o.xd == r && !o.held then { o with xd := 0 } else o }

/-! ### Events in the control slice -/

/-- The region traps a code of the Winch (04_winch.md R113, 03_far_memory.md R85). -/
def Region.trapsCode (r : Region) (code : Byte) : Bool :=
  (r.wft && decide (0x40 ≤ code.toNat ∧ code.toNat ≤ 0x58)) || (r.fft && decide (0x50 ≤ code.toNat ∧ code.toNat ≤ 0x58))

/-- Fetch visibility of the bank of an address (R373). -/
def State.fv (s : State) (a : BitVec 16) : Bool := if a.getLsbD 15 then s.t.ctl.fv1 else s.t.ctl.fv0

/-- Apply every pending WSHP write (04_winch.md R101), in issue order. -/
def State.applyShapes (s : State) : State :=
  let ws := s.t.ctl.wshp
  (s.modWinch fun w =>
    { w with sh := ws.foldl (fun m p => SMap.set 0 m (8 * p.sh.toNat + p.fld.toNat) p.val) w.sh }).modCtl
    fun c => { c with wshp := [] }

/-- A shape-register field as WN instructions see it now. -/
def State.shape (s : State) (sh : BitVec 3) (fld : Nat) : Word := SMap.get 0 s.t.winch.sh (8 * sh.toNat + fld)

/-! ### Semaphores (15_sync_time_phases.md R422-R424) -/

/-- The value of a semaphore. -/
def State.sem (s : State) (n : Byte) : BitVec 16 := SMap.get 0 s.t.sync.sem n.toNat

/-- Replace a semaphore. -/
def State.setSem (s : State) (n : Byte) (v : BitVec 16) : State :=
  s.modSync fun y => { y with sem := SMap.set 0 y.sem n.toNat v }

/-- Saturating sum of a 16-bit count and an increment (R422). -/
def satSem (v : BitVec 16) (inc : Nat) : BitVec 16 := BitVec.ofNat 16 (min (v.toNat + inc) 0xFFFF)

/-- Add to a semaphore (R422): a clamp sets SEMST.OV and raises event 0x10. `shadow` marks FSENDS arrivals and SIG packets,
which also move the shadow of an open phase (R433). -/
def State.semAdd (s : State) (n : Byte) (inc : Nat) (shadow : Bool) : State :=
  let v := s.sem n
  let s := s.setSem n (satSem v inc)
  let s := if shadow && s.t.sync.inph then
      s.modSync fun y => { y with shadow := SMap.set 0 y.shadow n.toNat (satSem (SMap.get 0 y.shadow n.toNat) inc) }
    else s
  if v.toNat + inc > 0xFFFF then
    (s.modSync fun y => { y with ov := true, ovSem := n }).tileEvent 0x10 (n.setWidth 64) 0
  else s

/-- An escaping effect inside a phase sets ESC (R434). -/
def State.escape (s : State) : State := s.modSync fun y => { y with esc := y.esc || y.inph }

/-! ### Barriers (11_exact_reduction.md R329-R331) -/

/-- A barrier with nothing in it. -/
def Barrier.zero : Barrier := { ent := 0, pend := 0, done := 0, kids := [], sent := 0 }

/-- The barrier of a number. -/
def State.bar (s : State) (nb : BitVec 7) : Barrier := SMap.get Barrier.zero s.t.red.bars nb.toNat

/-- Replace a barrier. -/
def State.setBar (s : State) (nb : BitVec 7) (b : Barrier) : State :=
  s.modRed fun r => { r with bars := SMap.set Barrier.zero r.bars nb.toNat b }

/-- V of an entry. -/
def Barrier.valid (b : Barrier) : Bool := b.ent.getLsbD 31

/-- COUNT of an entry. -/
def Barrier.count (b : Barrier) : Nat := (bits 8 16 b.ent).toNat

/-- Why a local arrival is refused: 0xAA with no entry or COUNT = 0, 0xA9 beyond two episodes (R331). -/
def State.arriveFault (s : State) (nb : BitVec 7) : Option Byte :=
  let b := s.bar nb
  if !b.valid || b.count == 0 then some 0xAA else if b.pend + 1 > 2 * b.count then some 0xA9 else none

/-- One local arrival (R330). The switch then reports and releases what it completes. -/
def State.arriveAt (s : State) (nb : BitVec 7) : State :=
  let b := s.bar nb
  (s.setBar nb { b with pend := b.pend + 1 }).auto .barrier

/-! ### Lane registers and landings (07_streams_registers.md R192-R195, 08_vector.md R211-R215) -/

/-- Physical vector register of a name (R193). -/
def physV (rb k : Nat) : Nat := if k < 16 then k else 16 + (k - 16 + rb) % 80

/-- Physical predicate register of a name (R193). -/
def physP (rb k : Nat) : Nat := if k < 8 then k else 8 + (k - 8 + rb) % 8

/-- Is a vector register name live (R193)? -/
def liveName (depth k : Nat) : Bool := decide (k < 16 + depth)

/-- Is a physical vector register live (R194)? -/
def livePhys (rb depth f : Nat) : Bool := decide (f < 16 ∨ (f - 16 + 80 - rb % 80) % 80 < depth)

/-- Discard the contents and marks of every register that RB and L now make dead (R194). -/
def Lane.kill (l : Lane) (rb depth : Nat) : Lane :=
  { l with
    v := l.v.filter fun e => livePhys rb depth e.1
    vmark := l.vmark.filter fun e => livePhys rb depth e.1
    vbad := l.vbad.filter fun e => livePhys rb depth e.1 }

/-- Set RB and L, with the deaths of R194. -/
def State.rotate (s : State) (rb depth : Nat) : State :=
  (s.modCtl fun c => { c with rb := rb, depth := depth }).modLane fun l => l.kill rb depth

/-- The mask of one lane group. -/
def groupMask (g : Nat) : BitVec 1024 := (BitVec.allOnes 256).setWidth 1024 <<< (256 * g)

/-- The lane groups in which a mask has a bit. -/
def groupsHit (m : BitVec 1024) : BitVec 4 := joinElems 1 4 4 fun g => BitVec.ofBool (m &&& groupMask g != 0)

/-- The lane groups a mask covers whole. -/
def groupsFull (m : BitVec 1024) : BitVec 4 := joinElems 1 4 4 fun g => BitVec.ofBool (m &&& groupMask g == groupMask g)

/-- The write that stays of an older write to one register when a younger one has landed (R213): the younger's bits are taken from it, and a
mark that the younger set is not cleared by it. -/
def LaneTarget.strip (t : LaneTarget) (by_ : LaneTarget) : LaneTarget :=
  match t, by_ with
  | .vec f m d k c, .vec f' m' _ k' _ =>
    if f == f' then .vec f (m &&& ~~~m') d (k &&& groupsHit (m &&& ~~~m')) (c &&& ~~~k') else t
  | .prd f m d k, .prd f' m' _ _ => if f == f' then .prd f (m &&& ~~~m') d (k && (m &&& ~~~m' != 0)) else t
  | .mem cs g, .mem cs' _ => .mem (cs.filter fun c => !(cs'.any fun c' => c'.1 == c.1)) g
  | .mem cs g, .amo _ n els .. => .mem (cs.filter fun c => !(els.any fun e => decide (e.2 ≤ c.1 ∧ c.1 < e.2 + n))) g
  | _, _ => t

/-- Write a vector register where it is live: data under the mask, marks cleared and set (R194, R196). -/
def State.landVec (s : State) (f : Nat) (m d : BitVec 1024) (k c : BitVec 4) : State :=
  if !livePhys s.t.ctl.rb s.t.ctl.depth f then s
  else
    s.modLane fun l =>
      { l with
        v := SMap.set 0 l.v f ((SMap.get 0 l.v f &&& ~~~m) ||| (d &&& m))
        vmark := SMap.set 0 l.vmark f ((SMap.get 0 l.vmark f &&& ~~~c) ||| k)
        vbad := SMap.set 0 l.vbad f (SMap.get 0 l.vbad f &&& ~~~groupsFull m) }

/-- Write a predicate register: a full clean write clears its mark (R196). -/
def State.landPrd (s : State) (f : Nat) (m d : BitVec 128) (k : Bool) : State :=
  s.modLane fun l =>
    { l with
      p := SMap.set 0 l.p f ((SMap.get 0 l.p f &&& ~~~m) ||| (d &&& m))
      pmark := SMap.set false l.pmark f (k || (SMap.get false l.pmark f && m != BitVec.allOnes 128)) }

/-- The mask of element i of e bits. -/
def elemMask (e i : Nat) : BitVec 1024 := (BitVec.allOnes e).setWidth 1024 <<< (e * i)

/-- The new value of an atomic on n bits (04_winch.md R116). -/
def amoNew (op : AOp) (n : Nat) (old b cmp : Nat) : Nat :=
  let so := (BitVec.ofNat n old).toInt
  let sb := (BitVec.ofNat n b).toInt
  match op with
  | .add => (old + b) % 2 ^ n
  | .and => old &&& b
  | .or => old ||| b
  | .xor => old ^^^ b
  | .min => if so ≤ sb then old else b
  | .max => if so ≥ sb then old else b
  | .minu => if old ≤ b then old else b
  | .maxu => if old ≥ b then old else b
  | .swap => b
  | .cas => if old = cmp then b else old

/-- What a vector atomic has done so far: the state, the old values, their poisoned groups, and the cells written. -/
structure AmoRun where
  s : State
  old : BitVec 1024
  marks : BitVec 4
  cells : List (Nat × Byte × Bool)

/-- One element of a vector atomic (07_streams_registers.md R206, R208): an index and a physical address. -/
def amoElem (op : AOp) (size : Nat) (b cmp : BitVec 1024) (bad : BitVec 4) (r : AmoRun) (e : Nat × Nat) : AmoRun :=
  let (i, a) := e
  let n := 8 * size
  let g := size * i / 32
  let (bs, s) := r.s.readAt (run a size)
  let old := valueOf bs
  let new := amoNew op n old (nbits (n * i) n b.toNat) (nbits (n * i) n cmp.toNat)
  let foul := anyPoison bs || bad.getLsbD g
  let cells := cellsOf a ((toBytes size new).map fun x => (x, foul))
  { s := s.writeAt cells, old := r.old ||| (BitVec.ofNat 1024 old <<< (n * i))
    marks := if anyPoison bs then r.marks ||| (1#4 <<< g) else r.marks, cells := r.cells ++ cells }

/-- The elements of a vector atomic act, in order, as one action, and the digest counts what they wrote. -/
def State.amoRun (s : State) (op : AOp) (size : Nat) (els : List (Nat × Nat)) (b cmp : BitVec 1024) (bad : BitVec 4) : AmoRun :=
  let r := els.foldl (amoElem op size b cmp bad) { s := s, old := 0, marks := 0, cells := [] }
  { r with s := r.s.digest r.cells }

/-- The bits of a register that the elements of an atomic return. -/
def amoMask (size : Nat) (els : List (Nat × Nat)) : BitVec 1024 := els.foldl (fun m e => m ||| elemMask (8 * size) e.1) 0

/-- Of marked lane groups, those in which a list of elements of some bytes has one. -/
def marksOn (els : List (Nat × Nat)) (size : Nat) (marks : BitVec 4) : BitVec 4 :=
  els.foldl (fun m e => m ||| (marks &&& (1#4 <<< (size * e.1 / 32)))) 0

/-- One lane write lands (R211-R213). A waiting atomic acts, and the old values it returns stay in flight. -/
def State.landOne (s : State) (w : LaneWrite) : State :=
  match w.target with
  | .vec f m d k c => s.landVec f m d k c
  | .prd f m d k => s.landPrd f m d k
  | .flags f =>
    s.modLane fun l =>
      { l with flags := l.flags ||| f, fresh := (if l.freshAt = s.cycle then l.fresh else 0) ||| f, freshAt := s.cycle }
  | .mem cs dig => if dig then s.storeAt cs else s.writeAt cs
  | .sem n inc => s.semAdd n inc false
  | .arrive nb => s.arriveAt nb
  | .amo op size els b cmp bad _ _ => (s.amoRun op size els b cmp bad).s

/-- What a lane write that lands leaves in flight: the old values that an atomic returns, at the 14th cycle from its issue. -/
def State.landRest (s : State) (w : LaneWrite) : List LaneWrite :=
  match w.target with
  | .amo op size els b cmp bad off (some f) =>
    let r := s.amoRun op size els b cmp bad
    let k := r.marks ||| marksOn els size off
    [{ due := w.issued + 14, issued := w.issued, target := .vec f (amoMask size els) r.old k (groupsFull (amoMask size els) &&& ~~~k) }]
  | _ => []

/-- Land the writes of a list that are due, in program order; each takes its bits from the older ones still in flight. -/
def landList (now : Nat) : List LaneWrite → State → List LaneWrite → State × List LaneWrite
  | [], s, kept => (s, kept)
  | w :: rest, s, kept =>
    if w.due ≤ now then
      landList now rest (s.landOne w) ((kept.map fun k => { k with target := k.target.strip w.target }) ++ s.landRest w)
    else landList now rest s (kept ++ [w])

/-- Land every lane write that is due by the present cycle (R211), and apply the signals that are due (R215). -/
def State.landDue (s : State) : State :=
  let (s, kept) := landList s.cycle s.t.lane.pending (s.modLane fun l => { l with pending := [] }) []
  let due := s.t.lane.sigs.filter fun g => decide (g.due ≤ s.cycle)
  let s := s.modLane fun l =>
    { l with
      pending := kept ++ l.pending, sigs := l.sigs.filter (fun g => decide (s.cycle < g.due))
      held := l.held.filter fun h => decide (s.cycle ≤ h.2) }
  due.foldl (fun s g => s.semAdd g.sem 1 false) s

/-- Land every lane write in flight, in program order (R214, R458 step 2). -/
def State.landAll (s : State) : State :=
  let ws := s.t.lane.pending
  let gs := s.t.lane.sigs
  let s := ws.foldl (fun s w => (s.landRest w).foldl State.landOne (s.landOne w))
    (s.modLane fun l => { l with pending := [], sigs := [], held := [] })
  gs.foldl (fun s g => s.semAdd g.sem 1 false) s

/-- Are the lanes idle with no write in flight and no row in flight (R215, R245)? -/
def State.lanesIdle (s : State) : Bool :=
  s.t.ctl.blk.isNone && s.t.ctl.hq.isEmpty && s.t.lane.pending.isEmpty && s.t.lane.sigs.isEmpty && s.t.mx.rows.isEmpty
    && s.t.mx.done.isEmpty

/-! ### Waits (02_bundles.md R31) -/

/-- The instruction at issue must wait: the bundle stalls. -/
def State.stall (s : State) (w : Wait) (i : Instr) : State :=
  { s with bun := { s.bun with waits := s.bun.waits ++ [(w, i)] } }

/-- Undo what a granted wait took for a bundle that did not issue, so that its reissue starts afresh. -/
def State.ungrant (s : State) (g : Wait × Instr × Word) : State :=
  match g with
  | (.semwait, .semwait n _, t) => s.setSem n (s.sem n + t.setWidth 16)
  | (.barrier, .wait nb, _) | (.barrier, .arrwait nb, _) =>
    s.modSync fun y => { y with wt := SMap.set 0 y.wt nb.toNat (SMap.get 0 y.wt nb.toNat - 1) }
  | (.chrsv, .chrsv ch _, n) =>
    s.modFab fun f => { f with chans := f.chans.map fun e => if e.1 == ch.toNat then (e.1, { e.2 with rsv := e.2.rsv - n.toNat }) else e }
  | (.chwait, .chwait ch _, n) =>
    s.modFab fun f =>
      { f with
        chans := f.chans.map fun e =>
          if e.1 == ch.toNat then (e.1, { e.2 with avl := e.2.avl + n.toNat, clm := e.2.clm - n.toNat }) else e }
  | _ => s

/-- Does a grant stay for the reissue of a bundle whose wait was broken? A delivered WID is neither lost nor taken twice
(13_control_slice.md R369), an arrival or an SM access already made is not made again, and a round opened or contributed to stands. -/
def grantStays (g : Wait × Instr × Word) : Bool :=
  match g.1 with
  | .accept | .arrived | .collopen | .collb | .sm => true
  | _ => false

/-- A wait is broken (R376, R421): what the broken attempt took is given back. -/
def State.breakWait (s : State) : State :=
  let gs := s.t.ctl.granted
  let s := (gs.filter fun g => !grantStays g).foldl State.ungrant s
  s.modCtl fun c => { c with waits := [], granted := gs.filter grantStays }

/-! ### Taking an exception (17_faults_repair.md R468-R475) -/

/-- May the handler take a code now (R469)? No handler runs after END has halted fetch (13_control_slice.md R377). -/
def State.canTake (s : State) (code : Byte) : Bool :=
  let t := s.t.ctl.trap
  t.re.getLsbD (code.toNat / 32) && !t.hnd && !t.tvec.getLsbD 0 && s.fv t.tvec && s.t.ctl.fetch == .running

/-- TCAUSE of a cause (R468). -/
def causeWord (c : Cause) (pend : Bool) : Word :=
  BitVec.ofNat 64 (c.code.toNat + (if pend then 256 else 0) + (if c.lane then 512 else 0) + (if c.async then 1024 else 0)
    + 4096 * c.slot.toNat + 65536 * c.arg.toNat)

/-- Trap entry (R469): TEPC is the CPC, which stands at the faulting control bundle, after a TRAP at the next one, and for
lane faults and A kinds at the next bundle to issue. What the interrupted bundle keeps for its reissue is put by (13_control_slice.md
R369, 15_sync_time_phases.md R421). -/
def State.enterHandler (s : State) (c : Cause) : State :=
  let s := s.applyShapes
  let blk := s.t.ctl.blk
  s.modCtl fun k =>
    { k with
      cpc := k.trap.tvec
      off := false
      granted := []
      trap :=
        { k.trap with
          cause := causeWord c (!k.trap.pend.isEmpty), val := c.val, epc := k.cpc, epcOff := k.off, hnd := true, hstart := s.cycle
          granted := k.granted
          lv := k.trap.lv || c.lane
          ltrip := if c.lane then BitVec.ofNat 24 ((blk.map fun b => b.trip).getD 0) else k.trap.ltrip
          llpc := if c.lane then (blk.map fun b => b.lpc).getD 0 else k.trap.llpc } }

/-- Freeze the tile as at a forced pre-emption (16_launch.md R458 steps 1 and 2). -/
def State.freeze (s : State) : State :=
  (((s.breakWait.applyShapes).landAll).flush).modCtl fun c => { c with frozen := true }

/-- ARG0 of event 0xEA (R495): the original code stands beside code 0x16 only. -/
def State.errorArg (s : State) (c : Cause) : Word :=
  let i := match s.region with
    | none => 0
    | some r => r.index s.here
  let lpc := (s.t.ctl.blk.map fun b => b.lpc).getD 0
  BitVec.ofNat 64 (c.code.toNat + (if c.code == 0x16 then 256 * c.arg.toNat else 0) + 65536 * i + 2 ^ 32 * s.t.ctl.cpc.toNat + 2 ^ 48 * lpc.toNat)

/-- The runtime's action after a frozen tile's event (R474 step 3): a forced pre-emption, or the teardown of a region with
static channels. -/
def State.endRegion (s : State) : State :=
  match s.region with
  | none => s
  | some r => if r.stat then s.auto (.teardown r.id 0xEA) else s.auto (.force r.id)

/-- A digest mismatch that no handler takes (R475): the phase runs again while every other tile of the region is held;
a second mismatch proceeds as a region error. -/
def State.rerun (s : State) : State :=
  match s.region with
  | none => s
  | some r =>
    if r.serial == some s.here then
      ((s.modRegion r.id fun r => { r with serial := none }).tileEvent 0xF4 (BitVec.ofNat 64 (r.index s.here)) 1).endRegion
    else if s.t.sync.esc then
      (s.tileEvent 0xEA (s.errorArg { code := 0x14, arg := 0, slot := 15, async := false, lane := false, val := 0 }) 0).endRegion
    else
      ((s.modRegion r.id fun r => { r with serial := some s.here }).modCtl fun c => { c with frozen := false }).modSync
        fun y => { y with canceling := true }

/-- The return from a handler to an address (R470): CPC, HND, the pending WSHP writes, what the interrupted bundle kept, and the lanes,
which re-issue the bundle at LPC once every write in flight has landed (08_vector.md R214). -/
def State.leaveTo (s : State) (epc : BitVec 16) (off : Bool) : State :=
  let s := s.applyShapes
  let lv := s.t.ctl.trap.lv
  let s := s.modCtl fun c =>
    { c with cpc := epc, off := off, granted := c.trap.granted, trap := { c.trap with hnd := false, lv := false, granted := [] } }
  if lv then s.modLane fun l => { l with stop := false, replay := true } else s

/-- The return from a handler, to TEPC. -/
def State.leaveHandler (s : State) : State := s.leaveTo s.t.ctl.trap.epc s.t.ctl.trap.epcOff

/-- Escalation to the region runtime (R471, R474, R475). A tile that escalates out of a handler stands where its trap was
taken, so that the faulting bundle issues again after a restore (R474). -/
def State.escalate (s : State) (c : Cause) : State :=
  let ver := c.code == 0x13 && s.t.sync.ver
  let arg := s.errorArg c
  let s := s.freeze
  let s := if s.t.ctl.trap.hnd then s.leaveHandler else s
  let s := s.tileEvent 0xEA arg c.val
  if ver then s.rerun else s.endRegion

/-- A phase cancellation begins (15_sync_time_phases.md R437): after an escaping effect it is region error 0x14. -/
def State.startCancel (s : State) : State :=
  if s.t.sync.esc then s.escalate { code := 0x14, arg := 0, slot := 15, async := false, lane := false, val := 0 }
  else ((s.breakWait).modSync fun y => { y with canceling := true }).auto .cancel

/-- A cause is taken (R469, R471): fault 0x80 of the control slice inside a phase cancels the phase instead (R437); an A-kind
cause waits while a handler runs; every cause no handler may take escalates. -/
def State.trapEntry (s : State) (c : Cause) : State :=
  let s := if c.lane then (s.flush).modLane fun l => { l with stop := true } else s
  if c.code == 0x80 && !c.lane && !c.async && s.t.sync.inph && !s.t.ctl.trap.hnd then
    s.startCancel
  else if s.t.ctl.trap.hnd then
    if c.async then
      s.modTrap fun t => { t with pend := t.pend ++ [c], cause := t.cause ||| 256 }
    else s.escalate { c with code := 0x16, arg := c.code }
  else if s.canTake c.code then (s.breakWait).enterHandler c
  else s.escalate c

/-- A slot of the bundle at issue raises a fault: of several, the one in the lowest slot stands (02_bundles.md R39). An
instruction that issues alone takes it at once. -/
def State.raiseFull (s : State) (code arg : Byte) (val : Word) : State :=
  let c : Cause := { code := code, arg := arg, slot := s.bun.slot, async := false, lane := s.bun.lane, val := val }
  if s.bun.active then
    if s.bun.raised.isSome then s else { s with bun := { s.bun with raised := some c } }
  else s.trapEntry c

/-- Raise a fault with a TVAL. -/
def State.raiseVal (s : State) (code : Byte) (val : Word) : State := s.raiseFull code 0 val

/-- Raise a fault whose TVAL is zero. -/
def State.raise (s : State) (code : Byte) : State := s.raiseFull code 0 0

/-- Take the first pending A-kind cause (R470, R472). -/
def State.takePending (s : State) : State :=
  match s.t.ctl.trap.pend with
  | [] => s
  | c :: rest => (s.modTrap fun t => { t with pend := rest }).trapEntry c

/-! ### Reads that interlock (02_bundles.md R31; 10_fabric.md R301, R302) -/

/-- What stands in the way of reading some registers: a deterministic RAMO that has not returned is fault 0x67, another
outstanding RAMO stalls, a poisoned return or a parity failure is fault 0x80. -/
inductive Hazard where
  | none
  | wait
  | fault (code : Byte)
deriving DecidableEq, Repr

/-- The hazard of one register. -/
def State.hazard1 (s : State) (r : XReg) : Hazard :=
  match s.ramoOn r with
  | some o => if o.det then .fault 0x67 else .wait
  | Option.none => if s.xFoul r then .fault 0x80 else .none

/-- The hazard of several registers: a fault before a wait, and the first fault named. -/
def State.hazard (s : State) : List XReg → Hazard
  | [] => .none
  | r :: rest =>
    match s.hazard1 r, s.hazard rest with
    | .fault c, _ => .fault c
    | .wait, .fault c => .fault c
    | .wait, _ => .wait
    | .none, h => h

/-- Go on with an instruction when its registers can be read. -/
def State.reading (s : State) (i : Instr) (rs : List XReg) (k : State → State) : State :=
  match s.hazard rs with
  | .none => k s
  | .wait => s.stall .reg i
  | .fault c => { s with bun := { s.bun with hit := rs.foldl (fun (m : BitVec 32) (r : XReg) => m ||| (1#32 <<< r.toNat)) 0 } }.raise c

end Sys2Proof.Machine
end

