-- ==== Sys2Proof/Machine/Operands.lean ====
section
/-!
DEFINITION. Every operand form: SM effective addresses (13_control_slice.md R378-R380), location words (04_winch.md R98),
stream registers (07_streams_registers.md R184-R190), lane operands and guards (02_bundles.md R44-R49), and the places where
lane results go.
-/

namespace Sys2Proof.Machine

open Sys2Proof

/-! ### SM effective addresses -/

/-- The physical address of a legal effective address (R378): `none` is fault 0x0A. -/
def State.smPlace (s : State) (cbuf : Bool) (ea : Word) : Option Nat :=
  if cbuf then
    if ea.toNat < 0x60000 then some (cAddr ea.toNat) else none
  else if ea.toNat < 2 ^ 21 ∧ (bits 0 20 ea).toNat < 0xC0000 then some (s.t.buf.aAddr (bit 20 ea) (bits 0 20 ea).toNat)
  else none

/-- ea of a load or store of `size` bytes (R379). -/
def State.smEa (s : State) (m : SmAddr) (size : Nat) : Word := s.x m.xa + BitVec.ofNat 64 size * sext64 m.off

/-- The place of an SM access of `size` bytes (R378): a misaligned ea is fault 0x09, an illegal one 0x0A. -/
def State.smAt (s : State) (cbuf : Bool) (ea : Word) (size : Nat) : Except Byte Nat :=
  match s.smPlace cbuf ea with
  | none => .error 0x0A
  | some a => if ea.toNat % size = 0 then .ok a else .error 0x09

/-! ### Location words (R98) -/

/-- SP of a location word. -/
def locSp (l : Word) : Nat := (bits 62 2 l).toNat
/-- BUF of a location word. -/
def locBuf (l : Word) : BufId := bufOf (bits 60 2 l)
/-- SIDE of a location word. -/
def locSide (l : Word) : Bool := bit 59 l
/-- G of a location word. -/
def locG (l : Word) : Bool := bit 58 l
/-- CH of a location word. -/
def locCh (l : Word) : Byte := bits 50 8 l
/-- X of a location word. -/
def locX (l : Word) : Nat := (bits 43 7 l).toNat
/-- Y of a location word. -/
def locY (l : Word) : Nat := (bits 36 7 l).toNat
/-- OFF of a location word. -/
def locOff (l : Word) : Nat := (bits 0 20 l).toNat
/-- The far virtual address of a location word. -/
def locVa (l : Word) : BitVec 57 := bits 0 57 l

/-- A local A or C location with no illegal field and an aligned offset inside its buffer: its physical address. -/
def State.localPlace (s : State) (l : Word) (align : Nat) : Option Nat :=
  let o := locOff l
  let b := locBuf l
  if locSp l == 0 && (b == .a || b == .c) && (b == .a || !locSide l) && (bits 20 39 l) == 0 && o % align == 0
      && decide (o + align ≤ b.size) then
    some (s.t.buf.addr (b == .c) (locSide l) o)
  else none

/-! ### Stream registers (R184-R187) -/

/-- Key of a stream field. -/
def streamKey (st fld : Nat) : Nat := 8 * st + fld

/-- Field of a stream register. -/
def State.sf (s : State) (st fld : Nat) : BitVec 32 := SMap.get 0 s.t.lane.st (streamKey st fld)

/-- The decoded fields of a stream (R184). -/
structure StreamView where
  buf : BitVec 2
  side : Bool
  off : Nat
  rows : Nat
  units : Nat
  pitch : Nat
  wrapAt : Bool
  order : Bool
  skew : Bool
  fmt : Nat
  sstr : Nat
  sbuf : Bool
  sside : Bool
  soff : Nat
  pos : Nat
deriving DecidableEq, Repr

/-- The fields of stream st. -/
def State.stream (s : State) (st : Nat) : StreamView :=
  let f0 := s.sf st 0
  let f1 := s.sf st 1
  let f3 := s.sf st 3
  let f4 := s.sf st 4
  { buf := bits 30 2 f0, side := bit 29 f0, off := (bits 0 20 f0).toNat, rows := (bits 16 16 f1).toNat
    units := (bits 0 16 f1).toNat, pitch := (bits 0 20 (s.sf st 2)).toNat, wrapAt := bit 6 f3, order := bit 5 f3
    skew := bit 4 f3, fmt := (bits 0 4 f3).toNat, sstr := (bits 22 10 f4).toNat, sbuf := bit 21 f4, sside := bit 20 f4
    soff := (bits 0 20 f4).toNat, pos := (s.sf st 5).toNat }

/-- Are the fields of a stream legal at use, W streams apart (R184, R186)? -/
def State.streamLegal (s : State) (st : Nat) : Bool :=
  let v := s.stream st
  v.buf != 3 && (!v.side || v.buf == 0) && bits 20 9 (s.sf st 0) == 0 && v.off % 16 == 0 && v.rows != 0 && v.units != 0
    && bits 20 12 (s.sf st 2) == 0 && v.pitch % 16 == 0 && bits 7 25 (s.sf st 3) == 0 && decide (v.fmt < 12)
    && (!v.skew || (v.off % 128 == 0 && v.pitch % 128 == 0 && v.units % 8 == 0)) && !(v.sside && v.sbuf)

/-- Column-major order needs skewed storage or an odd pitch in units (R186). -/
def StreamView.columnOk (v : StreamView) : Bool := !v.order || v.skew || v.pitch / 16 % 2 == 1

/-- StreamUnit (R185). -/
def StreamView.unit (v : StreamView) (u : Nat) : Nat :=
  let (r, c) := if v.order then (u % v.rows, u / v.rows) else (u / v.units, u % v.units)
  if v.skew then v.off + r * v.pitch + 128 * (c / 8) + 16 * ((c % 8 + r) % 8) else v.off + r * v.pitch + 16 * c

/-- Offset of the scale byte of unit number u (R189). -/
def StreamView.scale (v : StreamView) (u : Nat) : Nat :=
  let (r, c) := if v.order then (u % v.rows, u / v.rows) else (u / v.units, u % v.units)
  v.soff + r * v.sstr + c

/-- Size of the buffer or side a stream names. -/
def StreamView.limit (v : StreamView) : Nat := (bufOf v.buf).size

/-- The position after a group of g units at p (R187). -/
def StreamView.after (v : StreamView) (p g : Nat) : Nat := if p + g == v.rows * v.units && v.wrapAt then 0 else p + g

/-- Check a group of g units at a position (R184-R190). -/
def State.groupCheck (s : State) (st g p : Nat) : Except Byte Unit :=
  let v := s.stream st
  if !s.streamLegal st || v.buf == 1 || !v.columnOk then .error 0x28
  else if p % g != 0 || (if v.order then v.rows % g != 0 else v.units % g != 0) then .error 0x2A
  else if p ≥ v.rows * v.units then .error 0x2B
  else if (upto g).any (fun j => decide (v.unit (p + j) + 16 > v.limit)) then .error 0x29
  else .ok ()

/-- Physical byte addresses of a group of g units at p. -/
def State.groupAddrs (s : State) (st g p : Nat) : List Nat :=
  let v := s.stream st
  (upto g).flatMap fun j =>
    let o := v.unit (p + j)
    (upto 16).map fun k => s.t.buf.addr (v.buf == 2) v.side (o + k)

/-- Physical address of the scale byte of unit p, when it lies in its buffer (R189). -/
def State.scaleAddr (s : State) (st p : Nat) : Option Nat :=
  let v := s.stream st
  let o := v.scale p
  if v.sbuf then (if 0x10000 ≤ o ∧ o < 0x60000 then some (cAddr o) else none)
  else if o < 0xC0000 then some (s.t.buf.aAddr v.sside o) else none

/-- The lane ports an access uses (05_tile_buffers.md R132): the physical sides 0 and 1, C staging 2, the frame port 3. -/
def portOf (a : Nat) : Nat := if a < 0x100000 then 0 else if a < 0x200000 then 1 else if a < 0x310000 then 3 else 2

/-- The ports of a list of addresses. -/
def portsOf (as : List Nat) : List Nat := dedup (as.map portOf)

/-- Is a port held by a gather, scatter or atomic that issued in an earlier cycle (R204)? -/
def State.portHeld (s : State) (p : Nat) : Bool :=
  s.t.lane.held.any fun h => h.1 == p && decide (s.cycle ≤ h.2 ∧ h.2 < s.cycle + 7)

/-- Note one access: fault 0x2E when its buffer or side is held (R204). -/
def State.access (s : State) (as : List Nat) : Except Byte State :=
  let ps := portsOf as
  if ps.any s.portHeld then .error 0x2E
  else .ok { s with bun := { s.bun with ports := s.bun.ports ++ ps } }

/-- Note the access of a stream named as a source: however often a bundle names it, a port it reaches counts once (05_tile_buffers.md
R132). -/
def State.reach (s : State) (st : Nat) (as : List Nat) : Except Byte State :=
  let ps := (portsOf as).filter fun p => !s.bun.reached.contains (st, p)
  if ps.any s.portHeld then .error 0x2E
  else .ok { s with bun := { s.bun with ports := s.bun.ports ++ ps, reached := s.bun.reached ++ ps.map fun p => (st, p) } }

/-- POS of a stream as it stood when the bundle issued (02_bundles.md R32, R36). -/
def State.posAt (s : State) (st : Nat) : Nat :=
  match s.bun.popped.find? fun e => e.1 == st with
  | some (_, p, _) => p
  | none => ((s.bun.claimed.find? fun e => e.1 == st).map fun e => e.2).getD (s.stream st).pos

/-- Set POS of a stream. -/
def State.setPos (s : State) (st p : Nat) : State :=
  s.modLane fun l => { l with st := SMap.set 0 l.st (streamKey st 5) (BitVec.ofNat 32 p) }

/-- Poison marks of the lane groups of bytes read. -/
def groupMarks (bs : List (Byte × Bool)) : BitVec 4 :=
  joinElems 1 4 4 fun g => BitVec.ofBool (anyPoison ((bs.drop (32 * g)).take 32))

/-- Pop a group of g units (R187), not yet read: a stream named more than once pops once, and every naming reads from one
position (R36). DESIGN CHOICE (notes/assumptions/120.md): namings of different widths advance POS by the larger group. -/
def State.popAddrs (s : State) (st g : Nat) : Except Byte (List Nat × State) := do
  let p := s.posAt st
  s.groupCheck st g p
  let as := s.groupAddrs st g p
  let s ← s.reach st as
  match s.bun.popped.find? fun e => e.1 == st with
  | some (_, _, g') =>
    if g ≤ g' then pure (as, s)
    else
      pure (as,
        { s.setPos st ((s.stream st).after p g) with
          bun := { s.bun with popped := s.bun.popped.map fun e => if e.1 == st then (st, p, g) else e } })
  | none =>
    pure (as, { s.setPos st ((s.stream st).after p g) with bun := { s.bun with popped := s.bun.popped ++ [(st, p, g)] } })

/-- The bytes of a group that a test on their positions names, read; the others, guarded off, are not read from memory (02_bundles.md
R44) and count as clean zeros. -/
def State.readSome (s : State) (as : List Nat) (use : Nat → Bool) : List (Byte × Bool) × State :=
  let is := as.zip (upto as.length)
  let (_, s) := s.readAt ((is.filter fun x => use x.2).map fun x => x.1)
  (is.map fun x => if use x.2 then (s.t.buf.byte x.1, s.t.buf.poisoned x.1) else (0, false), s)

/-- Pop a group of g units (R187) and read the bytes of it that a test names. -/
def State.popSome (s : State) (st g : Nat) (use : Nat → Bool) : Except Byte (List (Byte × Bool) × State) := do
  let (as, s) ← s.popAddrs st g
  pure (s.readSome as use)

/-- Pop and read a group of g units (R187). -/
def State.pop (s : State) (st g : Nat) : Except Byte (List (Byte × Bool) × State) := do
  let (as, s) ← s.popAddrs st g
  pure (s.readAt as)

/-- Claim the group of g units a push will write (R187): its addresses. -/
def State.claim (s : State) (st g : Nat) : Except Byte (List Nat × State) := do
  let p := s.posAt st
  s.groupCheck st g p
  let as := s.groupAddrs st g p
  let s ← s.access as
  pure (as,
    { s.setPos st ((s.stream st).after p g) with
      bun := { s.bun with dsts := s.bun.dsts ++ [st], claimed := s.bun.claimed ++ [(st, p)] } })

/-- A slot that names streams without moving them: one whose whole-slot guard is false (02_bundles.md R36, R44). -/
def State.naming (s : State) (srcs dsts : List Nat) : State :=
  { s with bun := { s.bun with peeks := s.bun.peeks ++ srcs, dsts := s.bun.dsts ++ dsts } }

/-! ### Guards and predicates -/

/-- Value of a predicate name, through PhysP; poisoned ones raise fault 0x2D (R193, R197). -/
def State.pred (s : State) (p : BitVec 4) : Except Byte (BitVec 128) :=
  let f := physP s.t.ctl.rb p.toNat
  if SMap.get false s.t.lane.pmark f then .error 0x2D else .ok (SMap.get 0 s.t.lane.p f)

/-- GuardTrue (R44) of a slot, as a test on byte positions. -/
def State.guard (s : State) (g : OptGuard) : Except Byte (Nat → Bool) :=
  match g with
  | none => .ok fun _ => true
  | some x => do
    let p ← s.pred x.g
    pure fun b => p.getLsbD b != x.sn

/-! ### Lane sources (R48) -/

/-- A source as read at issue: its bits and the poison marks of its lane groups. -/
structure Src where
  data : BitVec 1024
  marks : BitVec 4
deriving DecidableEq, Repr

/-- The value of a vector register by name; a name that is not live raises fault 0x22 (R193). A parity failure marks the
lane group before the value is used (17_faults_repair.md R478). -/
def State.vreg (s : State) (k : Nat) : Except Byte Src :=
  if !liveName s.t.ctl.depth k then .error 0x22
  else
    let f := physV s.t.ctl.rb k
    .ok { data := SMap.get 0 s.t.lane.v f, marks := SMap.get 0 s.t.lane.vmark f ||| SMap.get 0 s.t.lane.vbad f }

/-- Replicate a 64-bit value over 1024 bits (R48). -/
def replicate64 (v : Word) : BitVec 1024 := joinElems 64 16 1024 fun _ => v

/-- The bits of bytes read, byte 0 lowest. -/
def bytesBits (bs : List (Byte × Bool)) : BitVec 1024 := BitVec.ofNat 1024 (valueOf bs)

/-- Units of a slot width (R186). -/
def unitsOf (w : Width) : Nat := w.bits / 128

/-- SrcOperand: a register, a replicated parameter, or a pop (R48), of which the slot reads the bytes that `use` names. -/
def State.src (s : State) (c : VCode) (w : Width) (use : Nat → Bool) : Except Byte (Src × State) :=
  let k := c.toNat
  if k < 96 then do
    let v ← s.vreg k
    pure (v, s)
  else if k < 112 then pure ({ data := replicate64 (SMap.get 0 s.t.lane.q (k - 96)), marks := 0 }, s)
  else do
    let (bs, s) ← s.popSome (k - 112) (unitsOf w) use
    pure ({ data := bytesBits bs, marks := groupMarks bs }, s)

/-- Every register of a list of operand codes is a live name: decoding raises fault 0x22 for any other (02_bundles.md R37, R193). -/
def State.liveCodes (s : State) (cs : List VCode) : Except Byte Unit :=
  if cs.any fun c => decide (c.toNat < 96) && !liveName s.t.ctl.depth c.toNat then .error 0x22 else .ok ()

/-- The streams that operand codes name. -/
def streamCodes (cs : List VCode) : List Nat := cs.filterMap fun c => if 112 ≤ c.toNat then some (c.toNat - 112) else none

/-- Several sources in order; `use j` names the bytes read of source j. -/
def State.srcs (s : State) (w : Width) (use : Nat → Nat → Bool) : List VCode → Except Byte (List Src × State)
  | [] => pure ([], s)
  | c :: rest => do
    let (v, s) ← s.src c w (use 0)
    let (vs, s) ← s.srcs w (fun j => use (j + 1)) rest
    pure (v :: vs, s)

/-! ### Lane destinations -/

/-- What a vector instruction writes: the bits, which of them, and the flags of the four lane groups (R176). -/
structure VOut where
  data : BitVec 1024
  mask : BitVec 1024
  flags : BitVec 20
deriving DecidableEq, Repr

/-- Is the slot at issue VB? -/
def State.isVB (s : State) : Bool := s.bun.slot == 2

/-- The lane group that executes byte position b of a slot (R176). -/
def State.laneGroup (s : State) (w : Width) (b : Nat) : Nat := if s.isVB then 4 - w.bits / 256 + b / 32 else b / 32

/-- Flags of one element placed in the lane group that raises them. -/
def placeFlags (f : Flags) (g : Nat) : BitVec 20 := f.setWidth 20 <<< (5 * g)

/-- Queue a lane write. -/
def State.queueWrite (s : State) (lat : Nat) (t : LaneTarget) : State :=
  s.modLane fun l => { l with pending := l.pending ++ [{ due := s.cycle + lat, issued := s.cycle, target := t }] }

/-- Queue flags, when any are raised. -/
def State.queueFlags (s : State) (lat : Nat) (f : BitVec 20) : State := if f == 0 then s else s.queueWrite lat (.flags f)

/-- VB writes the register that VA of the same bundle writes (R216): VB's bytes are taken from VA's write, and for marks the two are one
write under R196. A group that both together cover clean is cleared once, by the part of it that lands last. -/
def combineMarks (ws : List LaneWrite) (now due f : Nat) (m : BitVec 1024) (k : BitVec 4) : BitVec 4 × List LaneWrite :=
  let va := ws.findSome? fun w => match w.target with
    | .vec f' m' _ k' _ => if w.issued == now && f == f' then some (w.due, m' &&& ~~~m, k' &&& groupsHit (m' &&& ~~~m)) else none
    | _ => none
  match va with
  | none => (groupsFull m &&& ~~~k, ws)
  | some (due', m', k') =>
    let c := groupsFull (m ||| m') &&& ~~~(k ||| k')
    let old := if due ≤ due' then c &&& groupsHit m' else c &&& ~~~groupsHit m
    (c &&& ~~~old, ws.map fun w =>
      match w.target with
      | .vec f' m0 d' _ _ => if w.issued == now && f == f' then { w with target := .vec f' (m0 &&& ~~~m) d' k' old } else w
      | _ => w)

/-- Write a vector register of a name at a latency (R193, R211, R213, R216). -/
def State.writeReg (s : State) (k lat : Nat) (o : VOut) (marks : BitVec 4) : Except Byte State :=
  if !liveName s.t.ctl.depth k then .error 0x22
  else
    let f := physV s.t.ctl.rb k
    let k := marks &&& groupsHit o.mask
    let ws := s.t.lane.pending
    let (c, ws) := if s.isVB then combineMarks ws s.cycle (s.cycle + lat) f o.mask k else (groupsFull o.mask &&& ~~~k, ws)
    .ok ((s.modLane fun l => { l with pending := ws }).queueWrite lat (.vec f o.mask o.data k c))

/-- Bytes of a push or store: the enabled bytes of the data, poisoned by lane group (R196). -/
def pushCells (as : List Nat) (o : VOut) (marks : BitVec 4) : List (Nat × Byte × Bool) :=
  (as.zip (upto as.length)).filterMap fun (a, i) =>
    if o.mask.getLsbD (8 * i) then some (a, bits (8 * i) 8 o.data, marks.getLsbD (i / 32)) else none

/-- Write a lane destination: a vector register or a push (R48, R187). -/
def State.writeDest (s : State) (d : VCode) (w : Width) (lat : Nat) (o : VOut) (marks : BitVec 4) : Except Byte State :=
  let k := d.toNat
  if k < 96 then s.writeReg k lat o marks
  else if k < 112 then .error 0x22
  else do
    let (as, s) ← s.claim (k - 112) (unitsOf w)
    pure (s.queueWrite lat (.mem (pushCells as o marks) false))

/-- Write a predicate of a name at a latency (R193, R216); the mark when a vector source was poisoned (R218). -/
def State.writePred (s : State) (p : BitVec 4) (lat : Nat) (mask data : BitVec 128) (mark : Bool) : State :=
  let f := physP s.t.ctl.rb p.toNat
  let me := LaneTarget.prd f mask data mark
  (s.modLane fun l =>
    { l with pending := l.pending.map fun w => if s.isVB && w.issued == s.cycle then { w with target := w.target.strip me } else w }).queueWrite
    lat (.prd f mask data mark)

/-- Has a list two equal entries? -/
def hasDup : List Nat → Bool
  | [] => false
  | a :: r => r.contains a || hasDup r

/-- The conditions between two slots, checked after a slot's own (R39): a stream both source and destination, or twice a
destination, is fault 0x22 (R188); two accesses of one port are fault 0x23 (R132). DESIGN CHOICE (notes/assumptions/119.md): a slot that
meets both raises 0x22. -/
def State.slotEnd (s : State) : Except Byte State :=
  if s.bun.dsts.any (fun d => s.bun.popped.any (fun e => e.1 == d) || s.bun.peeks.contains d) || hasDup s.bun.dsts then .error 0x22
  else if hasDup s.bun.ports then .error 0x23
  else .ok (if s.bun.active then s else { s with bun := Bun.none })

/-- Run a lane slot: a fault leaves the state before it and is raised. -/
def State.slot (s : State) (r : Except Byte State) : State :=
  match r.bind State.slotEnd with
  | .ok s' => s'
  | .error c => s.raise c

/-! ### Rounding and random pops (06_number_formats.md R171-R175) -/

/-- The rounding mode DRM names (R175). -/
def drmMode (d : BitVec 3) : RMode :=
  match d.toNat with
  | 0 => .rne
  | 1 => .rtz
  | 2 => .rdn
  | 3 => .rup
  | _ => .sr

/-- The rounding mode in force and the random entry: SR pops one, whether or not any guard is true (R172). -/
def State.rounding (s : State) (rm : RMode) : RMode × BitVec 1024 × State :=
  let m := if rm == .dyn then drmMode s.t.lane.drm else rm
  if m == .sr then
    (.sr, randEntry s.t.lane.seed s.t.lane.rn, s.modLane fun l => { l with rn := l.rn + 1 })
  else (m, 0, s)

end Sys2Proof.Machine
end

