-- ==== Sys2Proof/Machine/Flags.lean ====
section
/-!
DEFINITION. The control and status registers: the words they read as, what CSRW, CSRS and CSRC do to each
(13_control_slice.md R363-R368, R390, R391; 06_number_formats.md R175; 09_matrix.md R268, R269; 05_tile_buffers.md R145;
04_winch.md R114; 15_sync_time_phases.md R424, R431; 17_faults_repair.md R468), and the flags of lane results (R176).
-/

namespace Sys2Proof.Machine

open Sys2Proof

/-! ### What each CSR reads as -/

/-- CSTAT (R365); CPC is the address of the bundle that holds the CSRR. -/
def State.cstat (s : State) : Word :=
  let c := s.t.ctl
  let a := if s.bun.active then s.bun.addr else c.cpc
  BitVec.ofNat 64 (2 ^ 48 * a.toNat + 2 ^ 16 * c.ret.length + (if c.trap.hnd then 8 else 0) + (if c.fv1 then 4 else 0)
    + (if c.fv0 then 2 else 0) + a.toNat / 32768)

/-- LSTAT (R366). With no block running, LPC is where the last trip left it (R387). -/
def State.lstat (s : State) : Word :=
  let c := s.t.ctl
  let (lpc, trip, run, rot) := match c.blk with
    | none => (c.lpc.toNat, 0, 0, 0)
    | some b => (b.lpc.toNat, b.trip % 2 ^ 24, 1, if b.rot then 1 else 0)
  BitVec.ofNat 64 (2 ^ 48 * lpc + 2 ^ 24 * trip + 2 ^ 17 * c.hq.length + 2 ^ 10 * c.rb + 8 * c.depth + 4 * run + 2 * rot)

/-- LFPSR (R175). -/
def State.lfpsr (s : State) : Word :=
  BitVec.ofNat 64 (2 ^ 32 * s.t.lane.drm.toNat + s.t.lane.flags.toNat)

/-- MXCFG (R268). -/
def Mx.cfgWord (m : Mx) : Word :=
  BitVec.ofNat 64 (2 ^ 25 * m.srow.toNat + 2 ^ 19 * m.drow.toNat + 2 ^ 13 * m.mrow.toNat + 2 ^ 9 * (fmtCode m.af).toNat
    + 2 ^ 5 * (fmtCode m.bf).toNat + 8 * m.spm.toNat + (if m.sat then 4 else 0))

/-- MXSR (R269). -/
def Mxsr.word (x : Mxsr) : Word :=
  BitVec.ofNat 64 (2 ^ 48 * x.mis.toNat + 2 ^ 42 * x.fk.toNat + 2 ^ 36 * x.fn.toNat + (if x.fv then 2 ^ 35 else 0)
    + 2 ^ 29 * x.ck.toNat + (if x.nv then 8 else 0) + (if x.ovf then 4 else 0) + (if x.unf then 2 else 0)
    + (if x.nx then 1 else 0))

/-- WQERR (R114). -/
def Winch.errWord (w : Winch) : Word := BitVec.ofNat 64 (2 ^ 32 * w.errEn.toNat + w.errSem.toNat)

/-- BUFECC (R145). -/
def Buf.eccWord (b : Buf) : Word := b.iparc ++ b.frfix ++ b.unc ++ b.cor

/-- RAMPCFG (R390). -/
def Ramp.cfgWord (r : Ramp) : Word := BitVec.ofNat 64 ((if r.en then 2 ^ 63 else 0) + 2 ^ 16 * r.up + r.dn)

/-- RAMPST (R391). -/
def Ramp.stWord (r : Ramp) : Word := BitVec.ofNat 64 (2 ^ 32 * r.lvl + 2 ^ 16 * r.mlast + r.whw)

/-- PHST (R431). -/
def Sync.phst (y : Sync) : Word :=
  BitVec.ofNat 64 ((if y.det then 2 ^ 63 else 0) + (if y.ver then 2 ^ 62 else 0) + (if y.inph then 2 ^ 61 else 0)
    + (if y.esc then 2 ^ 60 else 0) + (if 0 < y.pcp then 2 ^ 59 else 0) + 2 ^ 32 * y.cnc.toNat + y.phn.toNat)

/-- SEMST (R424). -/
def Sync.semst (y : Sync) : Word := BitVec.ofNat 64 ((if y.ov then 2 ^ 63 else 0) + y.ovSem.toNat)

/-- TCTL (R468): ESC reads as 0. -/
def Trap.ctlWord (t : Trap) : Word := BitVec.ofNat 64 (2 ^ 48 * t.tvec.toNat + 2 ^ 8 * t.re.toNat)

/-- TLPC (R468). -/
def Trap.lpcWord (t : Trap) : Word :=
  BitVec.ofNat 64 ((if t.lv then 2 ^ 40 else 0) + 2 ^ 16 * t.ltrip.toNat + t.llpc.toNat)

/-- The value of a CSR; `none` is fault 0x0C (R363, R364). -/
def State.csr (s : State) (a : BitVec 12) : Option Word :=
  let t := s.t
  match a.toNat with
  | 0x000 => some s.cstat
  | 0x001 => some s.lstat
  | 0x008 => some t.ctl.tileid
  | 0x009 => some (t.ctl.widw.setWidth 64)
  | 0x010 => some t.ctl.trap.ctlWord
  | 0x011 => some t.ctl.trap.cause
  | 0x012 => some (t.ctl.trap.epc.setWidth 64)
  | 0x013 => some t.ctl.trap.lpcWord
  | 0x014 => some t.ctl.trap.val
  | 0x015 => some t.ctl.trap.scr
  | 0x020 => some s.lfpsr
  | 0x021 => some t.mx.cfgWord
  | 0x022 => some t.mx.sr.word
  | 0x030 => some t.winch.errWord
  | 0x031 => some t.buf.eccWord
  | 0x040 => some t.ctl.ramp.cfgWord
  | 0x041 => some t.ctl.ramp.stWord
  | 0x100 => some t.sync.phst
  | 0x101 => some t.sync.semst
  | _ => none

/-- The value of a CSR as it stood before the bundle at issue (02_bundles.md R31). -/
def State.csrWas (s : State) (a : BitVec 12) : Option Word :=
  match s.bun.was with
  | some t => (s.setTile s.here t).csr a
  | none => s.csr a

/-! ### Writes -/

/-- The three CSR writes (R363). -/
inductive CsrOp where
  | write | set | clear
deriving DecidableEq, Repr

/-- The value a CSR write makes of the old one (R363). -/
def CsrOp.apply (o : CsrOp) (old a : Word) : Word :=
  match o with
  | .write => a
  | .set => old ||| a
  | .clear => old &&& ~~~a

/-- LFPSR takes a word (R175): DRM 5-7 leaves DRM unchanged. Flags that landed in the same cycle are ORed after it (R176). -/
def State.putLfpsr (s : State) (v : Word) : State :=
  s.modLane fun l =>
    { l with
      drm := if (bits 32 3 v).toNat < 5 then bits 32 3 v else l.drm
      flags := bits 0 20 v ||| (if l.freshAt = s.cycle then l.fresh else 0) }

/-- BUFECC clears the bits named (R145). -/
def State.clearBufecc (s : State) (v : Word) : State :=
  s.modBuf fun b =>
    { b with
      cor := b.cor &&& ~~~bits 0 16 v, unc := b.unc &&& ~~~bits 16 16 v, frfix := b.frfix &&& ~~~bits 32 16 v
      iparc := b.iparc &&& ~~~bits 48 16 v }

/-- MXSR clears FV and the flags named, and MIS when any bit of it is named (R269). -/
def Mxsr.clear (x : Mxsr) (v : Word) : Mxsr :=
  { x with
    mis := if bits 48 16 v == 0 then x.mis else 0
    fv := x.fv && !bit 35 v
    nv := x.nv && !bit 3 v
    ovf := x.ovf && !bit 2 v
    unf := x.unf && !bit 1 v
    nx := x.nx && !bit 0 v }

/-- MXSR clears what a word names (R269). -/
def State.clearMxsr (s : State) (v : Word) : State := s.modMx fun m => { m with sr := m.sr.clear v }

/-- SEMST.OV clears when bit 63 is named (R424). -/
def State.clearSemst (s : State) (v : Word) : State := s.modSync fun y => { y with ov := y.ov && !bit 63 v }

/-- TCTL takes TVEC and RE (R468). -/
def State.putTctl (s : State) (v : Word) : State :=
  s.modTrap fun t => { t with tvec := bits 48 16 v, re := bits 8 8 v }

/-- Setting ESC while a handler runs escalates the current trap (R468, R471). -/
def State.escapeTrap (s : State) : State :=
  let t := s.t.ctl.trap
  if t.hnd then
    s.escalate
      { code := bits 0 8 t.cause, arg := 0, slot := bits 12 4 t.cause, async := bit 10 t.cause, lane := bit 9 t.cause, val := t.val }
  else s

/-- A CSR write of a value (R363): where the map ignores it nothing changes; an unassigned address is fault 0x0C. -/
def State.csrPut (s : State) (o : CsrOp) (a : BitVec 12) (v : Word) : State :=
  match s.csrWas a with
  | none => s.raise 0x0C
  | some old =>
    let n := o.apply old v
    match a.toNat with
    | 0x010 => if o == .set && bit 1 v && s.t.ctl.trap.hnd then (s.putTctl n).escapeTrap else s.putTctl n
    | 0x012 => s.modTrap fun t => { t with epc := bits 0 16 n, epcOff := false }
    | 0x015 => s.modTrap fun t => { t with scr := n }
    | 0x020 => s.putLfpsr n
    | 0x022 => if o == .set then s else s.clearMxsr v
    | 0x030 => s.modWinch fun w => { w with errEn := bits 32 4 n, errSem := bits 0 32 n }
    | 0x031 => if o == .set then s else s.clearBufecc v
    | 0x101 => if o == .set then s else s.clearSemst v
    | _ => s

end Sys2Proof.Machine
end

