-- ==== Sys2Proof/Machine/Scalar.lean ====
section
/-!
DEFINITION. The instructions of the S0 and S1 slots (13_control_slice.md R359-R369), and NOP, the empty bundle
(02_bundles.md R28).
-/

namespace Sys2Proof.Machine

open Sys2Proof

/-! ### Shared shapes -/

/-- xD := f(xA), every result modulo 2^64 (R359, R360). -/
def op1 (i : Instr) (xd xa : XReg) (f : Word → Word) (s : State) : Out :=
  .next (s.reading i [xa] fun s => s.setX xd (f (s.x xa)))

/-- xD := f(xA, xB) (R359, R360). -/
def op2 (i : Instr) (xd xa xb : XReg) (f : Word → Word → Word) (s : State) : Out :=
  .next (s.reading i [xa, xb] fun s => s.setX xd (f (s.x xa) (s.x xb)))

/-- Quotient rounded toward zero, -1 by zero (R360). -/
def sdiv (a b : Word) : Word := if b == 0 then BitVec.allOnes 64 else BitVec.ofInt 64 (Int.tdiv a.toInt b.toInt)

/-- Unsigned quotient, all ones by zero (R360). -/
def udiv (a b : Word) : Word := if b == 0 then BitVec.allOnes 64 else BitVec.ofNat 64 (a.toNat / b.toNat)

/-- Remainder of the quotient rounded toward zero, a by zero (R360). -/
def srem (a b : Word) : Word := if b == 0 then a else BitVec.ofInt 64 (Int.tmod a.toInt b.toInt)

/-- Unsigned remainder, a by zero (R360). -/
def urem (a b : Word) : Word := if b == 0 then a else BitVec.ofNat 64 (a.toNat % b.toNat)

/-- A shift count: the low six bits (R360). -/
def count6 (b : Word) : Nat := b.toNat % 64

/-- The field of `len1 + 1` bits at `lsb` (R362). -/
def fieldBits (lsb len1 : BitVec 6) (a : Word) : Nat := (a.toNat / 2 ^ lsb.toNat) % 2 ^ (len1.toNat + 1)

/-- Does a bit field lie inside the word (R362)? -/
def fieldOk (lsb len1 : BitVec 6) : Bool := decide (lsb.toNat + len1.toNat + 1 ≤ 64)

/-- sint of a bit field (R362). -/
def fieldSigned (lsb len1 : BitVec 6) (a : Word) : Word :=
  let v := fieldBits lsb len1 a
  BitVec.ofInt 64 (if v ≥ 2 ^ len1.toNat then (v : Int) - 2 ^ (len1.toNat + 1) else v)

/-- A bit field replaced (R362). -/
def fieldInsert (lsb len1 : BitVec 6) (d a : Word) : Word :=
  let n := len1.toNat + 1
  let m : Nat := 2 ^ lsb.toNat * (2 ^ n - 1)
  (d &&& ~~~BitVec.ofNat 64 m) ||| BitVec.ofNat 64 (2 ^ lsb.toNat * (a.toNat % 2 ^ n))

/-- Width j of WIDW (R368). -/
def widthOfField (w : BitVec 42) (j : Nat) : Nat := (bits (7 * j) 7 w).toNat

/-- Field n of a WID (R362). -/
def widField (w : BitVec 42) (n : Nat) (a : Word) : Word :=
  let lo := (upto n).foldl (fun acc j => acc + widthOfField w j) 0
  BitVec.ofNat 64 (a.toNat / 2 ^ lo % 2 ^ widthOfField w n)

/-! ### The instructions -/

/-- NOP: the empty bundle (02_bundles.md R28) has no effect. -/
def execNop (_k _e : Bool) (s : State) : Out := .next s

/-- ADD (R360). -/
def execAdd (xd xa xb : XReg) (s : State) : Out := op2 (.add xd xa xb) xd xa xb (fun a b => a + b) s
/-- SUB (R360). -/
def execSub (xd xa xb : XReg) (s : State) : Out := op2 (.sub xd xa xb) xd xa xb (fun a b => a - b) s
/-- ADDI (R360). -/
def execAddi (xd xa : XReg) (imm : BitVec 14) (s : State) : Out := op1 (.addi xd xa imm) xd xa (fun a => a + sext64 imm) s
/-- MUL: the low 64 bits (R360). -/
def execMul (xd xa xb : XReg) (s : State) : Out := op2 (.mul xd xa xb) xd xa xb (fun a b => a * b) s
/-- MULH: the high half of the signed product (R360). -/
def execMulh (xd xa xb : XReg) (s : State) : Out :=
  op2 (.mulh xd xa xb) xd xa xb (fun a b => BitVec.ofInt 64 ((a.toInt * b.toInt).fdiv (2 ^ 64))) s
/-- MULHU: the high half of the unsigned product (R360). -/
def execMulhu (xd xa xb : XReg) (s : State) : Out :=
  op2 (.mulhu xd xa xb) xd xa xb (fun a b => BitVec.ofNat 64 (a.toNat * b.toNat / 2 ^ 64)) s
/-- DIV (R360). -/
def execDiv (xd xa xb : XReg) (s : State) : Out := op2 (.div xd xa xb) xd xa xb sdiv s
/-- DIVU (R360). -/
def execDivu (xd xa xb : XReg) (s : State) : Out := op2 (.divu xd xa xb) xd xa xb udiv s
/-- REM (R360). -/
def execRem (xd xa xb : XReg) (s : State) : Out := op2 (.rem xd xa xb) xd xa xb srem s
/-- REMU (R360). -/
def execRemu (xd xa xb : XReg) (s : State) : Out := op2 (.remu xd xa xb) xd xa xb urem s
/-- MIN (R360). -/
def execMin (xd xa xb : XReg) (s : State) : Out :=
  op2 (.min xd xa xb) xd xa xb (fun a b => if a.toInt ≤ b.toInt then a else b) s
/-- MAX (R360). -/
def execMax (xd xa xb : XReg) (s : State) : Out :=
  op2 (.max xd xa xb) xd xa xb (fun a b => if a.toInt ≥ b.toInt then a else b) s
/-- MINU (R360). -/
def execMinu (xd xa xb : XReg) (s : State) : Out :=
  op2 (.minu xd xa xb) xd xa xb (fun a b => if a.toNat ≤ b.toNat then a else b) s
/-- MAXU (R360). -/
def execMaxu (xd xa xb : XReg) (s : State) : Out :=
  op2 (.maxu xd xa xb) xd xa xb (fun a b => if a.toNat ≥ b.toNat then a else b) s
/-- AND (R360). -/
def execAnd (xd xa xb : XReg) (s : State) : Out := op2 (.and xd xa xb) xd xa xb (fun a b => a &&& b) s
/-- OR (R360). -/
def execOr (xd xa xb : XReg) (s : State) : Out := op2 (.or xd xa xb) xd xa xb (fun a b => a ||| b) s
/-- XOR (R360). -/
def execXor (xd xa xb : XReg) (s : State) : Out := op2 (.xor xd xa xb) xd xa xb (fun a b => a ^^^ b) s
/-- ANDI: the immediate taken as 64 bits (R360). -/
def execAndi (xd xa : XReg) (imm : BitVec 14) (s : State) : Out := op1 (.andi xd xa imm) xd xa (fun a => a &&& sext64 imm) s
/-- ORI (R360). -/
def execOri (xd xa : XReg) (imm : BitVec 14) (s : State) : Out := op1 (.ori xd xa imm) xd xa (fun a => a ||| sext64 imm) s
/-- XORI (R360). -/
def execXori (xd xa : XReg) (imm : BitVec 14) (s : State) : Out := op1 (.xori xd xa imm) xd xa (fun a => a ^^^ sext64 imm) s
/-- SHL (R360). -/
def execShl (xd xa xb : XReg) (s : State) : Out := op2 (.shl xd xa xb) xd xa xb (fun a b => a <<< count6 b) s
/-- SHR (R360). -/
def execShr (xd xa xb : XReg) (s : State) : Out := op2 (.shr xd xa xb) xd xa xb (fun a b => a >>> count6 b) s
/-- SRA (R360). -/
def execSra (xd xa xb : XReg) (s : State) : Out := op2 (.sra xd xa xb) xd xa xb (fun a b => a.sshiftRight (count6 b)) s
/-- SHLI (R360). -/
def execShli (xd xa : XReg) (k : BitVec 6) (s : State) : Out := op1 (.shli xd xa k) xd xa (fun a => a <<< k.toNat) s
/-- SHRI (R360). -/
def execShri (xd xa : XReg) (k : BitVec 6) (s : State) : Out := op1 (.shri xd xa k) xd xa (fun a => a >>> k.toNat) s
/-- SRAI (R360). -/
def execSrai (xd xa : XReg) (k : BitVec 6) (s : State) : Out := op1 (.srai xd xa k) xd xa (fun a => a.sshiftRight k.toNat) s
/-- CLZ: 64 for zero (R360). -/
def execClz (xd xa : XReg) (s : State) : Out := op1 (.clz xd xa) xd xa (fun a => BitVec.ofNat 64 (clzN 64 a.toNat)) s
/-- CTZ: 64 for zero (R360). -/
def execCtz (xd xa : XReg) (s : State) : Out := op1 (.ctz xd xa) xd xa (fun a => BitVec.ofNat 64 (ctzN 64 a.toNat)) s
/-- POPC (R360). -/
def execPopc (xd xa : XReg) (s : State) : Out := op1 (.popc xd xa) xd xa (fun a => BitVec.ofNat 64 (popcN 64 a.toNat)) s
/-- SEQ (R360). -/
def execSeq (xd xa xb : XReg) (s : State) : Out := op2 (.seq xd xa xb) xd xa xb (fun a b => b2w (a == b)) s
/-- SNE (R360). -/
def execSne (xd xa xb : XReg) (s : State) : Out := op2 (.sne xd xa xb) xd xa xb (fun a b => b2w (a != b)) s
/-- SLT (R360). -/
def execSlt (xd xa xb : XReg) (s : State) : Out := op2 (.slt xd xa xb) xd xa xb (fun a b => b2w (decide (a.toInt < b.toInt))) s
/-- SLTU (R360). -/
def execSltu (xd xa xb : XReg) (s : State) : Out :=
  op2 (.sltu xd xa xb) xd xa xb (fun a b => b2w (decide (a.toNat < b.toNat))) s
/-- SLTI (R360). -/
def execSlti (xd xa : XReg) (imm : BitVec 14) (s : State) : Out :=
  op1 (.slti xd xa imm) xd xa (fun a => b2w (decide (a.toInt < imm.toInt))) s
/-- SLTIU: the immediate modulo 2^64 (R360). -/
def execSltiu (xd xa : XReg) (imm : BitVec 14) (s : State) : Out :=
  op1 (.sltiu xd xa imm) xd xa (fun a => b2w (decide (a.toNat < (sext64 imm).toNat))) s
/-- WFLD: field n of the WID; n above 5 is fault 0x03 (R362). -/
def execWfld (xd xa : XReg) (n : BitVec 3) (s : State) : Out :=
  if n.toNat < 6 then op1 (.wfld xd xa n) xd xa (fun a => widField s.t.ctl.widw n.toNat a) s else .next (s.raise 0x03)
/-- BFX: a field past bit 63 is fault 0x03 (R362). -/
def execBfx (xd xa : XReg) (lsb len1 : BitVec 6) (s : State) : Out :=
  if fieldOk lsb len1 then op1 (.bfx xd xa lsb len1) xd xa (fieldSigned lsb len1) s else .next (s.raise 0x03)
/-- BFXU (R362). -/
def execBfxu (xd xa : XReg) (lsb len1 : BitVec 6) (s : State) : Out :=
  if fieldOk lsb len1 then op1 (.bfxu xd xa lsb len1) xd xa (fun a => BitVec.ofNat 64 (fieldBits lsb len1 a)) s
  else .next (s.raise 0x03)
/-- BFINS: XD is source and destination (R362). -/
def execBfins (xd xa : XReg) (lsb len1 : BitVec 6) (s : State) : Out :=
  if fieldOk lsb len1 then op2 (.bfins xd xa lsb len1) xd xd xa (fieldInsert lsb len1) s else .next (s.raise 0x03)
/-- LI (R360). -/
def execLi (xd : XReg) (imm : BitVec 14) (s : State) : Out := .next (s.setX xd (sext64 imm))
/-- LIX: the XT immediate (R360). -/
def execLix (xd : XReg) (imm : Word) (s : State) : Out := .next (s.setX xd imm)
/-- ADDX (R360). -/
def execAddx (xd xa : XReg) (imm : Word) (s : State) : Out := op1 (.addx xd xa imm) xd xa (fun a => a + imm) s
/-- ADDSH (R360). -/
def execAddsh (xd xa xb : XReg) (s : State) : Out := op2 (.addsh xd xa xb) xd xa xb (fun a b => a + 16 * b) s

/-- CSRR: an unassigned address is fault 0x0C (R363). -/
def execCsrr (xd : XReg) (csr : BitVec 12) (s : State) : Out :=
  match s.csrWas csr with
  | none => .next (s.raise 0x0C)
  | some v => .next (s.setX xd v)
/-- CSRW (R363). -/
def execCsrw (csr : BitVec 12) (xa : XReg) (s : State) : Out :=
  .next (s.reading (.csrw csr xa) [xa] fun s => s.csrPut .write csr (s.x xa))
/-- CSRS (R363). -/
def execCsrs (csr : BitVec 12) (xa : XReg) (s : State) : Out :=
  .next (s.reading (.csrs csr xa) [xa] fun s => s.csrPut .set csr (s.x xa))
/-- CSRC (R363). -/
def execCsrc (csr : BitVec 12) (xa : XReg) (s : State) : Out :=
  .next (s.reading (.csrc csr xa) [xa] fun s => s.csrPut .clear csr (s.x xa))

/-! ### ACCEPT (R369, 16_launch.md R450, R451, R463) -/

/-- WIDOf (R450): the WID of index k. -/
def widOf (ext : List Nat) (widw : BitVec 42) (k : Nat) : Word :=
  let r := (upto 6).foldl (fun (acc : Nat × Nat × Nat) j =>
    let e := ext.getD j 1
    (acc.1 + acc.2.2 % e * 2 ^ acc.2.1, acc.2.1 + widthOfField widw j, acc.2.2 / e)) (0, 0, k)
  BitVec.ofNat 64 r.1

/-- The launch record of a region of several modules. -/
def State.launchOf (s : State) (r : Region) : Option Launch := s.ctrl.launches.find? fun l => l.lid == r.lid

/-- Has a launch no index left to hand out (R369, R451, R463)? -/
def State.noWork (s : State) (r : Region) : Bool :=
  if r.mm then
    match s.launchOf r with
    | none => true
    | some l =>
      l.held.isEmpty && (l.minority || l.failed.contains s.ctrl.modno || (l.reissue.isEmpty && decide (r.count ≤ 64 * l.nextBatch)))
  else decide (r.count ≤ r.next)

/-- The next index the module can hand out (R451, R463), with the controller's state after it. -/
def State.takeIndex (s : State) (r : Region) : Option (Nat × State) :=
  if r.mm then
    match s.launchOf r with
    | none => none
    | some l =>
      match l.held with
      | [] => none
      | (b, k) :: rest =>
        let last := decide (k + 1 ≥ r.count ∨ k + 1 ≥ 64 * b + 64)
        some (k, s.modCtrl fun c =>
          { c with
            launches := c.launches.map fun x =>
              if x.lid == r.lid then { x with held := if last then rest else (b, k + 1) :: rest } else x })
  else if r.next < r.count then some (r.next, s.modRegion r.id fun r => { r with next := r.next + 1 })
  else none

/-- ACCEPT (R369): a WID already delivered is written, to the first ACCEPT of a bundle the first one; with no work left all ones are; otherwise the control slice waits. -/
def execAccept (xd : XReg) (s : State) : Out :=
  match s.t.ctl.granted.find? fun g => g.1 == .accept with
  | some g =>
    .next ((s.modCtl fun c => { c with granted := c.granted.eraseP fun g => g.1 == .accept }).setX xd g.2.2)
  | none =>
    match s.region with
    | none => .next (s.setX xd (BitVec.allOnes 64))
    | some r => if s.noWork r then .next (s.setX xd (BitVec.allOnes 64)) else .next (s.stall .accept (.accept xd))

/-- Does the stalled bundle wait only for one thing (R31)? The instruction that waits for it. -/
def State.onlyWait (s : State) (w : Wait) : Option Instr :=
  match s.t.ctl.waits with
  | [(v, i)] => if v == w then some i else none
  | _ => none

/-- A satisfied wait: what it took is kept for the bundle, which issues next. -/
def State.grant (s : State) (w : Wait) (i : Instr) (v : Word) : State :=
  (s.modCtl fun c => { c with granted := c.granted ++ [(w, i, v)], waits := [] }).soon (.control s.here)

/-- The ACCEPT that a bundle waits for, when it waits for nothing else: the first of several. -/
def State.acceptWait (s : State) : Option Instr :=
  if s.t.ctl.waits.all fun w => w.1 == .accept then (s.t.ctl.waits.head?).map fun w => w.2 else none

/-- ACCEPT_WID_DELIVER (R369, R451): the distributor gives the lowest index not yet handed out to the waiting ACCEPT, or all ones once the
launch has no more work. -/
def execAcceptWidDeliver (s : State) : Out :=
  match s.acceptWait, s.region with
  | some i, some r =>
    match s.takeIndex r with
    | some (k, s') => .next (s'.grant .accept i (widOf r.ext r.widw k))
    | none => if s.noWork r then .next (s.grant .accept i (BitVec.allOnes 64)) else .next s
  | _, _ => .next s

end Sys2Proof.Machine
end

