-- ==== Sys2Proof/Machine/Branch.lean ====
section
/-!
DEFINITION. The instructions of the BR slot (13_control_slice.md R370-R377).
-/

namespace Sys2Proof.Machine

open Sys2Proof

/-- The address of the branching bundle. -/
def State.pc (s : State) : BitVec 16 := if s.bun.active then s.bun.addr else s.t.ctl.cpc

/-- The address of the next sequential bundle: a bundle of one BR slot has 6 bytes (02_bundles.md R27). -/
def State.nextSeq (s : State) : BitVec 16 :=
  if s.bun.active then BitVec.ofNat 16 s.bun.seq else s.t.ctl.cpc + 6

/-- Continue at an address (R358). -/
def State.goto (s : State) (a : BitVec 16) : State := s.modCtl fun c => { c with cpc := a, off := false }

/-- Does a target lie in the bank of an address, even and below 2^16 (R358)? -/
def targetOk (a : BitVec 16) (t : Int) : Bool :=
  decide (0 ≤ t ∧ t < 65536 ∧ t % 2 = 0) && decide (t.toNat / 32768 = a.toNat / 32768)

/-- Take a branch: a target outside the bank, odd or above 0xFFFF is fault 0x04 (R358). -/
def State.branch (s : State) (t : Int) : State :=
  if targetOk s.pc t then s.goto (BitVec.ofInt 16 t) else s.raiseVal 0x04 (BitVec.ofInt 64 t)

/-- The target of an offset in parcels (R371). -/
def State.target (s : State) (off : BitVec 16) : Int := s.pc.toNat + 2 * off.toInt

/-- A conditional branch (R371): only a branch that is taken checks its target. -/
def condBranch (i : Instr) (xa xb : XReg) (off : BitVec 16) (p : Word → Word → Bool) (s : State) : Out :=
  .next (s.reading i [xa, xb] fun s => if p (s.x xa) (s.x xb) then s.branch (s.target off) else s)

/-- JMP (R371). -/
def execJmp (off : BitVec 16) (s : State) : Out := .next (s.branch (s.target off))
/-- JMPR (R371). -/
def execJmpr (xa : XReg) (s : State) : Out := .next (s.reading (.jmpr xa) [xa] fun s => s.branch (s.x xa).toNat)

/-- A call (R372): the target check comes first, then a full stack is fault 0x05, then the push. -/
def State.call (s : State) (t : Int) : State :=
  if !targetOk s.pc t then s.raiseVal 0x04 (BitVec.ofInt 64 t)
  else if s.t.ctl.ret.length ≥ 16 then s.raise 0x05
  else (s.modCtl fun c => { c with ret := s.nextSeq :: c.ret }).goto (BitVec.ofInt 16 t)

/-- CALL (R372). -/
def execCall (off : BitVec 16) (s : State) : Out := .next (s.call (s.target off))
/-- CALLR (R372). -/
def execCallr (xa : XReg) (s : State) : Out := .next (s.reading (.callr xa) [xa] fun s => s.call (s.x xa).toNat)
/-- RET: an empty stack is fault 0x06 (R372). -/
def execRet (s : State) : Out :=
  match s.t.ctl.ret with
  | [] => .next (s.raise 0x06)
  | a :: rest =>
    if targetOk s.pc a.toNat then .next ((s.modCtl fun c => { c with ret := rest }).goto a)
    else .next (s.raiseVal 0x04 (a.setWidth 64))
/-- BEQ (R371). -/
def execBeq (xa xb : XReg) (off : BitVec 16) (s : State) : Out := condBranch (.beq xa xb off) xa xb off (fun a b => a == b) s
/-- BNE (R371). -/
def execBne (xa xb : XReg) (off : BitVec 16) (s : State) : Out := condBranch (.bne xa xb off) xa xb off (fun a b => a != b) s
/-- BLT (R371). -/
def execBlt (xa xb : XReg) (off : BitVec 16) (s : State) : Out :=
  condBranch (.blt xa xb off) xa xb off (fun a b => decide (a.toInt < b.toInt)) s
/-- BGE (R371). -/
def execBge (xa xb : XReg) (off : BitVec 16) (s : State) : Out :=
  condBranch (.bge xa xb off) xa xb off (fun a b => decide (a.toInt ≥ b.toInt)) s
/-- BLTU (R371). -/
def execBltu (xa xb : XReg) (off : BitVec 16) (s : State) : Out :=
  condBranch (.bltu xa xb off) xa xb off (fun a b => decide (a.toNat < b.toNat)) s
/-- BGEU (R371). -/
def execBgeu (xa xb : XReg) (off : BitVec 16) (s : State) : Out :=
  condBranch (.bgeu xa xb off) xa xb off (fun a b => decide (a.toNat ≥ b.toNat)) s
/-- LOOP (R371): x0 is fault 0x03; a faulting target leaves the counter as it was. -/
def execLoop (xa : XReg) (off : BitVec 16) (s : State) : Out :=
  if xa == 0 then .next (s.raise 0x03)
  else .next (s.reading (.loop xa off) [xa] fun s =>
    if (s.x xa).toNat ≤ 1 then s.setX xa 0
    else if targetOk s.pc (s.target off) then (s.setX xa (s.x xa - 1)).branch (s.target off)
    else s.branch (s.target off))
/-- BSWAP: the other bank must be fetch-visible, or fault 0x07 (R375). -/
def execBswap (idx : BitVec 14) (s : State) : Out :=
  let base : BitVec 16 := if s.pc.getLsbD 15 then 0 else 0x8000
  let t := base + BitVec.ofNat 16 (2 * idx.toNat)
  if s.fv t then .next (s.goto t) else .next (s.raiseVal 0x07 (t.setWidth 64))

/-- The instruction acts when every other slot of its bundle has (R376, R377). -/
def State.later (s : State) (i : Instr) : State := { s with bun := { s.bun with late := some i } }

/-- A TRAP is taken: the return address is where the CPC stands, the next sequential bundle (R376). -/
def State.trapNow (s : State) (n : Byte) : State :=
  s.trapEntry { code := 0x08, arg := n, slot := 3, async := false, lane := false, val := 0 }

/-- TRAP n: the bundle's other slots first, then the trap with code 0x08 and argument n (R376). -/
def execTrap (n : Byte) (s : State) : Out :=
  if s.bun.active then .next (s.later (.trap n)) else .next ((s.goto s.nextSeq).trapNow n)

/-- ERET with no handler running is fault 0x0B (R376); a TEPC that is odd or lies in a bank with FV = 0 is fault 0x04 (R470). TEPC is read as
it stood before the bundle (02_bundles.md R31). -/
def execEret (s : State) : Out :=
  let t := (s.bun.was.getD s.t).ctl.trap
  if !t.hnd then .next (s.raise 0x0B)
  else if t.epc.getLsbD 0 || !s.fv t.epc then .next (s.raiseVal 0x04 (t.epc.setWidth 64))
  else if s.bun.active then .next (s.later .eret) else .next s.leaveHandler

/-- The control slice fetches nothing further (R377). -/
def State.endFetch (s : State) : State := s.modCtl fun c => { c with fetch := .ended }

/-- END inside a handler is fault 0x0B; otherwise fetch ends after the bundle's other slots (R377). -/
def execEndp (s : State) : Out :=
  if s.t.ctl.trap.hnd then .next (s.raise 0x0B)
  else if s.bun.active then .next (s.later .endp) else .next s.endFetch

end Sys2Proof.Machine
end

