-- ==== Sys2Proof/Machine/Net.lean ====
section
/-!
DEFINITION. Channels and packets: route-table entries, channel counters, and the sending of a packet into the fabric
(10_fabric.md R274-R283; 12_leaving_module.md R341).
-/

namespace Sys2Proof.Machine

open Sys2Proof

/-! ### Route-table entries (R280) -/

/-- The entry of a channel. -/
def State.chEnt (s : State) (ch : Byte) : Word := SMap.get 0 s.t.fab.route ch.toNat
/-- V. -/
def chV (e : Word) : Bool := bit 63 e
/-- DIR: receive. -/
def chRecv (e : Word) : Bool := bit 62 e
/-- KIND: static. -/
def chStatic (e : Word) : Bool := bit 61 e
/-- CLS: expedited. -/
def chExp (e : Word) : Bool := bit 60 e
/-- GW. -/
def chGw (e : Word) : Bool := bit 59 e
/-- WIN. -/
def chWin (e : Word) : Nat := (bits 52 7 e).toNat
/-- PCH. -/
def chPch (e : Word) : Byte := bits 44 8 e
/-- X. -/
def chX (e : Word) : Nat := (bits 37 7 e).toNat
/-- Y. -/
def chY (e : Word) : Nat := (bits 30 7 e).toNat
/-- MOD. -/
def chMod (e : Word) : BitVec 12 := bits 18 12 e
/-- SLOT. -/
def chSlot (e : Word) : Nat := (bits 9 9 e).toNat

/-- A windowed send channel. -/
def chSendWin (e : Word) : Bool := chV e && !chRecv e && !chStatic e
/-- A windowed receive channel. -/
def chRecvWin (e : Word) : Bool := chV e && chRecv e && !chStatic e
/-- A static receive channel. -/
def chRecvStat (e : Word) : Bool := chV e && chRecv e && chStatic e

/-! ### Reduction-table entries (11_exact_reduction.md R305) -/

/-- The entry of a reduction id. -/
def State.redEnt (s : State) (id : BitVec 6) : Word := SMap.get 0 s.t.red.table id.toNat
/-- V. -/
def reV (e : Word) : Bool := bit 63 e
/-- PAR: 0 root, 1 N, 2 E, 3 S, 4 W. -/
def rePar (e : Word) : Nat := (bits 60 3 e).toNat
/-- L: the local tile takes part. -/
def reL (e : Word) : Bool := bit 59 e
/-- The child ports: 0 N, 1 E, 2 S, 3 W. -/
def reKids (e : Word) : List Nat := (upto 4).filter fun p => bit (58 - p) e
/-- COUNT. -/
def reCount (e : Word) : Nat := (bits 34 21 e).toNat
/-- IF. -/
def reIn (e : Word) : Nat := (bits 30 4 e).toNat
/-- OP. -/
def reOp (e : Word) : Nat := (bits 27 3 e).toNat
/-- OF. -/
def reOut (e : Word) : Nat := (bits 23 4 e).toNat
/-- TMR. -/
def reTmr (e : Word) : Nat := (bits 19 4 e).toNat
/-- RING. -/
def reRing (e : Word) : Bool := bit 18 e
/-- RCH. -/
def reRch (e : Word) : Byte := bits 10 8 e
/-- RMOD. -/
def reRmod (e : Word) : Nat := (bits 3 7 e).toNat

/-- Does a channel belong to a ring root's switch (11_exact_reduction.md R307)? -/
def State.ringOwned (s : State) (ch : Byte) : Bool :=
  s.t.red.table.any fun x => reV x.2 && reRing x.2 && (reRch x.2 == ch || reRch x.2 + 1 == ch)

/-- The entry as a lane or control-slice instruction may use it: a channel of a ring root is as one absent (R307). -/
def State.userEnt (s : State) (ch : Byte) : Word := if s.ringOwned ch then 0 else s.chEnt ch

/-! ### Channel counters (R283) -/

/-- The counters at launch. -/
def Chan.zero : Chan :=
  { nxt := 0, ack := 0, exp := 0, con := 0, rsv := 0, avl := 0, clm := 0, nak := 0, brk := false, ovr := false, moved := 0 }

/-- The counters of a channel. -/
def State.chan (s : State) (ch : Byte) : Chan := SMap.get Chan.zero s.t.fab.chans ch.toNat

/-- Update the counters of a channel. -/
def State.modChan (s : State) (ch : Byte) (f : Chan → Chan) : State :=
  s.modFab fun b => { b with chans := SMap.set Chan.zero b.chans ch.toNat (f (SMap.get Chan.zero b.chans ch.toNat)) }

/-- INF: flits in flight (R283). -/
def Chan.inf (c : Chan) : Nat := (c.nxt - c.ack).toNat

/-- Flits stored on a static receive channel, oldest first (R288). -/
def State.stored (s : State) (ch : Byte) : List Slot := s.t.fab.recvStore.filter fun x => x.ch == ch

/-! ### Places -/

/-- The logical tile of a region-relative position; `none` outside the region (R448). -/
def State.relTile (s : State) (x y : Nat) : Option Nat :=
  match s.region with
  | none => none
  | some r => if x < r.wd ∧ y < r.ht then some (84 * (r.py + y) + (r.px + x)) else none

/-- The live generation of a logical tile (R274). -/
def State.genOf (s : State) (t : Nat) : Byte := (s.tile t).fab.gen

/-- The live optical ports paired with a module, in increasing number (12_leaving_module.md R341). -/
def State.portsTo (s : State) (m : BitVec 12) : List Nat :=
  (s.ports.filter fun e => e.2.up && (match e.2.peer with | some (q, _) => q == m | none => false)).map fun e => e.1

/-- The physical tiles that carry an optical port (01_module.md R21), as 72*px + py. -/
def portTiles (p : Nat) : List Nat :=
  let row (e : Nat) : Nat := if (e + 1) % 11 < 5 then 12 * ((e + 1) / 11) + (e + 1) % 11 else 12 * ((e + 1) / 11) + (e + 1) % 11 + 1
  if p < 8 then [72 * (10 * p + 9), 72 * (10 * p + 10)]
  else if p < 16 then [72 * (10 * (p - 8) + 9) + 71, 72 * (10 * (p - 8) + 10) + 71]
  else if p < 20 then [row (10 * (p - 16) + 8), row (10 * (p - 16) + 9)]
  else [72 * 83 + row (10 * (p - 20) + 8), 72 * 83 + row (10 * (p - 20) + 9)]

/-- The default logical tile of a physical tile, the inverse of 01_module.md R16; a spare has none. -/
def defaultLogical (ph : Nat) : Option Nat :=
  let px := ph / 72
  let py := ph % 72
  if py % 12 == 5 then none
  else
    let o := 11 * (py / 12) + (if py % 12 < 5 then py % 12 else py % 12 - 1)
    let x := if px % 2 == 0 then px / 2 else 83 - px / 2
    let y := if o % 2 == 0 then o / 2 else 65 - o / 2
    some (84 * y + x)

/-- The logical tile whose home is a physical tile. -/
def State.logicalOf (s : State) (ph : Nat) : Option Nat :=
  match s.ctrl.phys.find? fun e => e.2 == ph with
  | some e => some e.1
  | none =>
    match defaultLogical ph with
    | some t => if (SMap.find? s.ctrl.phys t).isNone then some t else none
    | none => none

/-- Logical links between two tiles, the shorter way round each ring (10_fabric.md R276). -/
def logicalLinks (a b : Nat) : Nat :=
  let ring (n x y : Nat) : Nat := min ((x + n - y) % n) ((y + n - x) % n)
  ring 84 (tileX a) (tileX b) + ring 66 (tileY a) (tileY b)

/-- Of two tiles the one nearer to the present tile, the first at a tie. -/
def State.nearer (s : State) (a b : Nat) : Nat := if logicalLinks s.here b < logicalLinks s.here a then b else a

/-- The logical tile through which records of the present tile reach an optical port: of the port's tiles that are homes, the nearest
(DEDUCED: 12_leaving_module.md R336 has a port take records from both of its tiles and names none for a record). DESIGN CHOICE, log
118: 01_module.md R22 leaves open where records enter or leave a port none of whose tiles is a home (both spliced away and not
retired); the model takes logical tile 0. -/
def State.portTile (s : State) (p : Nat) : Nat :=
  match (portTiles p).filterMap s.logicalOf with
  | [] => 0
  | t :: ts => ts.foldl s.nearer t

/-! ### Sending -/

/-- A packet enters the fabric at the present tile: 2 cycles cross its switch (R275). -/
def State.send (s : State) (dest : Nat) (body : Body) : State :=
  { s with
    net := s.net ++ [{ id := s.nextPacket, at_ := s.here, dest := dest, gen := s.genOf dest, due := s.cycle + 2, src := s.here
                       fails := 0, via := none, body := body }]
    nextPacket := s.nextPacket + 1 }

/-- A body for a peer module enters the fabric towards its port: position CH mod k of the k live ports (R341). Nothing is sent
when no port is live. -/
def State.sendOut (s : State) (m : BitVec 12) (ch : Byte) (cls : Nat) (body : Body) : State :=
  match s.portsTo m with
  | [] => s
  | ps =>
    let p := ps.getD (ch.toNat % ps.length) 0
    let dest := s.portTile p
    { s with
      net := s.net ++ [{ id := s.nextPacket, at_ := s.here, dest := dest, gen := s.genOf dest, due := s.cycle + 2, src := s.here
                         fails := 0, via := some (p, cls, ch), body := body }]
      nextPacket := s.nextPacket + 1 }

/-- Answer a requester: a tile of this module, or (numbers from 2^13 (1 + module)) one of a peer. DEDUCED: the spec binds a channel to a
port (R341) and gives a response no channel; the model lets it go as on channel 0. -/
def State.reply (s : State) (src : Nat) (body : Body) : State :=
  if src < tileCount then s.send src body else s.sendOut (BitVec.ofNat 12 (src / 2 ^ 13 - 1)) 0 6 body

/-! ### Atomics (04_winch.md R116) -/

/-- Bits of an operand size: SZ = 1 is 64 (R116). -/
def sizeBits (sz : Bool) : Nat := if sz then 64 else 32

/-- One atomic at a physical address: the old value, whether it was poisoned, and the state after it (R116, 05_tile_buffers.md
R139). -/
def State.atomicAt (s : State) (a : Nat) (op : AOp) (sz : Bool) (b cmp : Word) (dig : Bool) : Word × Bool × State :=
  let n := sizeBits sz
  let (bs, s) := s.readAt (run a (n / 8))
  let old := valueOf bs
  let p := anyPoison bs
  let new := amoNew op n old (b.toNat % 2 ^ n) (cmp.toNat % 2 ^ n)
  let cells := cellsOf a ((toBytes (n / 8) new).map fun x => (x, p))
  (BitVec.ofNat 64 old, p, if dig then s.storeAt cells else s.writeAt cells)

end Sys2Proof.Machine
end

