-- ==== Sys2Proof/Machine/ScalarMem.lean ====
section
/-!
DEFINITION. The instructions of the SM slot: loads, stores and atomics (13_control_slice.md R378-R381), channel reservation and
claims (10_fabric.md R283, R298, R299), remote atomics (R300-R302), and the events that complete them.
-/

namespace Sys2Proof.Machine

open Sys2Proof

/-! ### Loads and stores -/

/-- A fault raised by a read that found poison (05_tile_buffers.md R138): what the read found in the buffer stays. -/
def State.poisonFault (s s' : State) (as : List Nat) (val : Word) : State :=
  if s.bun.active then { s with bun := { s.bun with touch := s.bun.touch ++ as } }.raiseVal 0x80 val
  else s'.raiseVal 0x80 val

/-- The bytes of a tile's own buffers as program order compares them (14_memory_model.md R399): C above both sides of A, each by its
effective address. -/
def ramoPlace (cbuf : Bool) (ea : Nat) : Nat := (if cbuf then 2 ^ 21 else 0) + ea

/-- Must an access of a class to some bytes of a home wait for an earlier RAMO that has not performed: one of its class, or to its location
(14_memory_model.md R399, R400)? DEDUCED (notes/assumptions/135.md): a RAMO has performed when its response returns, and a deterministic
one, which its home holds to the end of the phase, keeps no later access waiting. -/
def State.ramoBlocks (s : State) (cls : BitVec 4) (home place size : Nat) : Bool :=
  s.t.fab.ramos.any fun o =>
    o.resp.isNone && !o.det && (o.cls == cls || (o.home == home && decide (o.place < place + size ∧ place < o.place + o.size)))

/-- An access of the control slice to its own buffers, once the RAMOs before it have performed. -/
def State.afterRamos (s : State) (i : Instr) (cls : BitVec 4) (cbuf : Bool) (ea : Word) (size : Nat) (k : State → State) : State :=
  if s.ramoBlocks cls s.here (ramoPlace cbuf ea.toNat) size then s.stall .ramo i else k s

/-- A load of `size` bytes into xD (R379): a poisoned word is fault 0x80 and leaves xD as it was (R381). -/
def loadOp (i : Instr) (m : SmAddr) (xd : XReg) (size : Nat) (f : Nat → Word) (s : State) : Out :=
  .next (s.reading i [m.xa] fun s =>
    let ea := s.smEa m size
    match s.smAt m.cbuf ea size with
    | .error c => s.raiseVal c ea
    | .ok a =>
      s.afterRamos i m.cls m.cbuf ea size fun s =>
        let (bs, s') := s.readAt (run a size)
        if anyPoison bs then s.poisonFault s' (run a size) ea else s'.setX xd (f (valueOf bs)))

/-- A store of the low `size` bytes of xD (R379). -/
def storeOp (i : Instr) (m : SmAddr) (xd : XReg) (size : Nat) (s : State) : Out :=
  .next (s.reading i [m.xa, xd] fun s =>
    let ea := s.smEa m size
    match s.smAt m.cbuf ea size with
    | .error c => s.raiseVal c ea
    | .ok a =>
      s.afterRamos i m.cls m.cbuf ea size fun s => s.storeAt (cellsOf a (clean (toBytes size (s.x xd).toNat))))

/-- sint of a loaded value of n bits. -/
def signExt (n v : Nat) : Word := (BitVec.ofNat n v).signExtend 64

/-- LDB (R379). -/
def execLdb (m : SmAddr) (xd : XReg) (s : State) : Out := loadOp (.ldb m xd) m xd 1 (signExt 8) s
/-- LDBU (R379). -/
def execLdbu (m : SmAddr) (xd : XReg) (s : State) : Out := loadOp (.ldbu m xd) m xd 1 (BitVec.ofNat 64) s
/-- LDH (R379). -/
def execLdh (m : SmAddr) (xd : XReg) (s : State) : Out := loadOp (.ldh m xd) m xd 2 (signExt 16) s
/-- LDHU (R379). -/
def execLdhu (m : SmAddr) (xd : XReg) (s : State) : Out := loadOp (.ldhu m xd) m xd 2 (BitVec.ofNat 64) s
/-- LDW (R379). -/
def execLdw (m : SmAddr) (xd : XReg) (s : State) : Out := loadOp (.ldw m xd) m xd 4 (signExt 32) s
/-- LDWU (R379). -/
def execLdwu (m : SmAddr) (xd : XReg) (s : State) : Out := loadOp (.ldwu m xd) m xd 4 (BitVec.ofNat 64) s
/-- LDD (R379). -/
def execLdd (m : SmAddr) (xd : XReg) (s : State) : Out := loadOp (.ldd m xd) m xd 8 (BitVec.ofNat 64) s
/-- STB (R379). -/
def execStb (m : SmAddr) (xd : XReg) (s : State) : Out := storeOp (.stb m xd) m xd 1 s
/-- STH (R379). -/
def execSth (m : SmAddr) (xd : XReg) (s : State) : Out := storeOp (.sth m xd) m xd 2 s
/-- STW (R379). -/
def execStw (m : SmAddr) (xd : XReg) (s : State) : Out := storeOp (.stw m xd) m xd 4 s
/-- STD (R379). -/
def execStd (m : SmAddr) (xd : XReg) (s : State) : Out := storeOp (.std m xd) m xd 8 s

/-! ### Atomics -/

/-- One atomic on a 64-bit word (R380): the compare value of AMOCAS is xD at issue; the old value goes to xD. -/
def amoOp (i : Instr) (op : AOp) (m : SmAtom) (xd xb : XReg) (s : State) : Out :=
  .next (s.reading i (if op == .cas then [m.xa, xb, xd] else [m.xa, xb]) fun s =>
    let ea := s.x m.xa
    match s.smAt m.cbuf ea 8 with
    | .error c => s.raiseVal c ea
    | .ok a =>
      s.afterRamos i m.cls m.cbuf ea 8 fun s =>
        let r := s.atomicAt a op true (s.x xb) (s.x xd) true
        if r.2.1 then s.poisonFault (s.readAt (run a 8)).2 (run a 8) ea else r.2.2.setX xd r.1)

/-- AMOADD (R380). -/
def execAmoadd (m : SmAtom) (xd xb : XReg) (s : State) : Out := amoOp (.amoadd m xd xb) .add m xd xb s
/-- AMOAND (R380). -/
def execAmoand (m : SmAtom) (xd xb : XReg) (s : State) : Out := amoOp (.amoand m xd xb) .and m xd xb s
/-- AMOOR (R380). -/
def execAmoor (m : SmAtom) (xd xb : XReg) (s : State) : Out := amoOp (.amoor m xd xb) .or m xd xb s
/-- AMOXOR (R380). -/
def execAmoxor (m : SmAtom) (xd xb : XReg) (s : State) : Out := amoOp (.amoxor m xd xb) .xor m xd xb s
/-- AMOMIN (R380). -/
def execAmomin (m : SmAtom) (xd xb : XReg) (s : State) : Out := amoOp (.amomin m xd xb) .min m xd xb s
/-- AMOMAX (R380). -/
def execAmomax (m : SmAtom) (xd xb : XReg) (s : State) : Out := amoOp (.amomax m xd xb) .max m xd xb s
/-- AMOMINU (R380). -/
def execAmominu (m : SmAtom) (xd xb : XReg) (s : State) : Out := amoOp (.amominu m xd xb) .minu m xd xb s
/-- AMOMAXU (R380). -/
def execAmomaxu (m : SmAtom) (xd xb : XReg) (s : State) : Out := amoOp (.amomaxu m xd xb) .maxu m xd xb s
/-- AMOSWAP (R380). -/
def execAmoswap (m : SmAtom) (xd xb : XReg) (s : State) : Out := amoOp (.amoswap m xd xb) .swap m xd xb s
/-- AMOCAS (R380). -/
def execAmocas (m : SmAtom) (xd xb : XReg) (s : State) : Out := amoOp (.amocas m xd xb) .cas m xd xb s

/-! ### Channels -/

/-- A grant the present bundle already holds. -/
def State.granted (s : State) (w : Wait) : Bool := s.t.ctl.granted.any fun g => g.1 == w

/-- The bundle has used a grant. -/
def State.useGrant (s : State) (w : Wait) : State :=
  s.modCtl fun c => { c with granted := c.granted.filter fun g => g.1 != w }

/-- Room for n more reservations (R283). -/
def State.canReserve (s : State) (ch : Byte) (n : Nat) : Bool :=
  let c := s.chan ch
  decide (c.inf + c.rsv + n ≤ chWin (s.chEnt ch))

/-- CHRSV takes its reservation (R283). -/
def State.reserve (s : State) (ch : Byte) (n : Nat) : State := s.modChan ch fun c => { c with rsv := c.rsv + n }

/-- CHWAIT claims arrived flits (R283). -/
def State.claimFlits (s : State) (ch : Byte) (n : Nat) : State :=
  s.modChan ch fun c => { c with avl := c.avl - n, clm := c.clm + n }

/-- CHRSV (R283, R298). -/
def execChrsv (ch : Byte) (xa : XReg) (s : State) : Out :=
  .next (s.reading (.chrsv ch xa) [xa] fun s =>
    let e := s.userEnt ch
    let n := (s.x xa).toNat
    if !chSendWin e then s.raise 0x64
    else if n > chWin e then s.raiseVal 0x65 (s.x xa)
    else if s.granted .chrsv then s.useGrant .chrsv
    else if s.canReserve ch n then s.reserve ch n
    else s.stall .chrsv (.chrsv ch xa))

/-- CHRSV_GRANT (R283, R285): the waiting CHRSV takes its reservation and its bundle issues. -/
def execChrsvGrant (s : State) : Out :=
  match s.onlyWait .chrsv with
  | some (.chrsv ch xa) =>
    if s.canReserve ch (s.x xa).toNat then
      .next ((s.reserve ch (s.x xa).toNat).grant .chrsv (.chrsv ch xa) (s.x xa))
    else .next s
  | _ => .next s

/-- CHREL (R298): n = 0 means every one. -/
def execChrel (ch : Byte) (xa : XReg) (s : State) : Out :=
  .next (s.reading (.chrel ch xa) [xa] fun s =>
    let e := s.userEnt ch
    let n := (s.x xa).toNat
    if chSendWin e then s.escape.modChan ch fun c => { c with rsv := if n = 0 then 0 else c.rsv - n }
    else if chRecvWin e then
      s.escape.modChan ch fun c =>
        let k := if n = 0 then c.clm else min n c.clm
        { c with clm := c.clm - k, avl := c.avl + k }
    else if chRecvStat e then
      let all := (s.stored ch).length
      let k := if n = 0 then all else min n all
      let kept := (s.stored ch).drop k
      (s.escape.modFab fun f =>
        { f with recvStore := (f.recvStore.filter fun x => x.ch != ch) ++ kept }).modChan ch fun c => { c with ovr := false }
    else s.raise 0x64)

/-- CHWAIT (R283, R298); it escapes (15_sync_time_phases.md R434). -/
def execChwait (ch : Byte) (xa : XReg) (s : State) : Out :=
  .next (s.reading (.chwait ch xa) [xa] fun s =>
    let e := s.userEnt ch
    let n := (s.x xa).toNat
    if !chRecvWin e then s.raise 0x64
    else if n > chWin e then s.raiseVal 0x65 (s.x xa)
    else if s.granted .chwait then (s.useGrant .chwait).escape
    else if n ≤ (s.chan ch).avl then (s.claimFlits ch n).escape
    else s.stall .chwait (.chwait ch xa))

/-- CHWAIT_GRANT (R283, R285): the waiting CHWAIT claims its flits and its bundle issues. -/
def execChwaitGrant (s : State) : Out :=
  match s.onlyWait .chwait with
  | some (.chwait ch xa) =>
    if (s.x xa).toNat ≤ (s.chan ch).avl then
      .next ((s.claimFlits ch (s.x xa).toNat).grant .chwait (.chwait ch xa) (s.x xa))
    else .next s
  | _ => .next s

/-- The CHSTAT status word (R299). -/
def State.chstat (s : State) (ch : Byte) : Word :=
  let e := s.chEnt ch
  let c := s.chan ch
  let recv := chRecv e
  BitVec.ofNat 64 ((if chV e then 2 ^ 63 else 0) + (if recv then 2 ^ 62 else 0) + (if chStatic e then 2 ^ 61 else 0)
    + (if c.brk then 2 ^ 60 else 0) + (if c.ovr then 2 ^ 59 else 0) + 2 ^ 52 * chWin e
    + 2 ^ 36 * (if recv then c.exp else c.nxt).toNat + 2 ^ 20 * (if recv then c.con else c.ack).toNat
    + 2 ^ 13 * (if recv then c.clm else c.rsv)
    + 2 ^ 6 * (if !recv then c.inf else if chStatic e then (s.stored ch).length else c.avl) + c.nak.toNat)

/-- CHSTAT (R298, R299). -/
def execChstat (xd : XReg) (ch : Byte) (s : State) : Out := .next (s.setX xd (s.chstat ch))

/-! ### Remote atomics (R300-R302) -/

/-- A RAMO target that keeps R98 and R300: the home tile (here for a local one), or a gateway channel. -/
inductive RamoHome where
  | tile (t : Nat)
  | gateway (ch : Byte)
deriving DecidableEq, Repr

/-- The home of a RAMO (R98, R300); `none` is fault 0x66. -/
def State.ramoHome (s : State) (l : Word) (sz : Bool) : Option RamoHome :=
  let b := locBuf l
  let o := locOff l
  let size := sizeBits sz / 8
  if !(b == .a || b == .c) || (locSide l && b != .a) || bits 20 16 l != 0 || o % size != 0 || decide (o + size > b.size) then none
  else if locSp l == 0 then (if bits 36 23 l == 0 then some (.tile s.here) else none)
  else if locSp l == 1 then
    if locG l then
      if bits 36 14 l == 0 && chV (s.chEnt (locCh l)) && chGw (s.chEnt (locCh l)) then some (.gateway (locCh l)) else none
    else if locCh l != 0 then none else (s.relTile (locX l) (locY l)).map RamoHome.tile
  else none

/-- Where a RAMO acts, as program order compares locations: the home, a gateway channel beyond every tile. -/
def RamoHome.number : RamoHome → Nat
  | .tile t => t
  | .gateway ch => tileCount + ch.toNat

/-- The request of a RAMO. -/
def State.ramoReq (s : State) (l : Word) (aop : AOp) (sz det : Bool) (b cmp : Word) : RamoReq :=
  { src := s.here, rid := s.t.fab.nextRid, cbuf := locBuf l == .c, side := locSide l, off := bits 0 20 l, aop := aop, sz := sz
    det := det
    phn := s.t.sync.phn, b := b, cmp := cmp }

/-- The effective address of a location in A or C (13_control_slice.md R378). -/
def ramoEa (l : Word) : Nat := locOff l + (if locBuf l == .a && locSide l then 2 ^ 20 else 0)

/-- How many RAMOs are outstanding (R301). -/
def State.ramosOut (s : State) : Nat := (s.t.fab.ramos.filter fun o => o.resp.isNone).length

/-- RAMO (R300-R302): at most 16 are outstanding; without DET it escapes (15_sync_time_phases.md R434). It waits for the RAMOs that are
ordered before it (14_memory_model.md R399, R400). -/
def execRamo (cls : BitVec 4) (xd xa : XReg) (aop : AOp) (sz det : Bool) (xb : XReg) (s : State) : Out :=
  .next (s.reading (.ramo cls xd xa aop sz det xb) (if aop == .cas then [xa, xb, xd] else [xa, xb]) fun s =>
    let l := s.x xa
    match s.ramoHome l sz with
    | none => s.raiseVal 0x66 l
    | some h =>
      let gw := match h with
        | .gateway _ => true
        | .tile _ => false
      if det && (!s.t.sync.det || !s.t.sync.inph || gw) then s.raiseVal 0x67 l
      else if s.ramosOut ≥ 16 || s.ramoBlocks cls h.number (ramoPlace (locBuf l == .c) (ramoEa l)) (sizeBits sz / 8) then
        s.stall .ramo (.ramo cls xd xa aop sz det xb)
      else
        let r := s.ramoReq l aop sz det (s.x xb) (s.x xd)
        let s := s.setX xd (SMap.get 0 s.t.ctl.x xd.toNat)
        let s := s.modFab fun f =>
          { f with
            nextRid := f.nextRid + 1
            ramos := f.ramos ++
              [{ rid := r.rid, cls := cls, xd := xd, det := det, gateway := gw, home := h.number
                 place := ramoPlace (locBuf l == .c) (ramoEa l), size := sizeBits sz / 8, held := false, resp := none }] }
        let s := if det then s else s.escape
        match h with
        | .tile t => s.send t (.ramo r)
        | .gateway ch => s.sendOut (chMod (s.chEnt ch)) ch 7 (.ramo r))

/-- The response of a RAMO returns to its requester (R301). -/
def State.ramoReply (s : State) (r : RamoReq) (old : Word) (p : Bool) : State :=
  s.reply r.src (.ramoResp { rid := r.rid, old := old, poison := p })

/-- A RAMO is performed at its home, as one action on its word (R301). -/
def State.ramoDo (s : State) (r : RamoReq) : State :=
  let a := s.t.buf.addr r.cbuf r.side r.off.toNat
  let (old, p, s) := s.atomicAt a r.aop r.sz r.b r.cmp false
  s.ramoReply r old p

/-- RAMO_HOME_PERFORM (R301, R302): a deterministic request is held for the phase barrier; above 1024 it is region error 0x68. -/
def execRamoHomePerform (r : RamoReq) (s : State) : Out :=
  if r.det then
    if (s.t.fab.held.filter fun x => x.phn == r.phn).length ≥ 1024 then
      .next (s.escalate { code := 0x68, arg := 0, slot := 15, async := false, lane := false, val := 0 })
    else .next (s.modFab fun f => { f with held := f.held ++ [r] })
  else .next (s.ramoDo r)

/-- The old value of a RAMO is written to its register, and a poisoned one marks it (R301). -/
def State.ramoReturn (s : State) (o : RamoOut) (old : Word) (poison : Bool) : State :=
  let s := s.modFab fun f => { f with ramos := f.ramos.filter fun x => x.rid != o.rid }
  if o.xd == 0 then s
  else (s.setX o.xd old).modCtl fun c => { c with xpois := setBits o.xd.toNat 1 c.xpois (BitVec.ofBool poison) }

/-- RAMO_RESPONSE (R301): the old value is written to xD. While the bundle that issued the RAMO still waits, the response waits with
it. -/
def execRamoResponse (r : RamoResp) (s : State) : Out :=
  match s.t.fab.ramos.find? fun o => o.rid == r.rid with
  | none => .next s
  | some o =>
    if o.held then
      .next (s.modFab fun f =>
        { f with ramos := f.ramos.map fun o => if o.rid == r.rid then { o with resp := some (r.old, r.poison) } else o })
    else .next (s.ramoReturn o r.old r.poison)

/-- Order of two held requests: region-relative y, then x of the requester, then issue order (R302). -/
def heldBefore (a b : RamoReq) : Bool :=
  decide (a.src < b.src ∨ (a.src = b.src ∧ a.rid ≤ b.rid))

/-- Insert a request in order. -/
def insertHeld (a : RamoReq) : List RamoReq → List RamoReq
  | [] => [a]
  | b :: rest => if heldBefore a b then a :: b :: rest else b :: insertHeld a rest

end Sys2Proof.Machine
end

