-- ==== Sys2Proof/Machine/SyncOps.lean ====
section
/-!
DEFINITION. The SY-slot instructions for semaphores, barriers, word waits, time, fences and digests
(15_sync_time_phases.md R421-R430, R442; 14_memory_model.md R402-R410; 13_control_slice.md R373).
-/

namespace Sys2Proof.Machine

open Sys2Proof

/-! ### Scopes (14_memory_model.md R406) -/

/-- Have the RAMOs that a scope waits for all returned (R406)? `p` selects the RAMOs asked about. -/
def State.ramosDone (s : State) (scope : BitVec 2) (p : RamoOut → Bool) : Bool :=
  s.t.fab.ramos.all fun o => !p o || o.resp.isSome || scope == 0 || (scope != 3 && o.gateway)

/-- Run a signal of the control slice once its scope allows it (R409). -/
def State.signal (s : State) (i : Instr) (k : State → State) : State :=
  if s.ramosDone s.bun.scope (fun _ => true) then k s else s.stall .ramo i

/-- A lane slot that tests predicate bit 0 (02_bundles.md R44). `chk` are the checks that its decoding makes, whether it is performed or not
(R37); a slot that is not performed names the streams of its operands all the same (R36). -/
def State.wholeChk (s : State) (g : OptGuard) (chk : Except Byte Unit) (srcs dsts : List Nat) (k : State → Except Byte State) : State :=
  s.slot (do
    chk
    let t ← s.guard g
    if t 0 then k s else pure (s.naming srcs dsts))

/-- A lane slot that tests predicate bit 0 and names no stream. -/
def State.whole (s : State) (g : OptGuard) (k : State → Except Byte State) : State := s.wholeChk g (.ok ()) [] [] k

/-- The cycle after the last lane write in flight has performed, or the present one (R409). -/
def State.afterWrites (s : State) : Nat := s.t.lane.pending.foldl (fun d w => max d (w.due + 1)) s.cycle

/-- Queue a lane signal (R409). -/
def State.queueAt (s : State) (due : Nat) (t : LaneTarget) : State :=
  s.modLane fun l => { l with pending := l.pending ++ [{ due := due, issued := s.cycle, target := t }] }

/-! ### Semaphores (R422) -/

/-- SEMSIG (R422); a lane SEMSIG is applied after the last earlier lane write (R409). -/
def execSemsig (h : SyHead) (sem : Byte) (inc : BitVec 12) (s : State) : Out :=
  if h.lane then .next (s.whole h.guard fun s => .ok (s.queueAt s.afterWrites (.sem sem inc.toNat)))
  else .next (s.signal (.semsig h sem inc) fun s => s.semAdd sem inc.toNat false)

/-- Is a threshold or value within 16 bits (R421)? -/
def fits16 (v : Word) : Bool := decide (v.toNat < 65536)

/-- SEMWAIT (R422). -/
def execSemwait (sem : Byte) (xa : XReg) (s : State) : Out :=
  .next (s.reading (.semwait sem xa) [xa] fun s =>
    let t := s.x xa
    if !fits16 t then s.raiseVal 0x03 t
    else if s.granted .semwait then s.useGrant .semwait
    else if t.toNat ≤ (s.sem sem).toNat then s.setSem sem (s.sem sem - t.setWidth 16)
    else s.stall .semwait (.semwait sem xa))

/-- SEMWAIT_SATISFY (R422, R423): the waiting SEMWAIT takes its count and its bundle issues. -/
def execSemwaitSatisfy (s : State) : Out :=
  match s.onlyWait .semwait with
  | some (.semwait sem xa) =>
    let t := s.x xa
    if t.toNat ≤ (s.sem sem).toNat then
      .next ((s.setSem sem (s.sem sem - t.setWidth 16)).grant .semwait (.semwait sem xa) t)
    else .next s
  | _ => .next s

/-- SEMSET (R422). -/
def execSemset (sem : Byte) (xa : XReg) (s : State) : Out :=
  .next (s.reading (.semset sem xa) [xa] fun s =>
    if !fits16 (s.x xa) then s.raiseVal 0x03 (s.x xa)
    else s.signal (.semset sem xa) fun s => s.setSem sem ((s.x xa).setWidth 16))

/-- SEMRD (R422). -/
def execSemrd (xd : XReg) (sem : Byte) (s : State) : Out := .next (s.setX xd ((s.sem sem).setWidth 64))

/-! ### Barriers (R425, R426) -/

/-- The wait ticket of a barrier. -/
def State.ticket (s : State) (nb : BitVec 7) : BitVec 16 := SMap.get 0 s.t.sync.wt nb.toNat

/-- Set the wait ticket. -/
def State.setTicket (s : State) (nb : BitVec 7) (v : BitVec 16) : State :=
  s.modSync fun y => { y with wt := SMap.set 0 y.wt nb.toNat v }

/-- Has an episode been released past the ticket (R425)? -/
def State.released (s : State) (nb : BitVec 7) : Bool :=
  let d := ((s.bar nb).done - s.ticket nb).toNat
  decide (1 ≤ d ∧ d ≤ 32767)

/-- Lane arrivals at a barrier that have not been applied yet. -/
def State.pendingArrivals (s : State) (nb : BitVec 7) : Nat :=
  (s.t.lane.pending.filter fun w => w.target == .arrive nb).length

/-- The fault of a local arrival, arrivals in flight counted (R331). -/
def State.arriveRefused (s : State) (nb : BitVec 7) : Option Byte :=
  let b := s.bar nb
  if !b.valid || b.count == 0 then some 0xAA
  else if b.pend + s.pendingArrivals nb + 1 > 2 * b.count then some 0xA9 else none

/-- ARRIVE (R425); it escapes (R434). A lane ARRIVE is applied after the last earlier lane write (R409). -/
def execArrive (h : SyHead) (nb : BitVec 7) (s : State) : Out :=
  if h.lane then
    .next (s.whole h.guard fun s =>
      match s.arriveRefused nb with
      | some c => .error c
      | none => .ok ((s.queueAt s.afterWrites (.arrive nb)).escape))
  else
    .next (match s.arriveRefused nb with
      | some c => s.raise c
      | none => s.signal (.arrive h nb) fun s => s.escape.arriveAt nb)

/-- WAIT (R425): an entry with V = 0 is fault 0xAA. -/
def execWait (nb : BitVec 7) (s : State) : Out :=
  .next (if !(s.bar nb).valid then s.raise 0xAA
    else if s.granted .barrier then s.useGrant .barrier
    else if s.released nb then s.setTicket nb (s.ticket nb + 1)
    else s.stall .barrier (.wait nb))

/-- ARRWAIT's arrival is made once, when nothing but the barrier holds its bundle. -/
def State.arriveOnce (s : State) (nb : BitVec 7) : State :=
  (s.escape.arriveAt nb).modCtl fun c => { c with granted := c.granted ++ [(.arrived, .arrwait nb, nb.setWidth 64)] }

/-- Has the waiting ARRWAIT made its arrival? -/
def State.hasArrived (s : State) (nb : BitVec 7) : Bool :=
  s.t.ctl.granted.any fun g => g.1 == .arrived && g.2.2 == nb.setWidth 64

/-- ARRWAIT (R425): ARRIVE, then WAIT. Its arrival is made when the bundle first waits, and not again when it is reissued. -/
def execArrwait (nb : BitVec 7) (s : State) : Out :=
  .next (if s.granted .barrier then (s.useGrant .barrier).useGrant .arrived
    else if s.hasArrived nb then
      if s.released nb then (s.useGrant .arrived).setTicket nb (s.ticket nb + 1) else s.stall .barrier (.arrwait nb)
    else
      match s.arriveRefused nb with
      | some c => s.raise c
      | none =>
        s.signal (.arrwait nb) fun s =>
          if s.released nb then (s.escape.arriveAt nb).setTicket nb (s.ticket nb + 1)
          else (if s.bun.active then s else s.arriveOnce nb).stall .barrier (.arrwait nb))

/-- BARRIER_WAIT_SATISFY (R425): the waiting WAIT or ARRWAIT consumes one released episode and its bundle issues. -/
def execBarrierWaitSatisfy (s : State) : Out :=
  match s.onlyWait .barrier with
  | some (.wait nb) =>
    if s.released nb then .next ((s.setTicket nb (s.ticket nb + 1)).grant .barrier (.wait nb) 0) else .next s
  | some (.arrwait nb) =>
    if s.released nb && s.hasArrived nb then
      .next ((s.setTicket nb (s.ticket nb + 1)).grant .barrier (.arrwait nb) 0)
    else .next s
  | _ => .next s

/-- The BARSET status (R426). -/
def State.barStatus (s : State) (nb : BitVec 7) : Word :=
  let b := s.bar nb
  BitVec.ofNat 64 (2 ^ 48 * b.done.toNat + 2 ^ 32 * (s.ticket nb).toNat + 2 ^ 15 * (b.pend % 2 ^ 17)
    + (if b.valid then 2 ^ 14 else 0))

/-- BARSET (R426). -/
def execBarset (xd : XReg) (nb : BitVec 7) (xa : XReg) (w : Bool) (s : State) : Out :=
  .next (s.reading (.barset xd nb xa w) [xa] fun s =>
    let s' := s.setX xd (s.barStatus nb)
    if w then s'.setTicket nb (bits 0 16 (s.x xa)) else s')

/-! ### Waiting on a word (R427) -/

/-- The word of a WAITA and whether it is poisoned. -/
def State.waitaRead (s : State) (a : Nat) (sz : Bool) : Nat × Bool × State :=
  let (bs, s') := s.readAt (run a (sizeBits sz / 8))
  (valueOf bs, anyPoison bs, s')

/-- Does a word end the wait (R427)? -/
def waitaHit (w : Nat) (v : Word) (ne sz : Bool) : Bool := (w == v.toNat % 2 ^ sizeBits sz) != ne

/-- The cycle at which the wait began: the first issue of its bundle. -/
def State.waitStart (s : State) : Nat := if s.t.ctl.waits.isEmpty then s.cycle else s.t.ctl.waitFrom

/-- Has the timeout of a WAITA passed (R427)? -/
def State.waitaOver (s : State) (tmo : Bool) (t : Word) : Bool := tmo && decide (s.cycle ≥ s.waitStart + t.toNat)

/-- The word a WAITA tests: where a location lies, or the word it has watched since its issue (R427). -/
def State.waitaPlace (s : State) (l : Word) (sz : Bool) : Option Nat :=
  (s.localPlace l (sizeBits sz / 8)).map fun a => if s.t.ctl.waits.any fun w => w.1 == .waita then s.t.ctl.waitAt else a

/-- WAITA (R427): any other location than an aligned local A or C one is fault 0x11. -/
def execWaita (xd xa xb : XReg) (ne sz tmo : Bool) (s : State) : Out :=
  .next (s.reading (.waita xd xa xb ne sz tmo) (if tmo then [xa, xb, xd] else [xa, xb]) fun s =>
    match s.waitaPlace (s.x xa) sz with
    | none => s.raiseVal 0x11 (s.x xa)
    | some a =>
      match s.t.ctl.granted.find? fun g => g.1 == .waita with
      | some g => (s.useGrant .waita).setX xd g.2.2
      | none =>
        let (w, p, s') := s.waitaRead a sz
        if p then s.poisonFault s' (run a (sizeBits sz / 8)) (s.x xa)
        else if waitaHit w (s.x xb) ne sz then s'.setX xd 0
        else if s.waitaOver tmo (s.x xd) then s'.setX xd 1
        else s.stall .waita (.waita xd xa xb ne sz tmo))

/-- WAITA_WAKE (R427): the word satisfies the waiting WAITA. A poisoned word is found by its reissue. -/
def execWaitaWake (s : State) : Out :=
  match s.onlyWait .waita with
  | some (.waita xd xa xb ne sz tmo) =>
    match s.waitaPlace (s.x xa) sz with
    | none => .next s
    | some a =>
      let (w, p, s') := s.waitaRead a sz
      if p then .next (s.soon (.control s.here))
      else if waitaHit w (s.x xb) ne sz then .next (s'.grant .waita (.waita xd xa xb ne sz tmo) 0)
      else .next s
  | _ => .next s

/-- WAITA_TIMEOUT (R427): the timeout cycle of the waiting WAITA has come. -/
def execWaitaTimeout (s : State) : Out :=
  match s.onlyWait .waita with
  | some (.waita xd xa xb ne sz tmo) =>
    if s.waitaOver tmo (s.x xd) then .next (s.grant .waita (.waita xd xa xb ne sz tmo) 1) else .next s
  | _ => .next s

/-! ### Time (R428, R429) -/

/-- RDTIME (R428). -/
def execRdtime (xd : XReg) (s : State) : Out := .next (s.setX xd s.clock.mtime)

/-- Has MTIME reached a target (R429)? -/
def State.reached (s : State) (t : Word) : Bool := !(s.clock.mtime - t).getLsbD 63

/-- WAITT (R429): a target already passed completes at once. -/
def execWaitt (xa : XReg) (s : State) : Out :=
  .next (s.reading (.waitt xa) [xa] fun s =>
    if s.granted .waitt then s.useGrant .waitt
    else if s.reached (s.x xa) then s else s.stall .waitt (.waitt xa))

/-- WAITT_COMPLETE (R429). -/
def execWaittComplete (s : State) : Out :=
  match s.onlyWait .waitt with
  | some (.waitt xa) => if s.reached (s.x xa) then .next (s.grant .waitt (.waitt xa) 0) else .next s
  | _ => .next s

/-! ### Fences -/

/-- Does FENCE name a class (R402)? -/
def fenceNames (cm : BitVec 16) (c : BitVec 4) : Bool := cm.getLsbD c.toNat

/-- May a control-slice FENCE complete (R403, R406)? Every access but a RAMO has performed at issue. -/
def State.fenceDone (s : State) (cm : BitVec 16) : Bool := s.ramosDone s.bun.scope fun o => fenceNames cm o.cls

/-- FENCE (R402-R406). A lane FENCE changes no read of its own party (R404), and what it orders is in order already: lane stores perform in
program order within two cycles of their issue, and a lane send reaches another party no earlier (10_fabric.md R275). -/
def execFence (h : SyHead) (cm : BitVec 16) (s : State) : Out :=
  if h.lane then .next (s.whole h.guard .ok)
  else if s.granted .fence then .next (s.useGrant .fence)
  else if s.fenceDone cm then .next s else .next (s.stall .fence (.fence h cm))

/-- The scope of the stalled bundle is kept in its wait; FENCE_COMPLETE (R403) acts when no RAMO of a named class is left that
any scope could wait for. -/
def execFenceComplete (s : State) : Out :=
  match s.onlyWait .fence with
  | some (.fence h cm) =>
    if s.ramosDone 3 (fun o => fenceNames cm o.cls) then .next (s.grant .fence (.fence h cm) 0) else .next s
  | _ => .next s

/-! ### Digests (R442) -/

/-- DIGRD (R442). -/
def execDigrd (xd : XReg) (sel : Bool) (s : State) : Out :=
  .next (s.setX xd (if sel then s.t.sync.run else s.t.sync.dig))

/-- DIGSET (R442). -/
def execDigset (xa : XReg) (w : Bool) (s : State) : Out :=
  .next (s.reading (.digset xa w) [xa] fun s =>
    s.modSync fun y => if w then { y with dig := s.x xa } else { y with expd := s.x xa })

end Sys2Proof.Machine
end

