-- ==== Sys2Proof/Machine/Far.lean ====
section
/-!
DEFINITION. Far memory: the physical interleave and its ports (03_far_memory.md R68-R70, 01_module.md R21), reads, writes and
atomics with the check of each 32-byte unit (17_faults_repair.md R477), and a hit of the far-TLB (03_far_memory.md R76, R78).
-/

namespace Sys2Proof.Machine

open Sys2Proof

/-! ### Stacks and ports -/

/-- The first unpopulated far physical address (R69). -/
abbrev farLimit : Nat := 0x18000000000

/-- The stack of a populated address (R69). -/
def farStack (pa : Nat) : Nat :=
  let g := pa / 4096
  let u := g / 2 ^ 24
  let l := g % 2 ^ 24
  (u + l + l / 64) % 24

/-- The port of a populated address (R69). -/
def farPort (pa : Nat) : Nat := (pa / 512 % 8) ^^^ (pa / 4096 % 2 ^ 24 % 8)

/-- The stack-local address of a populated address (R69). -/
def farLocal (pa : Nat) : Nat := pa / 4096 % 2 ^ 24 * 4096 + pa % 4096

/-- py of position e of the west and east edges: the non-spare rows of py 1 to 70 (01_module.md R21). -/
def edgeRow (e : Nat) : Nat :=
  let o := e + 1
  if o % 11 < 5 then 12 * (o / 11) + o % 11 else 12 * (o / 11) + o % 11 + 1

/-- The physical tile of lane p of a stack, as 72*px + py (01_module.md R21). -/
def stackTile (k p : Nat) : Nat :=
  if k < 8 then 72 * (10 * k + 1 + p)
  else if k < 16 then 72 * (10 * (k - 8) + 1 + p) + 71
  else if k < 20 then edgeRow (10 * (k - 16) + p)
  else 72 * 83 + edgeRow (10 * (k - 20) + p)

/-- The physical tiles that carry a host link, which a translation side shares (01_module.md R21, R80). -/
def linkTiles (k : Nat) : List Nat :=
  match k with
  | 0 => [72 * 81, 72 * 82]
  | 1 => [72 * 81 + 71, 72 * 82 + 71]
  | 2 => [edgeRow 40, edgeRow 41]
  | _ => [72 * 83 + edgeRow 40, 72 * 83 + edgeRow 41]

/-- Is a physical tile in service? -/
def State.tileLive (s : State) (ph : Nat) : Bool := !s.ctrl.deadTiles.contains ph

/-- The port that serves an address (R70): its own, or the lowest live one above it, counting on from 7 to 0; `none` when the
stack is unavailable. -/
def State.servingPort (s : State) (pa : Nat) : Option Nat :=
  let k := farStack pa
  ((upto 8).map fun i => (farPort pa + i) % 8).find? fun p => s.tileLive (stackTile k p)

/-! ### Units (R477) -/

/-- The 32-byte units a list of addresses touches. -/
def farUnits (as : List Nat) : List Nat := dedup (as.map fun a => a / 32)

/-- Event 0x90 or 0x91, whose source is the port's tile (17_faults_repair.md R494). -/
def State.farEvent (s : State) (code : Byte) (unit : Nat) (a0 a1 : Word) : State :=
  let pa := 32 * unit
  let p := (s.servingPort pa).getD (farPort pa)
  s.moduleEvent code 0 (BitVec.ofNat 16 (stackTile (farStack pa) p)) a0 a1

/-- A true uncorrectable error is found in a unit (R477). -/
def State.farBad (s : State) (unit : Nat) : State :=
  let pa := 32 * unit
  let p := (s.servingPort pa).getD (farPort pa)
  s.farEvent 0x90 unit (BitVec.ofNat 64 pa) (BitVec.ofNat 64 (farStack pa + 32 * p))

/-- A corrected error in a unit: counted for its stack, each 4096th raises event 0x91 (R477). -/
def State.farCorrect (s : State) (unit : Nat) : State :=
  let k := farStack (32 * unit)
  let n := SMap.get 0 s.far.cor k + 1
  let boot := SMap.get 0 s.far.corBoot k + 1
  let ph := stackTile k ((s.servingPort (32 * unit)).getD (farPort (32 * unit)))
  let s := s.modFar fun f =>
    { f with
      cor := SMap.set 0 f.cor k (n % 4096), corBoot := SMap.set 0 f.corBoot k boot
      corTile := SMap.set 0 f.corTile ph (SMap.get 0 f.corTile ph + 1) }
  if n = 4096 then s.farEvent 0x91 unit (BitVec.ofNat 64 k) (BitVec.ofNat 64 boot) else s

/-- What a read of a unit finds: its events, and whether it is delivered poisoned. -/
def State.farTouch (s : State) (unit : Nat) : Bool × State :=
  if SMap.get false s.far.poison unit then (true, s)
  else match SMap.get Ecc.clean s.far.ecc unit with
    | .clean => (false, s)
    | .single => (false, s.farCorrect unit)
    | .bad => (true, s.farBad unit)

/-- Read bytes of far memory (R477). -/
def State.farRead (s : State) (pa n : Nat) : List (Byte × Bool) × State :=
  let (bad, s) := (farUnits (run pa n)).foldl (fun (acc : List Nat × State) u =>
    let (p, s) := acc.2.farTouch u
    (if p then u :: acc.1 else acc.1, s)) ([], s)
  ((run pa n).map fun a => (SMap.get 0 s.far.mem a, bad.contains (a / 32)), s)

/-- Write into one unit: a clean write of the whole unit makes it clean; a partial one first reads it, and leaves it poisoned
if it was (R477). -/
def State.farWriteUnit (s : State) (unit : Nat) (cells : List (Nat × Byte × Bool)) : State :=
  let whole := (upto 32).all fun i => cells.any fun c => c.1 == 32 * unit + i
  let (p, s) := if whole then (false, s) else s.farTouch unit
  s.modFar fun f =>
    { f with
      mem := cells.foldl (fun (m : List (Nat × Byte)) (c : Nat × Byte × Bool) => SMap.set 0 m c.1 c.2.1) f.mem
      ecc := SMap.set Ecc.clean f.ecc unit .clean
      poison := SMap.set false f.poison unit (p || cells.any fun c => c.2.2) }

/-- Write bytes of far memory (R477). -/
def State.farWrite (s : State) (pa : Nat) (d : List (Byte × Bool)) : State :=
  let cells := cellsOf pa d
  (farUnits (run pa d.length)).foldl (fun s u => s.farWriteUnit u (cells.filter fun c => c.1 / 32 == u)) s

/-- Bytes of a unit that the command has just read (R477): nothing is found a second time. -/
def State.farAgain (s : State) (pa n : Nat) : List (Byte × Bool) :=
  let bad := SMap.get false s.far.poison (pa / 32) || SMap.get Ecc.clean s.far.ecc (pa / 32) == .bad
  (run pa n).map fun a => (SMap.get 0 s.far.mem a, bad)

/-- Part of the write of a whole unit (R477): its bytes, and the poison among them. -/
def State.farPart (s : State) (pa : Nat) (d : List (Byte × Bool)) : State :=
  s.modFar fun f =>
    { f with
      mem := (cellsOf pa d).foldl (fun (m : List (Nat × Byte)) (c : Nat × Byte × Bool) => SMap.set 0 m c.1 c.2.1) f.mem
      poison := if anyPoison d then SMap.set false f.poison (pa / 32) true else f.poison }

/-- The last part of the write of a whole unit (R477): new check bits, poisoned if a byte of the write was. -/
def State.farCover (s : State) (pa : Nat) (d : List (Byte × Bool)) (foul : Bool) : State :=
  (s.farPart pa d).modFar fun f =>
    { f with ecc := SMap.set Ecc.clean f.ecc (pa / 32) .clean, poison := SMap.set false f.poison (pa / 32) foul }

/-- One atomic at a far physical address (04_winch.md R116): the old bytes, and the state after it. -/
def State.farAtomic (s : State) (pa : Nat) (op : AOp) (sz : Bool) (b cmp : Word) : List (Byte × Bool) × State :=
  let n := sizeBits sz
  let (bs, s) := s.farRead pa (n / 8)
  let new := amoNew op n (valueOf bs) (b.toNat % 2 ^ n) (cmp.toNat % 2 ^ n)
  (bs, s.farWrite pa ((toBytes (n / 8) new).map fun x => (x, anyPoison bs)))

/-! ### The far-TLB (R76, R78) -/

/-- Does a leaf translate an address? -/
def leafCovers (l : Leaf) (va : Nat) : Bool := decide (l.vbase ≤ va ∧ va < l.vbase + l.size)

/-- Does a leaf permit an access kind: 0 read, 1 write, 2 atomic, 3 fetch (R76)? -/
def leafPermits (l : Leaf) (kind : BitVec 2) : Bool :=
  match kind.toNat with
  | 0 => l.s
  | 1 => l.w
  | 2 => l.s && l.w && l.a
  | _ => l.s && l.x

/-- A far-TLB lookup of the present tile. -/
def State.tlbHit (s : State) (asid : BitVec 16) (va : Nat) : Option Leaf :=
  (s.t.winch.tlb.find? fun e => e.1 == asid && leafCovers e.2 va).map fun e => e.2

/-- Install a leaf in the far-TLB, which holds 32 (R78). -/
def State.tlbFill (s : State) (asid : BitVec 16) (l : Leaf) : State :=
  s.modWinch fun w => { w with tlb := ((asid, l) :: w.tlb.filter fun e => !(e.1 == asid && e.2.vbase == l.vbase)).take 32 }

/-- Word 0 of a translation fault record (R86). -/
def faultWord0 (lvl kind : BitVec 2) (va : Nat) : Word :=
  BitVec.ofNat 64 (2 ^ 62 * lvl.toNat + 2 ^ 59 * kind.toNat + va % 2 ^ 57)

/-- The ASID of the present tile's region; 0 belongs to the module controller (R71). -/
def State.asid (s : State) : BitVec 16 :=
  match s.region with
  | none => 0
  | some r => r.asid

/-- A hit's outcome for an access kind (R70, R76): the physical address, or a fault. DESIGN CHOICE (notes/assumptions/123.md): fault 0x51
on a leaf that no walk of this access read reports the LVL and ENT kept with the leaf (R86). -/
def State.hitOutcome (s : State) (l : Leaf) (va : Nat) (kind : BitVec 2) : Except WFault Nat :=
  if !leafPermits l kind then .error { code := 0x51, aux := l.ent, word0 := faultWord0 l.lvl kind va }
  else
    let pa := l.base + (va - l.vbase)
    if (s.servingPort pa).isNone then .error { code := 0x58, aux := 0, word0 := faultWord0 0 kind va } else .ok pa

end Sys2Proof.Machine
end

