-- ==== Sys2Proof/Machine/WinchData.lean ====
section
/-!
DEFINITION. What the Winch works on, apart from its queues: location words as places (04_winch.md R98), boxes (R99, R100),
element conversion (R104, R105), the digests (R117), template expansion (R121) and halo strips (R115).
-/

namespace Sys2Proof.Machine

open Sys2Proof

/-! ### Digests (R117) -/

/-- One byte into a reflected CRC32C register. -/
def crc32Byte (c : BitVec 32) (b : Byte) : BitVec 32 :=
  loopN (fun _ c => if c.getLsbD 0 then (c >>> 1) ^^^ 0x82F63B78 else c >>> 1) 8 (c ^^^ b.setWidth 32)

/-- CRC32C of bytes, the register still without its final XOR. -/
def crc32Run (c : BitVec 32) (bs : Bytes) : BitVec 32 := bs.foldl crc32Byte c

/-- CRC32C (R117). -/
def crc32c (bs : Bytes) : BitVec 32 := crc32Run 0xFFFFFFFF bs ^^^ 0xFFFFFFFF

/-- One byte into a CRC-64 register. -/
def crc64Byte (c : Word) (b : Byte) : Word :=
  loopN (fun _ c => if c.getLsbD 63 then (c <<< 1) ^^^ 0x42F0E1EBA9EA3693 else c <<< 1) 8 (c ^^^ (b.setWidth 64 <<< 56))

/-- CRC-64 of bytes, continued from a register (R117). -/
def crc64Run (c : Word) (bs : Bytes) : Word := bs.foldl crc64Byte c

/-! ### Places -/

/-- What a location word names: a buffer of a tile of this module, a buffer behind a gateway channel, or far memory. -/
inductive WHome where
  | tile (t : Nat)
  | gate (ch : Byte)
  | far
deriving DecidableEq, Repr

/-- The field checks of a location word (R98), in the order 0x40, 0x42, 0x47; offsets are checked with the elements. -/
def State.locFault (s : State) (l : Word) : Option Byte :=
  let sp := locSp l
  let b := locBuf l
  if sp == 3 then some 0x40
  else if sp == 2 then (if bits 57 5 l != 0 then some 0x40 else none)
  else if (locSide l && b != .a) || bits 20 16 l != 0 then some 0x40
  else if sp == 0 then (if bits 36 23 l != 0 then some 0x40 else none)
  else if (if locG l then bits 36 14 l != 0 else locCh l != 0) then some 0x40
  else if b == .i && !(!locG l && s.relTile (locX l) (locY l) == some s.here) then some 0x42
  else if locG l then (if chV (s.chEnt (locCh l)) && chGw (s.chEnt (locCh l)) then none else some 0x47)
  else if (s.relTile (locX l) (locY l)).isNone then some 0x47 else none

/-- The home of a legal location word. -/
def State.locHome (s : State) (l : Word) : WHome :=
  match locSp l with
  | 0 => .tile s.here
  | 1 => if locG l then .gate (locCh l) else .tile ((s.relTile (locX l) (locY l)).getD s.here)
  | _ => .far

/-- Is a location the present tile's own: a local word, or a remote one that names the issuing tile itself (R98)? -/
def State.isLocal (s : State) (l : Word) : Bool := s.locHome l == .tile s.here

/-- The offset, or the far address, that a location word starts from. -/
def locStart (l : Word) : Nat := if locSp l == 2 then (locVa l).toNat else locOff l

/-- The size of the space a location word lies in (R98). -/
def locLimit (l : Word) : Nat := if locSp l == 2 then 2 ^ 57 else (locBuf l).size

/-- Alignment and range of an element of `n` bytes, aligned to `al`, at a displacement (R100, R508 step 5); a Winch names no
second generation of a weight region (05_tile_buffers.md R151). -/
def State.elemFault (s : State) (l : Word) (d : Int) (n al : Nat) : Option Byte :=
  let a : Int := locStart l + d
  if a % (al : Int) != 0 then some 0x40
  else if a < 0 || a + n > locLimit l then some 0x41
  else
    match s.locHome l with
    | .tile t => if locBuf l == .w && wregUpper (s.tile t).buf.wregs a.toNat then some 0x41 else none
    | _ => none

/-- The I-store bank of an offset is in fetch use: it holds the CPC, or a block running or queued (R109, 13_control_slice.md
R374). -/
def State.bankBusy (s : State) (o : Nat) : Bool :=
  let c := s.t.ctl
  let b := o / 32768
  c.cpc.toNat / 32768 == b || (match c.blk with | some k => k.lpc.toNat / 32768 == b | none => false)
    || c.hq.any fun t => match t.instr with
      | .dispatch blk .. => blk.toNat * 2 / 32768 == b
      | _ => false

/-! ### Boxes (R99, R100) -/

/-- A box as a command captured it. -/
structure Box where
  base : Word
  ext : Word
  step01 : Word
  step23 : Word
  attr : Word
  sbase : Word
deriving DecidableEq, Repr

/-- The box of six captured fields. -/
def boxOf (f : List Word) : Box :=
  { base := f.getD 0 0, ext := f.getD 1 0, step01 := f.getD 2 0, step23 := f.getD 3 0, attr := f.getD 4 0, sbase := f.getD 5 0 }

/-- The extent of a dimension. -/
def Box.e (b : Box) (i : Nat) : Nat := (bits (16 * i) 16 b.ext).toNat

/-- The step of a dimension. -/
def Box.step (b : Box) (i : Nat) : Int :=
  if i < 2 then (bits (32 * i) 32 b.step01).toInt else (bits (32 * (i - 2)) 32 b.step23).toInt

/-- The number of elements. -/
def Box.count (b : Box) : Nat := b.e 0 * b.e 1 * b.e 2 * b.e 3

/-- The element format; none is fault 0x40. -/
def Box.fmt (b : Box) : Option Fmt :=
  match fmtOf (bits 0 4 b.attr) with
  | some .scl => none
  | f => f

/-- CONV (R104). -/
def Box.conv (b : Box) : Nat := (bits 4 3 b.attr).toNat

/-- Bytes of an element (R100); an HB4 element's scale byte is apart. -/
def elemSize (f : Fmt) : Nat :=
  match f with
  | .hb4 => 16
  | .i4 => 1
  | f => f.bits / 8

/-- The size of the box's elements. -/
def Box.size (b : Box) : Nat := elemSize (b.fmt.getD .i8)

/-- Is the box HB4? -/
def Box.hb4 (b : Box) : Bool := b.fmt == some .hb4

/-- Bytes an element counts as (R100). -/
def Box.weight (b : Box) : Nat := if b.hb4 then 17 else b.size

/-- Displacement of element k in box order (R100). -/
def Box.disp (b : Box) (k : Nat) : Int :=
  let i0 := k % b.e 0
  let i1 := k / b.e 0 % b.e 1
  let i2 := k / (b.e 0 * b.e 1) % b.e 2
  let i3 := k / (b.e 0 * b.e 1 * b.e 2)
  i0 * b.step 0 + i1 * b.step 1 + i2 * b.step 2 + i3 * b.step 3

/-- The checks of a shape's fields (R98-R100, R508 step 3), in FLD order; `attr` is what the command asks of ATTR beyond them. An
empty box's extents and steps are not checked (R107). -/
def State.boxFault (s : State) (b : Box) (attr : Bool) : Option Byte :=
  let sz := b.size
  let steps := b.count != 0 && (upto 4).any fun i => b.step i % (sz : Int) != 0
  match s.locFault b.base with
  | some c => some c
  | none =>
    if steps || b.fmt.isNone || bits 7 57 b.attr != 0 || !attr || decide (b.count * b.weight ≥ 2 ^ 32) then some 0x40
    else if b.hb4 then s.locFault b.sbase else none

/-- Does any element of a box satisfy a test on its start? -/
def Box.anyElem (b : Box) (p : Int → Bool) : Bool := (upto b.count).any fun k => p (locStart b.base + b.disp k)

/-- A contiguous box: each step is the one below times its extent, from the element size up (R119). -/
def Box.packed (b : Box) : Bool :=
  b.step 0 == b.size && b.step 1 == b.e 0 * b.step 0 && b.step 2 == b.e 1 * b.step 1 && b.step 3 == b.e 2 * b.step 2

/-- A contiguous one-dimensional box (R121). -/
def Box.flat (b : Box) : Bool := b.step 0 == b.size && b.e 1 == 1 && b.e 2 == 1 && b.e 3 == 1

/-! ### Conversion (R104, R105) -/

/-- Formats CONV 1 and 2 convert between. -/
def convOk (f : Fmt) : Bool := f.isI || f.isF

/-- The relation of two boxes (R104, R508 step 4): false is fault 0x43. -/
def convLegal (a b : Box) : Bool :=
  match a.fmt, b.fmt with
  | some f, some g =>
    a.count == b.count
      && (match b.conv with
          | 0 => f == g
          | 1 | 2 => convOk f && convOk g
          | 3 | 4 => f == .hb4 && g == .hb4
          | 5 => f == .i8 && g == .i8
          | _ => false)
  | _, _ => false

/-- One element converted under CONV 1 or 2 (R105): its value in the destination format. -/
def convElem (f g : Fmt) (rm : RMode) (v : Nat) : Nat :=
  let x : Exact := if f.isI then .ofInt (BitVec.ofNat f.bits v).toInt else ofFloat f v
  if g.isI then (if x.isNan then 0 else (roundToInt x g.bits true rm true 0 0).1)
  else (roundToFloat x g rm true 0).1

/-- The bytes an element of a copy becomes (R104, R105, R110): source code bytes, and for HB4 the scale byte after them. -/
def convBytes (a b : Box) (bs : List (Byte × Bool)) : List (Byte × Bool) :=
  let f := a.fmt.getD .i8
  let g := b.fmt.getD .i8
  let foul := anyPoison bs
  let block (bad : List Bool) (r : Nat × Nat × Flags) : List (Byte × Bool) :=
    (((toBytes 16 r.1) ++ [BitVec.ofNat 8 r.2.1]).zip bad).map fun (x, p) => (x, p)
  let marks := bs.map fun x => x.2
  let bad := if marks.getD 16 false then marks.map fun _ => true else marks
  let codes := valueOf (bs.take 16)
  let scale := valueOf (bs.drop 16)
  match b.conv with
  | 1 | 2 =>
    (toBytes (elemSize g) (convElem f g (if b.conv == 1 then .rne else .rtz) (valueOf bs))).map fun x => (x, foul)
  | 3 => block bad (mxToHb4 codes scale .rne fun _ => 0)
  | 4 => block bad (hb4ToMx codes scale .rne fun _ => 0)
  | _ => if f == .hb4 then (bs.zip bad).map fun (x, p) => (x.1, p) else bs

/-! ### Template expansion (R121) -/

/-- How far an expansion has come: more of the source is needed, it is malformed at a byte offset, or complete. -/
inductive TxResult where
  | more
  | bad (at_ : Nat)
  | done (out : List (Byte × Bool))
deriving DecidableEq, Repr

/-- A source parcel: value, and whether it is poisoned. -/
abbrev Parcel := Nat × Bool

/-- The parcels of the bytes read so far. -/
def parcels : List (Byte × Bool) → List Parcel
  | a :: b :: rest => (a.1.toNat + 256 * b.1.toNat, a.2 || b.2) :: parcels rest
  | _ => []

/-- Replace the parcels of a template at its patches; an error where a position is out of range or poisoned, as soon as it is read. -/
def txPatch : List Parcel → List Parcel → Nat → Except Nat (List Parcel)
  | t, [], _ => .ok t
  | t, pos :: rest, i =>
    if pos.2 || decide (pos.1 ≥ t.length) then .error i
    else match rest with
      | [] => .ok t
      | v :: more => txPatch (setAt t pos.1 v) more (i + 2)

/-- The tokens (R121): `i` is the parcel index, `ps` the parcels from there on, `room` the parcels OUTLEN still allows. -/
def txTokens (tpl : List (List Parcel)) : Nat → Nat → List Parcel → Nat → List Parcel → TxResult
  | 0, _, _, _, _ => .more
  | _ + 1, _, [], _, _ => .more
  | fuel + 1, i, c :: rest, room, out =>
    let n := c.1 % 2 ^ 14
    if c.2 then .bad (2 * i)
    else match c.1 / 2 ^ 14 with
      | 0 =>
        if n = 0 || decide (n > room) then .bad (2 * i)
        else if rest.length < n then .more
        else txTokens tpl fuel (i + 1 + n) (rest.drop n) (room - n) (out ++ rest.take n)
      | 1 =>
        let t := tpl.getD (n / 256) []
        let m := n % 256
        if decide (n / 256 ≥ tpl.length) || decide (m > t.length) || decide (t.length > room) then .bad (2 * i)
        else
          match txPatch t (rest.take (2 * m)) (i + 1) with
          | .error j => .bad (2 * j)
          | .ok t' =>
            if rest.length < 2 * m then .more
            else txTokens tpl fuel (i + 1 + 2 * m) (rest.drop (2 * m)) (room - t.length) (out ++ t')
      | 2 =>
        if n = 0 || decide (n > room) then .bad (2 * i)
        else txTokens tpl fuel (i + 1) rest (room - n) (out ++ (upto n).map fun _ => (0, false))
      | _ =>
        if n != 0 || room != 0 then .bad (2 * i)
        else .done (out.flatMap fun p => [(BitVec.ofNat 8 p.1, p.2), (BitVec.ofNat 8 (p.1 / 256), p.2)])

/-- Split the template parcels by the directory's lengths. -/
def txSplit : List Nat → List Parcel → List (List Parcel)
  | [], _ => []
  | n :: rest, ps => ps.take n :: txSplit rest (ps.drop n)

/-- The header's parcels 0 to 7 (R121): the first one found off its values. -/
def txHeader (ps : List Parcel) (limit : Nat) : Option Nat :=
  let v (i : Nat) : Nat := (ps.getD i (0, false)).1
  ((upto (min 8 ps.length)).find? fun i =>
    (ps.getD i (0, false)).2
      || (match i with
          | 0 => v 0 != 0x5854
          | 1 => v 1 != 1
          | 2 => decide (v 2 > 64)
          | 3 => v 3 != 0
          | 4 => v 4 % 2 != 0
          | 5 => decide (v 4 + 65536 * v 5 > limit)
          | _ => v i != 0))

/-- Expand the parcels read so far; `limit` is the destination's byte count (R121). -/
def txExpand (bs : List (Byte × Bool)) (limit : Nat) : TxResult :=
  let ps := parcels bs
  match txHeader ps limit with
  | some i => .bad (2 * i)
  | none =>
    if ps.length < 8 then .more
    else
      let nt := (ps.getD 2 (0, false)).1
      let room := ((ps.getD 4 (0, false)).1 + 65536 * (ps.getD 5 (0, false)).1) / 2
      let dir := (ps.drop 8).take nt
      match findIdx (fun (p : Parcel) => p.2 || decide (p.1 < 1) || decide (p.1 > 32)) dir 0 with
      | some (i, _) => .bad (2 * (8 + i))
      | none =>
        if dir.length < nt then .more
        else
          let lens := dir.map fun p => p.1
          let total := lens.foldl (fun a b => a + b) 0
          let body := ps.drop (8 + nt)
          if body.length < total then .more
          else txTokens (txSplit lens body) (ps.length + 1) (8 + nt + total) (body.drop total) room []

/-! ### Halo strips (R115) -/

/-- A strip: direction (0 N, 1 E, 2 S, 3 W), the columns and rows it is read from and received at, and its extents. -/
structure Strip where
  dir : Nat
  sx : Nat
  sy : Nat
  dx : Nat
  dy : Nat
  w : Nat
  h : Nat
deriving DecidableEq, Repr

/-- The strips that DM (bits N, E, S, W from the top) names, in the order N, E, S, W (R115). -/
def haloStrips (dm : BitVec 4) (fw : Bool) (h x y : Nat) : List Strip :=
  let a := if fw then 0 else h
  let b := if fw then x - 1 else x - h - 1
  (if dm.getLsbD 3 then [{ dir := 0, sx := a, sy := h, dx := a, dy := y - h, w := b - a + 1, h := h }] else [])
    ++ (if dm.getLsbD 2 then [{ dir := 1, sx := x - 2 * h, sy := h, dx := 0, dy := h, w := h, h := y - 2 * h }] else [])
    ++ (if dm.getLsbD 1 then [{ dir := 2, sx := a, sy := y - 2 * h, dx := a, dy := 0, w := b - a + 1, h := h }] else [])
    ++ (if dm.getLsbD 0 then [{ dir := 3, sx := h, sy := h, dx := x - h, dy := h, w := h, h := y - 2 * h }] else [])

/-- Where the arrival word of a strip stands after LOC at its receiver (R115). -/
def Strip.word (p : Strip) : Nat :=
  match p.dir with
  | 0 => 24
  | 1 => 0
  | 2 => 16
  | _ => 8

/-- The neighbour of the present tile in its region's own torus (R115). -/
def State.regionNeighbour (s : State) (dir : Nat) : Nat :=
  match s.region with
  | none => s.here
  | some r =>
    let x := tileX s.here - r.px
    let y := tileY s.here - r.py
    let (x, y) := match dir with
      | 0 => (x, (y + r.ht - 1) % r.ht)
      | 1 => ((x + 1) % r.wd, y)
      | 2 => (x, (y + 1) % r.ht)
      | _ => ((x + r.wd - 1) % r.wd, y)
    84 * (r.py + y) + (r.px + x)

/-- Items of the strips: each strip's elements, then its arrival word. -/
def stripItem : List Strip → Nat → Option (Strip × Nat)
  | [], _ => none
  | p :: rest, k => if k ≤ p.w * p.h then some (p, k) else stripItem rest (k - (p.w * p.h + 1))

end Sys2Proof.Machine
end

