-- ==== Sys2Proof/Machine/Winch.lean ====
section
/-!
DEFINITION. The WN slot: shape registers, queues and the issue of every Winch command (04_winch.md R92-R102, R122, R125).
-/

namespace Sys2Proof.Machine

open Sys2Proof

/-! ### Captured operands (R93) -/

/-- The registers that completion options name. -/
def optRegs (o : WOpts) : List XReg :=
  (match o.cw with
   | some (a, b) => [a, b]
   | none => []) ++ (match o.cr with
   | some r => [r]
   | none => [])

/-- The values a command captures first: completion word location and value, record location. -/
def State.optVals (s : State) (o : WOpts) : List Word :=
  (match o.cw with
   | some (a, b) => [s.x a, s.x b]
   | none => [0, 0]) ++ (match o.cr with
   | some r => [s.x r]
   | none => [0])

/-- The six fields of a shape register as a command captures them. -/
def State.shapeOf (s : State) (sh : BitVec 3) : List Word := (upto 6).map fun i => s.shape sh i

/-- Commands outstanding in a queue (R92). -/
def Winch.outstanding (w : Winch) (q : BitVec 2) : Nat :=
  (w.queued.filter fun c => c.q == q).length + (w.running.filter fun r => r.cmd.q == q && !r.cmd.refill).length

/-- Enter a command into its queue. -/
def State.enqueue (s : State) (i : Instr) (q : BitVec 2) (vals src dst : List Word) (packet : Option (BitVec 2)) : State :=
  s.modWinch fun w =>
    { w with
      nextId := w.nextId + 1
      queued := w.queued ++ [{ id := w.nextId, q := q, op := i, vals := vals, src := src, dst := dst
                               inPhase := s.t.sync.inph, packet := packet, refill := false }] }

/-- Does a location leave the tile: far, behind a gateway, or in another tile (15_sync_time_phases.md R434)? -/
def State.leaves (s : State) (l : Word) : Bool := locSp l != 0 && s.locHome l != .tile s.here

/-- Issue a command: its registers are read, a full queue stalls the bundle (R92, R93), and an escaping one sets ESC (R434). -/
def issue (i : Instr) (h : WHead) (rs : List XReg) (o : WOpts) (vals : State → List Word) (src dst : Option (BitVec 3))
    (escapes : State → Bool) (k : State → State) (s : State) : Out :=
  .next (s.reading i (optRegs o ++ rs) fun s =>
    if s.t.winch.outstanding h.q ≥ 16 then s.stall .winch i
    else
      let f (x : Option (BitVec 3)) : List Word := match x with
        | some sh => s.shapeOf sh
        | none => []
      let s' := s.enqueue i h.q (s.optVals o ++ vals s) (f src) (f dst) none
      let far := escapes s || (o.cw.isSome && s.leaves ((s.optVals o).getD 0 0)) || (o.cr.isSome && s.leaves ((s.optVals o).getD 2 0))
      k (if far then s'.escape else s'))

/-! ### Immediate instructions (R92) -/

/-- WSHP (R101): the field shows three bundles later. -/
def execWshp (sh fld : BitVec 3) (xa : XReg) (s : State) : Out :=
  .next (s.reading (.wshp sh fld xa) [xa] fun s =>
    s.modCtl fun c => { c with wshp := c.wshp ++ [{ sh := sh, fld := fld, val := s.x xa, left := 3 }] })

/-- WSHRD (R125): the field as visible at this bundle. -/
def execWshrd (xd : XReg) (sh fld : BitVec 3) (s : State) : Out := .next (s.setX xd (s.shape sh fld.toNat))

/-- The limits of a request queue configuration (R122). -/
def rqOk (a b : Word) : Bool :=
  let base := (bits 0 20 a).toNat
  let lg := (bits 57 4 a).toNat
  let wix := (bits 20 20 b).toNat
  let rix := (bits 0 20 b).toNat
  decide (lg ≤ 10) && bits 20 36 a == 0 && base % 64 == 0 && decide (base + 64 * 2 ^ lg ≤ 0xC0000) && bits 40 24 b == 0
    && wix % 8 == 0 && rix % 8 == 0 && decide (wix + 8 ≤ 0xC0000) && decide (rix + 8 ≤ 0xC0000)

/-- A request queue before any WRQCFG: disabled (DESIGN CHOICE: the spec gives its registers no reset value, so every field is zero). -/
def ReqQueue.zero : ReqQueue := { en := false, wq := 0, lg := 0, side := false, base := 0, wix := 0, rix := 0, rd := 0 }

/-- A completion ring before any WRQCFG (DESIGN CHOICE: the spec gives its registers no reset value, so every field is zero). -/
def ComplRing.zero : ComplRing := { loc := 0, lg := 0, wp := 0 }

/-- The configuration of a request queue. -/
def Winch.rqOf (w : Winch) (n : Nat) : ReqQueue := SMap.get ReqQueue.zero w.rq n

/-- The configuration of a completion ring. -/
def Winch.crOf (w : Winch) (n : Nat) : ComplRing := SMap.get ComplRing.zero w.cr n

/-- WRQCFG with RC = 0 (R122): a request queue; its read position returns to zero. -/
def execWrqcfgRq (n : BitVec 2) (xa xb : XReg) (s : State) : Out :=
  .next (s.reading (.wrqcfgRq n xa xb) [xa, xb] fun s =>
    let a := s.x xa
    let b := s.x xb
    if !rqOk a b then s.raise 0x03
    else
      s.modWinch fun w =>
        { w with
          rq := SMap.set ReqQueue.zero w.rq n.toNat
            { en := bit 63 a, wq := bits 61 2 a, lg := (bits 57 4 a).toNat, side := bit 56 a, base := (bits 0 20 a).toNat
              wix := (bits 20 20 b).toNat, rix := (bits 0 20 b).toNat, rd := 0 } })

/-- The limits of a completion ring configuration (R122): a location in local A or C or in far memory, by the words of R98. -/
def State.crOk (s : State) (a b : Word) : Bool :=
  (s.locFault a).isNone && (locSp a == 2 || (s.isLocal a && (locBuf a == .a || locBuf a == .c))) && locStart a % 16 == 0
    && decide (locStart a < locLimit a) && bits 4 60 b == 0 && decide ((bits 0 4 b).toNat ≤ 12)

/-- WRQCFG with RC = 1 (R122): a completion ring; its write position returns to zero. -/
def execWrqcfgCr (n : BitVec 2) (xa xb : XReg) (s : State) : Out :=
  .next (s.reading (.wrqcfgCr n xa xb) [xa, xb] fun s =>
    if !s.crOk (s.x xa) (s.x xb) then s.raise 0x03
    else
      s.modWinch fun w =>
        { w with cr := SMap.set ComplRing.zero w.cr n.toNat { loc := s.x xa, lg := (bits 0 4 (s.x xb)).toNat, wp := 0 } })

/-- Is a head waiting on a semaphore (R125)? -/
def cmdWait : Instr → Byte × Byte
  | .wcopy h .. | .whalo h .. | .wamo h .. | .wamor h .. | .wcrc h .. | .wfillw h .. | .wsig h .. | .wflush h _ | .wtlbp h ..
  | .wscrubInterval h .. | .wscrubNow h .. | .wscrubDrop h .. => (h.wsem, h.wth)
  | _ => (0, 0)

/-- The head of a queue (R95). -/
def Winch.head (w : Winch) (q : BitVec 2) : Option WCmd := w.queued.find? fun c => c.q == q

/-- Has a queue a translation miss outstanding (03_far_memory.md R81)? -/
def Winch.missing (w : Winch) (q : BitVec 2) : Bool :=
  w.running.any fun r => r.cmd.q == q && (match r.hold with
    | .miss | .retry _ => true
    | _ => false)

/-- The WSTAT word (R125). -/
def State.wstatWord (s : State) : Word :=
  let w := s.t.winch
  let waiting (q : Nat) : Bool :=
    match w.head (BitVec.ofNat 2 q) with
    | some c => (cmdWait c.op).2 != 0 && decide ((s.sem (cmdWait c.op).1).toNat < (cmdWait c.op).2.toNat)
    | none => false
  BitVec.ofNat 64 ((if w.checking.isSome then 2 ^ 28 else 0) + (upto 4).foldl (fun acc q =>
    acc + 2 ^ (5 * q) * w.outstanding (BitVec.ofNat 2 q) + (if waiting q then 2 ^ (20 + q) else 0)
      + (if w.missing (BitVec.ofNat 2 q) then 2 ^ (24 + q) else 0)) 0)

/-- WSTAT (R125). -/
def execWstat (xd : XReg) (s : State) : Out := .next (s.setX xd s.wstatWord)

/-! ### Commands -/

/-- No registers beyond the options. -/
def noVals (_ : State) : List Word := []

/-- The command does not escape by its operands. -/
def never (_ : State) : Bool := false

/-- WCOPY (R104-R110): with PC = 1 a phase close is pending from issue (15_sync_time_phases.md R436). -/
def execWcopy (h : WHead) (ssh dsh : BitVec 3) (o : WOpts) (ba : WBar) (pc : Bool) (tag : BitVec 16) (s : State) : Out :=
  issue (.wcopy h ssh dsh o ba pc tag) h [] o noVals (some ssh) (some dsh) (fun s => s.leaves (s.shape dsh 0))
    (fun s => if pc then s.modSync fun y => { y with pcp := y.pcp + 1 } else s) s

/-- WHALO (R115): DM = 0 is fault 0x02. -/
def execWhalo (h : WHead) (sh : BitVec 3) (dm : BitVec 4) (fw : Bool) (hw : BitVec 3) (o : WOpts) (tag : BitVec 16)
    (s : State) : Out :=
  if dm == 0 then .next (s.raise 0x02)
  else
    issue (.whalo h sh dm fw hw o tag) h [] o noVals (some sh) (some sh)
      (fun s => (upto 4).any fun d => dm.getLsbD (3 - d) && s.regionNeighbour d != s.here) id s

/-- WAMO (R116): it escapes (R434). -/
def execWamo (h : WHead) (aop : AOp) (sz : Bool) (xa xb xc : XReg) (o : WOpts) (tag : BitVec 16) (s : State) : Out :=
  issue (.wamo h aop sz xa xb xc o tag) h [xa, xb, xc] o (fun s => [s.x xa, s.x xb, s.x xc]) none none (fun _ => true) id s

/-- WAMOR (R116). -/
def execWamor (h : WHead) (aop : AOp) (sz : Bool) (xa xb xc xd : XReg) (o : WOpts) (tag : BitVec 16) (s : State) : Out :=
  issue (.wamor h aop sz xa xb xc xd o tag) h [xa, xb, xc, xd] o (fun s => [s.x xa, s.x xb, s.x xc, s.x xd]) none none
    (fun _ => true) id s

/-- WCRC (R118). -/
def execWcrc (h : WHead) (sh : BitVec 3) (alg : Bool) (xw : XReg) (o : WOpts) (tag : BitVec 16) (s : State) : Out :=
  issue (.wcrc h sh alg xw o tag) h [xw] o (fun s => [s.x xw]) (some sh) none never id s

/-- WFILLW (R119). -/
def execWfillw (h : WHead) (ssh dsh : BitVec 3) (xg : XReg) (si : BitVec 6) (o : WOpts) (tag : BitVec 16) (s : State) : Out :=
  issue (.wfillw h ssh dsh xg si o tag) h [xg] o (fun s => [s.x xg]) (some ssh) (some dsh)
    (fun s => s.leaves (s.shape dsh 0)) id s

/-- WSIG (R125). -/
def execWsig (h : WHead) (o : WOpts) (ba : WBar) (tag : BitVec 16) (s : State) : Out :=
  issue (.wsig h o ba tag) h [] o noVals none none never id s

/-- No completion options. -/
def noOpts : WOpts := { cw := none, cr := none }

/-- WFLUSH (R125). -/
def execWflush (h : WHead) (fq : BitVec 2) (s : State) : Out := issue (.wflush h fq) h [] noOpts noVals none none never id s

/-- WTLBP (R125). -/
def execWtlbp (h : WHead) (xa : XReg) (kind : BitVec 2) (o : WOpts) (tag : BitVec 16) (s : State) : Out :=
  issue (.wtlbp h xa kind o tag) h [xa] o (fun s => [s.x xa]) none none never id s

/-- WSCRUB with MODE 0 (R120): intervals 1 to 4095 are fault 0x03. -/
def execWscrubInterval (h : WHead) (xa : XReg) (si : BitVec 6) (o : WOpts) (tag : BitVec 16) (s : State) : Out :=
  .next (s.reading (.wscrubInterval h xa si o tag) [xa] fun s =>
    let n := (bits 0 32 (s.x xa)).toNat
    if 1 ≤ n ∧ n ≤ 4095 then s.raise 0x03
    else match issue (.wscrubInterval h xa si o tag) h [xa] o (fun s => [s.x xa]) none none never id s with
      | .next s' => s'
      | _ => s)

/-- WSCRUB with MODE 1 (R120). -/
def execWscrubNow (h : WHead) (xa : XReg) (si : BitVec 6) (o : WOpts) (tag : BitVec 16) (s : State) : Out :=
  issue (.wscrubNow h xa si o tag) h [xa] o (fun s => [s.x xa]) none none never id s

/-- WSCRUB with MODE 2 (R120). -/
def execWscrubDrop (h : WHead) (xa : XReg) (si : BitVec 6) (o : WOpts) (tag : BitVec 16) (s : State) : Out :=
  issue (.wscrubDrop h xa si o tag) h [xa] o (fun s => [s.x xa]) none none never id s

end Sys2Proof.Machine
end

