-- ==== Sys2Proof/Machine/WinchPlan.lean ====
section
/-!
DEFINITION. What a started Winch command does, item by item (04_winch.md R104-R124): its options, the checks at start (R508
steps 1 to 4), its destination, and the accesses of each item with the data they write.
-/

namespace Sys2Proof.Machine

open Sys2Proof

/-! ### Fields of a command -/

/-- Wait and signal fields, options, barrier, TAG and PC of a command (R102); a request packet's are its own (R123, R124). -/
structure CmdInfo where
  wsem : Byte
  wth : Byte
  ord : Bool
  ssem : Byte
  sinc : Nat
  o : WOpts
  ba : WBar
  tag : BitVec 16
  pc : Bool
deriving DecidableEq, Repr

/-- The fields of a command of the WN slot. -/
def headInfo (h : WHead) (o : WOpts) (ba : WBar) (tag : BitVec 16) (pc : Bool) : CmdInfo :=
  { wsem := h.wsem, wth := h.wth, ord := h.ord, ssem := h.ssem, sinc := h.sinc.toNat, o := o, ba := ba, tag := tag, pc := pc }

/-- Word i of a request packet. -/
def WCmd.word (c : WCmd) (i : Nat) : Word := c.vals.getD (3 + i) 0

/-- The fields of a command. -/
def WCmd.info (c : WCmd) : CmdInfo :=
  match c.op with
  | .wcopy h _ _ o ba pc tag => headInfo h o ba tag pc
  | .whalo h _ _ _ _ o tag | .wamo h _ _ _ _ _ o tag | .wamor h _ _ _ _ _ _ o tag | .wcrc h _ _ _ o tag
  | .wfillw h _ _ _ _ o tag | .wtlbp h _ _ o tag | .wscrubInterval h _ _ o tag | .wscrubNow h _ _ o tag
  | .wscrubDrop h _ _ o tag => headInfo h o none tag false
  | .wsig h o ba tag => headInfo h o ba tag false
  | .wflush h _ => headInfo h noOpts none 0 false
  | _ =>
    { wsem := 0, wth := 0, ord := false, ssem := bits 32 8 (c.word 3), sinc := (bits 40 4 (c.word 3)).toNat, o := noOpts
      ba := none, tag := bits 16 16 (c.word 0), pc := false }

/-- The completion word's location and value, and the record's location, as captured. -/
def WCmd.cwLoc (c : WCmd) : Word := c.vals.getD 0 0
/-- See `WCmd.cwLoc`. -/
def WCmd.cwVal (c : WCmd) : Word := c.vals.getD 1 0
/-- See `WCmd.cwLoc`. -/
def WCmd.crLoc (c : WCmd) : Word := c.vals.getD 2 0
/-- The operand values after the options. -/
def WCmd.arg (c : WCmd) (i : Nat) : Word := c.vals.getD (3 + i) 0
/-- The source box. -/
def WCmd.sbox (c : WCmd) : Box := boxOf c.src
/-- The destination box. -/
def WCmd.dbox (c : WCmd) : Box := boxOf c.dst

/-- What a request packet asks for (R123). -/
def WCmd.opc (c : WCmd) : Nat := (bits 0 8 (c.word 0)).toNat
/-- VA of a packet. -/
def WCmd.pva (c : WCmd) : Word := bits 0 57 (c.word 1) |>.setWidth 64
/-- LEN of a packet. -/
def WCmd.plen (c : WCmd) : Nat := (bits 0 32 (c.word 3)).toNat
/-- A far virtual address as a location word. -/
def farLoc (va : Word) : Word := va ||| (0x8000000000000000 : Word)

/-- An atomic of code 0-9 (R116). -/
def aopOf (n : Nat) : Option AOp :=
  [AOp.add, .and, .or, .xor, .min, .max, .minu, .maxu, .swap, .cas][n]?

/-! ### Checks at start (R508) -/

/-- A local A or C location that is legal, whatever its alignment. -/
def State.localAC (s : State) (l : Word) : Bool :=
  (s.locFault l).isNone && s.isLocal l && (locBuf l == .a || locBuf l == .c)

/-- A legal place of a completion record (R112): local A or C, aligned to 16 bytes, inside the buffer. -/
def State.recordPlace (s : State) (l : Word) : Bool :=
  s.localAC l && locStart l % 16 == 0 && decide (locStart l + 16 ≤ locLimit l)

/-- Step 1: the record location (R112). -/
def State.recordFault (s : State) (c : WCmd) : Option Byte :=
  if c.info.o.cr.isSome && !s.recordPlace c.crLoc then some 0x4A else none

/-- First of several checks to fail. -/
def firstFault : List (Option Byte) → Option Byte
  | [] => none
  | some c :: _ => some c
  | none :: rest => firstFault rest

/-- A check. -/
def need (p : Bool) (c : Byte) : Option Byte := if p then none else some c

/-- Step 2: the completion word (R111); a WHALO's is the local LOC of its arrival words (R115). -/
def State.wordFault (s : State) (c : WCmd) : Option Byte :=
  if c.info.o.cw.isNone then none
  else
    let l := c.cwLoc
    let halo := match c.op with
      | .whalo .. => true
      | _ => false
    let f := s.locFault l
    firstFault
      [need (f != some 0x40 && locStart l % 8 == 0) 0x40, need (locSp l == 2 || locBuf l == .a || locBuf l == .c) 0x42, f,
       need (!halo || s.isLocal l) 0x42, need (decide (locStart l + (if halo then 32 else 8) ≤ locLimit l)) 0x41]

/-- Target and return location of an atomic (R116): A or C, local or remote, or far; aligned to its size. -/
def State.atomFault (s : State) (l : Word) (n : Nat) : Option Byte :=
  firstFault
    [s.locFault l, need (locSp l == 2 || locBuf l == .a || locBuf l == .c) 0x42, need (locStart l % n == 0) 0x4B,
     need (decide (locStart l + n ≤ locLimit l)) 0x41]

/-- The return location of WAMOR (R116). -/
def State.returnFault (s : State) (l : Word) : Option Byte :=
  firstFault
    [need (s.localAC l) 0x42, need (locStart l % 8 == 0) 0x4B, need (decide (locStart l + 8 ≤ locLimit l)) 0x41]

/-- Steps 3 and 4 of a copy (R104, R108, R119, R121). -/
def State.copyFault (s : State) (c : WCmd) (fill : Bool) : Option Byte :=
  let a := c.sbox
  let b := c.dbox
  let tx := b.conv == 5
  firstFault
    [s.boxFault a (a.conv == 0), need (!tx || a.count == 0 || a.flat) 0x40, s.boxFault b (decide (b.conv < 6)),
     need (!tx || b.count == 0 || b.flat) 0x40,
     need (!fill || (s.isLocal b.base && locBuf b.base == .w && b.conv == 0 && (b.count == 0 || b.packed))) 0x40,
     need (convLegal a b) 0x43, need (!tx || (locSp b.base != 2 && locBuf b.base != .w)) 0x43,
     need (!c.info.pc || c.inPhase) 0x43]

/-- Step 3 of WHALO (R115). -/
def State.haloFault (s : State) (c : WCmd) (hw : BitVec 3) : Option Byte :=
  let b := c.sbox
  let h := hw.toNat + 1
  firstFault
    [s.boxFault b (b.conv == 0 && !b.hb4),
     need (s.localAC b.base && b.e 2 == 1 && b.e 3 == 1 && decide (3 * h ≤ b.e 0 ∧ 3 * h ≤ b.e 1)) 0x40]

/-- The field checks of a request packet (R123). -/
def State.packetFault (s : State) (c : WCmd) : Option Byte :=
  let k := c.opc
  let l := c.word 2
  let size := if bit 12 (c.word 0) then 8 else 4
  firstFault
    [need (bits 0 8 (c.word 7) == 1) 0x49, need (decide (1 ≤ k ∧ k ≤ 4)) 0x49,
     need (k != 3 || decide ((bits 8 4 (c.word 0)).toNat < 10)) 0x49, need (bits 35 29 (c.word 0) == 0) 0x49,
     need (bits 57 7 (c.word 1) == 0) 0x49, need (bits 44 20 (c.word 3) == 0) 0x49, need (c.word 6 == 0) 0x49,
     need ((s.locFault l).isNone && s.isLocal l && locBuf l != .i) 0x42,
     (if k == 3 then s.returnFault l else none), need (k != 3 || locStart c.pva % size == 0) 0x4B]

/-- The checks made when a command starts (R508 steps 1 to 4): the first that fails. -/
def State.startFault (s : State) (c : WCmd) : Option Byte :=
  firstFault
    [s.recordFault c, s.wordFault c,
     (match c.op with
      | .wcopy .. => s.copyFault c false
      | .wfillw .. => s.copyFault c true
      | .whalo _ _ _ _ hw _ _ => s.haloFault c hw
      | .wcrc .. =>
        firstFault
          [s.boxFault c.sbox true, need (s.localAC (c.arg 0) && locStart (c.arg 0) % 8 == 0) 0x42,
           need (decide (locStart (c.arg 0) + 8 ≤ locLimit (c.arg 0))) 0x41]
      | .wamo _ _ sz _ _ _ _ _ => s.atomFault (c.arg 0) (sizeBits sz / 8)
      | .wamor _ _ sz _ _ _ _ _ _ => firstFault [s.atomFault (c.arg 0) (sizeBits sz / 8), s.returnFault (c.arg 3)]
      | .requestPacketGet _ | .requestPacketPut _ | .requestPacketAmo _ | .requestPacketSig _ => s.packetFault c
      | _ => none)]

/-! ### The destination of a command's payload in buffers -/

/-- A run of elements: location word, count, element bytes, displacement of each. -/
structure Span where
  loc : Word
  count : Nat
  size : Nat
  disp : Nat → Int

/-- The destination of a copy or of a GET. -/
def WCmd.dest (c : WCmd) : Option Span :=
  match c.op with
  | .wcopy .. | .wfillw .. =>
    some { loc := c.dbox.base, count := c.dbox.count, size := c.dbox.size, disp := c.dbox.disp }
  | .requestPacketGet _ => some { loc := c.word 2, count := c.plen, size := 1, disp := fun k => k }
  | _ => none

/-- The scale bytes that a copy of HB4 blocks writes (R100). -/
def WCmd.scaleDest (c : WCmd) : Option Span :=
  match c.op with
  | .wcopy .. | .wfillw .. =>
    if c.dbox.hb4 then some { loc := c.dbox.sbase, count := c.dbox.count, size := 1, disp := fun k => k } else none
  | _ => none

/-- All that a command's payload writes in buffers. -/
def WCmd.dests (c : WCmd) : List Span := c.dest.toList ++ c.scaleDest.toList

/-- Does some element of a span start satisfy a test on its offset? -/
def Span.any (d : Span) (p : Nat → Bool) : Bool := (upto d.count).any fun k => p (locStart d.loc + d.disp k).toNat

/-- The weight regions a span writes, by index (05_tile_buffers.md R152). -/
def Span.regions (d : Span) (rs : List WRegion) : List Nat :=
  if locSp d.loc == 2 || locBuf d.loc != .w then []
  else
    (upto rs.length).filter fun i =>
      match rs[i]? with
      | some r => d.any fun o => decide (r.base ≤ o ∧ o < r.base + r.size)
      | none => false

/-- Is one of some weight regions' idle generation latched by an open plane load (R154)? -/
def Tile.latchedIdle (t : Tile) (rs : List Nat) : Bool :=
  match t.mx.latched with
  | none => false
  | some l =>
    rs.any fun i =>
      match t.buf.wregs[i]?, l.find? fun e => e.1 == i with
      | some r, some (_, g) => g == !r.gc
      | _, _ => false

/-- Write into idle generations begins: READY clears (R152). -/
def Buf.startWrites (b : Buf) (rs : List Nat) : Buf :=
  { b with
    wregs := (b.wregs.zip (upto b.wregs.length)).map fun (r, i) =>
      if rs.contains i then { r with ready := false, writing := r.writing + 1 } else r }

/-- A write into idle generations ends; with STATUS 0 and no other running, READY sets (R152). -/
def Buf.endWrites (b : Buf) (rs : List Nat) (ok : Bool) : Buf :=
  { b with
    wregs := (b.wregs.zip (upto b.wregs.length)).map fun (r, i) =>
      if rs.contains i then { r with writing := r.writing - 1, ready := r.ready || (ok && decide (r.writing ≤ 1)) } else r }

/-- A Winch write into physical W offsets invalidates the entries of the shards it reaches, and discards a check of one under way
(R120). -/
def Winch.invalidate (w : Winch) (p : Nat → Bool) : Winch :=
  let hit (e : Shard) : Bool := e.state != .invalid && (upto e.len).any fun k => p (e.off + k)
  let checked := match w.checking with
    | none => false
    | some i => match SMap.find? w.shards i with
      | some e => hit e
      | none => false
  { w with
    shards := w.shards.map fun (i, e) => if hit e then (i, { e with state := .invalid }) else (i, e)
    checking := if checked then none else w.checking }

/-! ### Items and accesses -/

/-- What an access does. -/
inductive WAct where
  | read | write | atomic
deriving DecidableEq, Repr

/-- One access of an item: where, how many bytes and how aligned, what it does, its translation kind (R76), and whether its
bytes count in COUNT and the digests. -/
structure WPart where
  home : WHome
  loc : Word
  disp : Int
  n : Nat
  al : Nat
  act : WAct
  kind : BitVec 2
  counts : Bool
deriving DecidableEq, Repr

/-- An access through a location word. -/
def State.part (s : State) (l : Word) (d : Int) (n al : Nat) (act : WAct) (kind : BitVec 2) (counts : Bool) : WPart :=
  { home := s.locHome l, loc := l, disp := d, n := n, al := al, act := act, kind := kind, counts := counts }

/-- The reads of element k of a box. -/
def State.boxReads (s : State) (b : Box) (k : Nat) (kind : BitVec 2) (counts : Bool) : List WPart :=
  s.part b.base (b.disp k) b.size b.size .read kind counts :: (if b.hb4 then [s.part b.sbase k 1 1 .read kind counts] else [])

/-- The writes of element k of a box. -/
def State.boxWrites (s : State) (b : Box) (k : Nat) : List WPart :=
  s.part b.base (b.disp k) b.size b.size .write 1 true :: (if b.hb4 then [s.part b.sbase k 1 1 .write 1 true] else [])

/-- The access kind of a copy's reads: a copy into the I-store fetches (R76). -/
def copyKind (b : Box) : BitVec 2 := if locSp b.base != 2 && locBuf b.base == .i then 3 else 0

/-- Is the command a template expansion? -/
def WCmd.tx (c : WCmd) : Bool :=
  match c.op with
  | .wcopy .. => c.dbox.conv == 5
  | _ => false

/-- The strips of a WHALO. -/
def WCmd.strips (c : WCmd) : List Strip :=
  match c.op with
  | .whalo _ _ dm fw hw _ _ => haloStrips dm fw (hw.toNat + 1) (c.sbox.e 0) (c.sbox.e 1)
  | _ => []

/-- The number of items of a command's payload. -/
def WRun.items (r : WRun) : Nat :=
  let c := r.cmd
  match c.op with
  | .wcopy .. =>
    if c.tx then (match r.outb with
      | some o => o.length
      | none => c.sbox.count / 2)
    else c.dbox.count
  | .wfillw .. => c.dbox.count
  | .wcrc .. => c.sbox.count + 1
  | .whalo .. => (c.strips.map fun p => p.w * p.h + 1).foldl (fun a b => a + b) 0
  | .wamo .. | .wamor .. | .wtlbp .. | .requestPacketAmo _ => 1
  | .requestPacketGet _ | .requestPacketPut _ => c.plen
  | _ => 0

/-- The accesses of item k, in order. -/
def State.parts (s : State) (r : WRun) (k : Nat) : List WPart :=
  let c := r.cmd
  let a := c.sbox
  let b := c.dbox
  match c.op with
  | .wcopy .. =>
    if c.tx then
      (if r.outb.isSome then [s.part b.base (b.disp k) 1 1 .write 1 true]
       else
         [s.part a.base (a.disp (2 * k)) 1 1 .read (copyKind b) false,
          s.part a.base (a.disp (2 * k + 1)) 1 1 .read (copyKind b) false])
    else s.boxReads a k (copyKind b) false ++ s.boxWrites b k
  | .wfillw .. => s.boxReads a k 0 false ++ s.boxWrites b k
  | .wcrc .. => if k < a.count then s.boxReads a k 0 true else [s.part (c.arg 0) 0 8 8 .write 1 false]
  | .whalo .. =>
    match stripItem c.strips k with
    | none => []
    | some (p, j) =>
      let home := WHome.tile (s.regionNeighbour p.dir)
      if j < p.w * p.h then
        let x := j % p.w
        let y := j / p.w
        let at_ (x y : Nat) : Int := x * a.step 0 + y * a.step 1
        [s.part a.base (at_ (p.sx + x) (p.sy + y)) a.size a.size .read 0 false,
         { s.part a.base (at_ (p.dx + x) (p.dy + y)) a.size a.size .write 1 true with home := home }]
      else if c.info.o.cw.isSome then
        [{ s.part c.cwLoc p.word 8 8 .write 1 false with home := home }]
      else []
  | .wamo _ _ sz .. => [s.part (c.arg 0) 0 (sizeBits sz / 8) 1 .atomic 2 false]
  | .wamor _ _ sz .. =>
    [s.part (c.arg 0) 0 (sizeBits sz / 8) 1 .atomic 2 false, s.part (c.arg 3) 0 8 8 .write 1 false]
  | .requestPacketAmo _ =>
    [s.part (farLoc c.pva) 0 (if bit 12 (c.word 0) then 8 else 4) 1 .atomic 2 false,
     s.part (c.word 2) 0 8 8 .write 1 false]
  | .requestPacketGet _ => [s.part (farLoc c.pva) k 1 1 .read 0 false, s.part (c.word 2) k 1 1 .write 1 true]
  | .requestPacketPut _ => [s.part (c.word 2) k 1 1 .read 0 false, s.part (farLoc c.pva) k 1 1 .write 1 true]
  | _ => []

/-- Bytes extended with clean zeros. -/
def padTo (n : Nat) (d : List (Byte × Bool)) : List (Byte × Bool) := d ++ (upto (n - d.length)).map fun _ => (0, anyPoison d)

/-- The result of WCRC (R118): CRC32C or CRC-64. -/
def WRun.digestWord (r : WRun) : Word :=
  match r.cmd.op with
  | .wcrc _ _ alg .. =>
    if alg then r.crc64 else (r.crc32 ^^^ 0xFFFFFFFF).setWidth 64
  | _ => 0

/-- The data of a write: access `j` of item `k`. -/
def WRun.data (r : WRun) (k j : Nat) (p : WPart) : List (Byte × Bool) :=
  let c := r.cmd
  match c.op with
  | .wcopy .. | .wfillw .. =>
    match r.outb with
    | some o => (o.drop k).take 1
    | none =>
      let all := convBytes c.sbox c.dbox r.buf
      let n := c.dbox.size
      if j + 1 == (if c.sbox.hb4 then 3 else 2) then all.take n else all.drop n
  | .wcrc .. => (toBytes 8 r.digestWord.toNat).map fun x => (x, r.poison)
  | .whalo .. => if p.counts then r.buf else clean (toBytes 8 c.cwVal.toNat)
  | _ => padTo p.n r.buf

/-- The atomic of a command: operation, size, operand and compare value. -/
def WCmd.atomic (c : WCmd) : AOp × Bool × Word × Word :=
  match c.op with
  | .wamo _ op sz .. | .wamor _ op sz .. => (op, sz, c.arg 1, c.arg 2)
  | _ => ((aopOf (bits 8 4 (c.word 0)).toNat).getD .add, bit 12 (c.word 0), c.word 4, c.word 5)

/-- The index in box order that a fault at item k, access j concerns (R112). -/
def WRun.element (r : WRun) (k j : Nat) : BitVec 32 :=
  let n := match r.cmd.op with
    | .wcopy .. => if r.cmd.tx && r.outb.isNone then 2 * k + j else k
    | .wfillw .. | .requestPacketGet _ | .requestPacketPut _ => k
    | .wcrc .. => if k < r.cmd.sbox.count then k else 0
    | .whalo .. =>
      match stripItem r.cmd.strips k with
      | some (p, i) => if i < p.w * p.h then (p.sy + i / p.w) * r.cmd.sbox.e 0 + p.sx + i % p.w else 0
      | none => 0
    | _ => 0
  BitVec.ofNat 32 (min n 0xFFFFFFFF)

end Sys2Proof.Machine
end

