-- ==== Sys2Proof/Machine/WinchRun.lean ====
section
/-!
DEFINITION. The Winch at work: starting a command (04_winch.md R95, R508), moving its payload one access at a time (R97, R104-R121),
ending it (R96, R111-R113), the packets of request queues (R122-R124), the scrubber (R120), and what reaches a tile from remote
Winches (05_tile_buffers.md R130).
-/

namespace Sys2Proof.Machine

open Sys2Proof

/-! ### Running commands -/

/-- The running command of an id. -/
def State.runOf (s : State) (id : Nat) : Option WRun := s.t.winch.running.find? fun r => r.cmd.id == id

/-- Replace a running command. -/
def State.putRun (s : State) (r : WRun) : State :=
  s.modWinch fun w => { w with running := w.running.map fun x => if x.cmd.id == r.cmd.id then r else x }

/-- The ring a packet's record goes to, when it asks for one (R123, R124). DESIGN CHOICE (notes/assumptions/127.md): a ring that WRQCFG
never configured is the one its registers name at reset. -/
def State.ringOf (s : State) (c : WCmd) : Option ComplRing :=
  if c.packet.isSome && bit 34 (c.word 0) then some (s.t.winch.crOf (bits 32 2 (c.word 0)).toNat) else none

/-- On a match WFILLW sets its shard entry (R119), once the command can end in no other fault: past its completion word. -/
def State.settleShard (s : State) (r : WRun) : State :=
  match r.cmd.op with
  | .wfillw _ _ _ _ si _ _ =>
    let b := r.cmd.dbox
    let e : Shard :=
      { state := .valid, off := wWrite s.t.buf.wregs (locStart b.base), len := b.count * b.size, digest := r.crc64, code := r.code64 }
    s.modWinch fun w => { w with shards := SMap.put w.shards si.toNat e }
  | _ => s

/-- The phase after the completion word. -/
def State.afterWord (s : State) (c : WCmd) : WPhase := if (s.ringOf c).isSome then .ring else .ready

/-- A command that has moved its payload goes on to its completion word, or past it (R96). -/
def State.payloadDone (s : State) (r : WRun) : State :=
  let halo := match r.cmd.op with
    | .whalo .. => true
    | _ => false
  let word := r.fault.isNone && r.cmd.info.o.cw.isSome && !halo
  if word then s.putRun { r with phase := .word, hold := .free }
  else (s.settleShard r).putRun { r with phase := s.afterWord r.cmd, hold := .free }

/-- A command ends in a fault (R113): it writes no completion word. -/
def State.failRun (s : State) (r : WRun) (f : WFault) : State :=
  s.putRun { r with fault := some f, phase := s.afterWord r.cmd, hold := .free }

/-- A fault that concerns no far address. -/
def plainFault (code : Byte) (aux : BitVec 32) : WFault := { code := code, aux := aux, word0 := 0 }

/-- The physical address of an offset of a buffer of the present tile, for a read or a write (05_tile_buffers.md R148, R152). -/
def State.bufAddr (s : State) (b : BufId) (side wr : Bool) (o : Nat) : Nat :=
  match b with
  | .a => s.t.buf.aAddr side o
  | .w => BufId.base .w false + (if wr then wWrite s.t.buf.wregs o else wRead s.t.buf.wregs o)
  | .c => cAddr o
  | .i => BufId.base .i false + o

/-- Poison the bytes that a mismatching WFILLW wrote (R119): codes in W, scale bytes in a tile of this module or in far memory.
PRESUMED (notes/assumptions/130.md): scale bytes in a peer module stay as written, since no request to a peer marks bytes. -/
def State.foulBox (s : State) (r : WRun) : State :=
  let b := r.cmd.dbox
  let s := s.modBuf fun f =>
    f.poisonAll ((upto b.count).flatMap fun k => run (s.bufAddr .w false true (locStart b.base + b.disp k).toNat) b.size)
  let s := s.modFar fun f => { f with poison := r.scales.foldl (fun m pa => SMap.set false m (pa / 32) true) f.poison }
  match b.hb4, s.locHome b.sbase with
  | true, .tile t =>
    s.atTile t fun u => u.modBuf fun f =>
      f.poisonAll ((upto b.count).map fun k => u.bufAddr (locBuf b.sbase) (locSide b.sbase) true (locStart b.sbase + k))
  | _, _ => s

/-- The digest of a shard's bytes as they stand, and the state after the reads (R120). -/
def State.shardDigest (s : State) (e : Shard) : Word × State :=
  let (bs, s) := s.readAt (run (BufId.base .w false + e.off) e.len)
  (crc64Run 0 (bs.map fun x => x.1), s)

/-- The end of the payload (R119, R121): a template image without END is malformed, and WFILLW compares its digest. -/
def State.endPayload (s : State) (r : WRun) : State :=
  match r.cmd.op with
  | .wcopy .. =>
    if r.cmd.tx && r.outb.isNone && r.cmd.sbox.count != 0 then
      s.failRun r (plainFault 0x44 (BitVec.ofNat 32 (2 * r.idx)))
    else s.payloadDone r
  | .wfillw _ _ _ _ si _ _ =>
    if r.crc64 == r.cmd.arg 0 then s.payloadDone r
    else
      ((s.foulBox r).modWinch fun w =>
        { w with
          shards := w.shards.map fun (i, e) => if i == si.toNat then (i, { e with state := .invalid }) else (i, e) }).failRun r
        (plainFault 0x45 0)
  | _ => s.payloadDone r

/-! ### The scrubber (R120) -/

/-- Check a VALID shard: a mismatch sets it BAD, poisons its bytes and raises event 0x46. The Boolean says that it matched. -/
def State.scrub (s : State) (i : Nat) : Bool × State :=
  match SMap.find? s.t.winch.shards i with
  | none => (true, s)
  | some e =>
    if e.state != .valid then (true, s)
    else
      let (d, s) := s.shardDigest e
      if d == e.code then (true, s)
      else
        (false, ((s.modWinch fun w => { w with shards := SMap.put w.shards i { e with state := .bad } }).modBuf fun b =>
          b.poisonAll (run (BufId.base .w false + e.off) e.len)).tileEvent 0x46 (BitVec.ofNat 64 i) d)

/-- SCRUB_INTERVAL_EXPIRE (R120): a check begins at the next VALID shard in index order, wrapping after 63, and ends at the
scrubber's next turn. -/
def execScrubIntervalExpire (s : State) : Out :=
  let w := s.t.winch
  match w.checking with
  | some i => .next ((s.scrub i).2.modWinch fun w => { w with checking := none })
  | none =>
  if w.scrubInt == 0 || decide (s.cycle < w.scrubDue) then .next s
  else
    let s := s.modWinch fun w => { w with scrubDue := s.cycle + w.scrubInt.toNat }
    let valid (i : Nat) : Bool := match SMap.find? w.shards i with
      | some e => e.state == .valid
      | none => false
    match ((upto 64).map fun i => (w.scrubIdx + i) % 64).find? valid with
    | none => .next s
    | some i => .next (s.modWinch fun w => { w with scrubIdx := (i + 1) % 64, checking := some i })

/-! ### Starting (R95, R508) -/

/-- May the head of a queue start (R95; 03_far_memory.md R81; 05_tile_buffers.md R154)? None does at a tile that is being saved (R127). -/
def State.startable (s : State) (q : BitVec 2) : Option WCmd :=
  match s.t.winch.head q with
  | none => none
  | some c =>
    let i := c.info
    let busy := s.t.winch.running.any fun r => r.cmd.q == q && !r.cmd.refill && decide (r.cmd.id < c.id)
    let latched :=
      (s.startFault c).isNone && c.dests.any fun d => s.isLocal d.loc && s.t.latchedIdle (d.regions s.t.buf.wregs)
    if (i.wth != 0 && decide ((s.sem i.wsem).toNat < i.wth.toNat)) || (i.ord && busy) || s.t.winch.missing q || latched || s.t.ctl.frozen
    then none else some c

/-- A started command with nothing moved. -/
def freshRun (c : WCmd) : WRun :=
  { cmd := c, phase := .moving, fault := none, idx := 0, sub := 0, buf := [], outb := none, count := 0, crc32 := 0xFFFFFFFF
    crc64 := 0, poison := false, canceled := false, hold := .free, wrote := [], unit := [], foul := false, code64 := 0, scales := [] }

/-- Flush cancels a command that has not started (R125): its record with STATUS 3, and the error semaphore. A packet's record
goes to its ring, and its slot is cleared. -/
def State.cancelStart (s : State) (c : WCmd) : State :=
  let r := { freshRun c with canceled := true }
  (s.modWinch fun w =>
    { w with queued := w.queued.filter (fun x => x.id != c.id), running := w.running ++ [{ r with phase := s.afterWord c }] })

/-- WFLUSH at its start (R125): cancels what queue FQ has not started of what was issued before it. -/
def State.flushQueue (s : State) (c : WCmd) (fq : BitVec 2) : State :=
  if fq == c.q then s
  else (s.t.winch.queued.filter fun x => x.q == fq && decide (x.id < c.id)).foldl State.cancelStart s

/-- The start of a Winch write into an I-store bank clears its visibility, its refetch source and its tag (05_tile_buffers.md
R143, 13_control_slice.md R373). -/
def State.touchBank (s : State) (o : Nat) : State :=
  if o < 32768 then (s.modCtl fun c => { c with fv0 := false }).modBuf fun b => { b with src0 := none, tag0 := none }
  else (s.modCtl fun c => { c with fv1 := false }).modBuf fun b => { b with src1 := none, tag1 := none }

/-- The banks of the I-store that a span reaches, each by an offset in it. -/
def Span.banks (d : Span) : List Nat :=
  (if d.any fun o => decide (o < 32768) then [0] else []) ++ (if d.any fun o => decide (32768 ≤ o + d.size - 1) then [32768] else [])

/-- What the start of a command's write into its own tile does: the banks of the I-store it reaches lose their visibility
(13_control_slice.md R373), the idle generations READY (05_tile_buffers.md R152), the shards their entries (R120). DESIGN CHOICE
(notes/assumptions/129.md): a command's write starts when the command does. -/
def State.startWrite (s : State) (r : WRun) : State :=
  let ds := r.cmd.dests.filter fun d => s.isLocal d.loc
  let s := ((ds.filter fun d => locBuf d.loc == .i).flatMap Span.banks).foldl State.touchBank s
  let ws := ds.filter fun d => locBuf d.loc == .w
  if ws.isEmpty then s.putRun r
  else
    let rs := s.t.buf.wregs
    let hit (x : Nat) : Bool := ws.any fun d => d.any fun o => decide (wWrite rs o ≤ x ∧ x < wWrite rs o + d.size)
    let is := dedup (ws.flatMap fun d => d.regions rs)
    ((s.modBuf fun b => b.startWrites is).modWinch fun w => w.invalidate hit).putRun { r with wrote := is.map fun i => (s.here, i) }

/-- What starting a command does beyond its checks (R119, R120, R152). -/
def State.startEffects (s : State) (r : WRun) : State :=
  let c := r.cmd
  match c.op with
  | .wsig .. => s.payloadDone r
  | .wflush _ fq => (s.flushQueue c fq).putRun r
  | .wscrubInterval .. =>
    let n := bits 0 32 (c.arg 0)
    (s.modWinch fun w => { w with scrubInt := n, scrubDue := s.cycle + n.toNat }).payloadDone r
  | .wscrubNow _ _ si _ _ =>
    let (ok, s) := s.scrub si.toNat
    if ok then s.payloadDone r else s.failRun r (plainFault 0x46 0)
  | .wscrubDrop _ _ si _ _ =>
    (s.modWinch fun w =>
      { w with
        shards := w.shards.map fun (i, e) => if i == si.toNat then (i, { e with state := .invalid }) else (i, e) }).payloadDone r
  | .requestPacketSig _ => s.payloadDone r
  | _ => s.startWrite r

/-- WINCH_COMMAND_START (R95, R508): the head of a queue starts when it may, taking WTH from its semaphore. -/
def execWinchCommandStart (q : BitVec 2) (s : State) : Out :=
  match s.startable q with
  | none => .next s
  | some c =>
    let i := c.info
    let s := s.setSem i.wsem (s.sem i.wsem - i.wth.setWidth 16)
    let r := freshRun c
    let s := s.modWinch fun w => { w with queued := w.queued.filter (fun x => x.id != c.id), running := w.running ++ [r] }
    match s.startFault c with
    | some code => .next (s.failRun r (plainFault code 0))
    | none => .next (s.startEffects r)

/-! ### Local accesses -/

/-- The addresses of a run, each byte mapped on its own (R148). -/
def State.bufRun (s : State) (b : BufId) (side wr : Bool) (o n : Nat) : List Nat :=
  (upto n).map fun i => s.bufAddr b side wr (o + i)

/-- Write bytes for a Winch. `copy` marks the payload of a WCOPY, whose fill-half writes count as one (05_tile_buffers.md
R149). Poisoned bytes in the I-store leave their words with bad parity. -/
def State.bufWrite (s : State) (b : BufId) (side : Bool) (o : Nat) (d : List (Byte × Bool)) (copy : Bool) : State :=
  let cells := ((s.bufRun b side true o d.length).zip d).map fun (a, x) => (a, x.1, x.2)
  match b with
  | .i =>
    let s := (s.touchBank o).modBuf fun f => f.write (cells.map fun c => (c.1, c.2.1, false))
    s.modBuf fun f =>
      { f with ispar := cells.foldl (fun m c => if c.2.2 then SMap.set false m (c.1 / 8) true else m) f.ispar }
  | _ => if copy then s.modBuf fun f => f.write cells else s.writeAt cells

/-! ### Accesses -/

/-- The offset or address of an access. -/
def WPart.start (p : WPart) : Nat := (locStart p.loc + p.disp).toNat

/-- What moved with an access. -/
def WRun.moved (r : WRun) (d : List (Byte × Bool)) (p : WPart) : WRun :=
  let bs := d.map fun x => x.1
  let r := { r with poison := r.poison || (anyPoison d && !(r.cmd.tx && r.outb.isNone)) }
  if p.counts then
    { r with
      count := r.count + d.length, crc32 := crc32Run r.crc32 bs, crc64 := crc64Run r.crc64 bs
      code64 := if r.cmd.dbox.hb4 && p.n == 1 then r.code64 else crc64Run r.code64 bs }
  else r

/-- After the last access of an item (R121: a template image is parsed as far as it has been read). -/
def State.nextItem (s : State) (r : WRun) : State :=
  let r := { r with idx := r.idx + 1, sub := 0, hold := .free }
  if r.cmd.tx && r.outb.isNone then
    match txExpand r.buf r.cmd.dbox.count with
    | .more => s.putRun r
    | .bad at_ => s.failRun r (plainFault 0x44 (BitVec.ofNat 32 at_))
    | .done out => s.putRun { r with outb := some out, idx := 0, buf := [] }
  else s.putRun { r with buf := [] }

/-- An access has been made: `d` is what it read, or wrote. -/
def State.accessDone (s : State) (r : WRun) (p : WPart) (d : List (Byte × Bool)) : State :=
  match r.phase with
  | .moving =>
    let r := r.moved d p
    let r := if p.act == .write then r else { r with buf := r.buf ++ d }
    if r.sub + 1 ≥ (s.parts r r.idx).length then s.nextItem r else s.putRun { r with sub := r.sub + 1, hold := .free }
  | .word => (s.settleShard r).putRun { r with phase := s.afterWord r.cmd, hold := .free }
  | _ =>
    let n := (bits 32 2 (r.cmd.word 0)).toNat
    (s.modWinch fun w =>
      { w with cr := SMap.set ComplRing.zero w.cr n { w.crOf n with wp := ((w.crOf n).wp + 1) % 2 ^ (w.crOf n).lg } }).putRun
      { r with phase := .ready, hold := .free }

/-- A fault of an access (R508 step 5). DESIGN CHOICE (notes/assumptions/126.md): a record whose write into a completion ring faults is
lost; the ring's position stays and the packet keeps its own status. -/
def State.accessFault (s : State) (r : WRun) (f : WFault) : State :=
  match r.phase with
  | .ring => s.putRun { r with phase := .ready, hold := .free }
  | _ => s.failRun r f

/-- STATUS of a record (R112). -/
def WRun.status (r : WRun) : Nat :=
  match r.fault with
  | some f => if f.code == 0x4C then 4 else 2
  | none => if r.canceled then 3 else if r.poison then 1 else 0

/-- The 16 bytes of a completion record (R112), or of a translation fault record (03_far_memory.md R86). -/
def WRun.record (r : WRun) : Bytes :=
  let code := match r.fault with
    | some f => f.code.toNat
    | none => 0
  let aux := match r.fault with
    | some f => f.aux.toNat
    | none => 0
  let crc : Nat := match r.cmd.op with
    | .wcrc .. => (bits 0 32 r.digestWord).toNat
    | _ => (r.crc32 ^^^ 0xFFFFFFFF).toNat
  let w0 := match r.fault with
    | some f => if 0x50 ≤ code ∧ code ≤ 0x58 then f.word0.toNat else 2 ^ 32 * crc + r.count % 2 ^ 32
    | none => 2 ^ 32 * crc + r.count % 2 ^ 32
  toBytes 8 w0 ++ toBytes 8 (2 ^ 48 * r.cmd.info.tag.toNat + 2 ^ 40 * code + 2 ^ 32 * r.status + aux)

/-- The access at hand, with the data a write carries. -/
def State.accessOf (s : State) (r : WRun) : Option (WPart × List (Byte × Bool)) :=
  match r.phase with
  | .moving => (s.parts r r.idx)[r.sub]?.map fun p => (p, if p.act == .write then r.data r.idx r.sub p else [])
  | .word => some (s.part r.cmd.cwLoc 0 8 8 .write 1 false, clean (toBytes 8 r.cmd.cwVal.toNat))
  | .ring =>
    match s.ringOf r.cmd with
    | some c => some (s.part c.loc (16 * c.wp) 16 16 .write 1 false, clean r.record)
    | none => none
  | _ => none

/-- The weight region an offset of W lies in, by index. -/
def regionIndex (rs : List WRegion) (o : Nat) : List Nat :=
  (upto rs.length).filter fun i => match rs[i]? with
    | some r => decide (r.base ≤ o ∧ o < r.base + r.size)
    | none => false

/-- Does one of some accesses write into the weight region that another one writes? -/
def sameRegion (rs : List WRegion) (p : WPart) (qs : List WPart) : Bool :=
  qs.any fun q =>
    q.act == .write && q.home == p.home && locSp q.loc != 2 && locBuf q.loc == .w && regionIndex rs q.start == regionIndex rs p.start

/-- The request a remote access sends (05_tile_buffers.md R130); `first` marks the first write of the command into its weight region
there (R152). -/
def State.remoteReq (s : State) (r : WRun) (p : WPart) (d : List (Byte × Bool)) : RemoteReq :=
  let (op, sz, b, cmp) := r.cmd.atomic
  let rs := s.t.buf.wregs
  let w := p.act == .write && r.phase == .moving && locBuf p.loc == .w && !(regionIndex rs p.start).isEmpty
  let before := ((upto r.idx).flatMap fun k => s.parts r k) ++ (s.parts r r.idx).take r.sub
  { src := s.here, cmd := r.cmd.id, elem := 8 * r.idx + r.sub, buf := bits 60 2 p.loc, side := locSide p.loc
    off := BitVec.ofNat 20 p.start, first := w && !sameRegion rs p before
    op := match p.act with
      | .read => .read p.n
      | .write => .write (d.map fun x => x.1) (d.map fun x => x.2)
      | .atomic => .atomic op sz b cmp }

/-- The side that serves a slice's range: the first live one from k on (03_far_memory.md R80). -/
def State.servingSide (s : State) (k : Nat) : Option Nat :=
  ((upto 4).map fun i => (k + i) % 4).find? fun i =>
    (match SMap.find? s.far.sides i with
      | some x => x.live
      | none => true) && (linkTiles i).any s.tileLive

/-- The tile whose switch takes this tile's misses to a side: the nearer live attachment, the lower-numbered on a tie (R80). DESIGN
CHOICE (notes/assumptions/125.md): a live attachment that is no tile's home (spliced away by its host) stands at logical tile 0. -/
def State.sideTile (s : State) (k : Nat) : Nat :=
  let ts := ((linkTiles k).filter s.tileLive).map fun ph => (s.logicalOf ph).getD 0
  match ts with
  | [a, b] => if logicalLinks s.here a ≤ logicalLinks s.here b then a else b
  | a :: _ => a
  | [] => 0

/-- A miss goes to its slice (03_far_memory.md R79, R80); with no side live it is fault 0x56. -/
def State.sendMiss (s : State) (r : WRun) (va : Nat) (kind : BitVec 2) : State :=
  match s.servingSide (va / 2 ^ 39 % 4) with
  | none => s.accessFault r { code := 0x56, aux := 0, word0 := faultWord0 0 kind va }
  | some k =>
    (s.putRun { r with hold := .miss }).send (s.sideTile k)
      (.xmiss { tile := s.here, q := r.cmd.q, cmd := r.cmd.id, asid := s.asid, va := BitVec.ofNat 57 va, kind := kind })

/-- Make a far access as far as its translation (03_far_memory.md R76, R81). -/
def State.translate (s : State) (r : WRun) (va : Nat) (kind : BitVec 2) (k : Nat → Leaf → State) : State :=
  match s.tlbHit s.asid va with
  | none => if s.t.winch.missing r.cmd.q then s else s.sendMiss r va kind
  | some l =>
    match s.hitOutcome l va kind with
    | .error f => s.accessFault r f
    | .ok pa => k pa l

/-- One local access. -/
def State.localAccess (s : State) (r : WRun) (p : WPart) (d : List (Byte × Bool)) : State :=
  let b := locBuf p.loc
  let side := locSide p.loc
  match p.act with
  | .read =>
    let (bs, s) := s.readAt (s.bufRun b side false p.start p.n)
    s.accessDone r p bs
  | .write =>
    let copy := r.phase == .moving && (match r.cmd.op with
      | .wcopy .. => true
      | _ => false)
    (s.bufWrite b side p.start d copy).accessDone r p d
  | .atomic =>
    let (op, sz, x, cmp) := r.cmd.atomic
    let (old, bad, s) := s.atomicAt (s.bufAddr b side false p.start) op sz x cmp false
    s.accessDone r p ((toBytes p.n old.toNat).map fun y => (y, bad))

/-- The weight regions a first write opens at a tile or behind a gateway, as `WRun.wrote` names them. -/
def State.opens (s : State) (q : RemoteReq) (k : Nat) (p : WPart) : List (Nat × Nat) :=
  if q.first then (regionIndex s.t.buf.wregs p.start).map fun i => (k, i) else []

/-- Make the access at hand: a local one at once, a remote one by a request, a far one at its memory port. -/
def State.access1 (s : State) (r : WRun) (p : WPart) (d : List (Byte × Bool)) : State :=
  match p.home with
  | .tile t =>
    if t == s.here then s.localAccess r p d
    else
      let q := s.remoteReq r p d
      (s.putRun { r with hold := .resp, wrote := r.wrote ++ s.opens q t p }).send t (.winch q)
  | .gate ch =>
    let q := s.remoteReq r p d
    (s.putRun { r with hold := .resp, wrote := r.wrote ++ s.opens q (tileCount + ch.toNat) p }).sendOut (chMod (s.chEnt ch)) ch 7 (.winch q)
  | .far => s.translate r p.start p.kind fun pa l => s.putRun { r with hold := .far pa l.vbase l.size }

/-- Would a write go into an I-store bank in fetch use (R109)? -/
def State.intoFetch (s : State) (p : WPart) : Bool :=
  p.act == .write && p.home == .tile s.here && locSp p.loc != 2 && locBuf p.loc == .i && s.bankBusy p.start

/-- The checks of an item before its first access (R508 step 5): alignment and range, then access. -/
def State.itemFault (s : State) (r : WRun) (k : Nat) : Option (Byte × Nat) :=
  let ps := (s.parts r k).zip (upto (s.parts r k).length)
  match ps.findSome? fun (p, j) => (s.elemFault p.loc p.disp p.n p.al).map fun c => (c, j) with
  | some e => some e
  | none => ps.findSome? fun (p, j) => if s.intoFetch p then some (0x42, j) else none

/-- Is a command of a queue that was issued before an id still running? -/
def Winch.earlier (w : Winch) (q : BitVec 2) (id : Nat) : Bool :=
  w.running.any fun r => r.cmd.q == q && !r.cmd.refill && decide (r.cmd.id < id)

/-- Move a command's payload on by one access (R97). A bank that came into fetch use since the item began is fault 0x42 at its write
(13_control_slice.md R374). DESIGN CHOICE (notes/assumptions/124.md): commands of a queue that have started go on while another of the
queue waits on a miss. -/
def State.winchMove (s : State) (id : Nat) : State :=
  match s.runOf id with
  | none => s
  | some r =>
    if r.hold != .free then s
    else match r.phase with
      | .moving =>
        match r.cmd.op with
        | .wflush _ fq => if s.t.winch.earlier fq id then s else s.payloadDone r
        | .wtlbp _ _ kind _ _ => s.translate r (bits 0 57 (r.cmd.arg 0)).toNat kind fun _ _ => s.payloadDone r
        | _ =>
          if r.idx ≥ r.items then s.endPayload r
          else
            match (if r.sub = 0 then s.itemFault r r.idx else none) with
            | some (c, j) => s.failRun r (plainFault c (r.element r.idx j))
            | none =>
              match s.accessOf r with
              | some (p, d) =>
                if s.intoFetch p then s.failRun r (plainFault 0x42 (r.element r.idx r.sub)) else s.access1 r p d
              | none => s.nextItem r
      | .word | .ring =>
        match s.accessOf r with
        | some (p, d) => s.access1 r p d
        | none => s.putRun { r with phase := .ready }
      | _ => s

/-- Did the access before this one, of the same kind, lie in the same far unit? DEDUCED: the accesses of one command to one unit
that follow each other are one access of the unit (17_faults_repair.md R477). -/
def State.joins (s : State) (r : WRun) (p : WPart) : Bool :=
  r.phase == .moving &&
    ((if r.idx = 0 then [] else s.parts r (r.idx - 1)) ++ (s.parts r r.idx).take r.sub).any fun q =>
      q.home == .far && q.act == p.act && q.start / 32 == p.start / 32

/-- The bytes of the unit of an access that the items after it write, as far as they follow each other. -/
def State.aheadIn (s : State) (r : WRun) (p : WPart) : Nat → Nat → List Nat
  | 0, _ => []
  | n + 1, k =>
    if r.phase != .moving || r.items ≤ k then []
    else
      match (s.parts r k).filter fun q => q.home == .far && q.act == .write && q.start / 32 == p.start / 32 with
      | [] => []
      | qs => (qs.flatMap fun q => (upto q.n).map fun i => (q.start + i) % 32) ++ s.aheadIn r p n (k + 1)

/-- Are all bytes of a unit among some? -/
def wholeUnit (l : List Nat) : Bool := (upto 32).all fun i => l.contains i

/-- A far write of a command (17_faults_repair.md R477). With the command's neighbouring writes it may cover its unit, which then
needs no read and ends with the poison of the data alone. -/
def State.farPut (s : State) (r : WRun) (p : WPart) (pa : Nat) (d : List (Byte × Bool)) : State :=
  let j := s.joins r p
  let offs := (if j then r.unit else []) ++ (upto d.length).map fun i => (p.start + i) % 32
  let foul := (j && r.foul) || anyPoison d
  let fits := decide (pa % 32 + d.length ≤ 32)
  let s' :=
    if fits && wholeUnit offs then s.farCover pa d foul
    else if fits && wholeUnit (offs ++ s.aheadIn r p 32 (r.idx + 1)) then s.farPart pa d
    else s.farWrite pa d
  let scale := r.phase == .moving && r.cmd.dbox.hb4 && p.n == 1
  s'.accessDone { r with hold := .free, unit := offs, foul := foul, scales := if scale then r.scales ++ [pa] else r.scales } p d

/-- FAR_MEMORY_REQUEST (R116; 03_far_memory.md R91): the access a command waits to make is performed at the memory port; a stack that has
lost its last port since is fault 0x58 (03_far_memory.md R70). -/
def execFarMemoryRequest (id : Nat) (s : State) : Out :=
  match s.runOf id with
  | none => .next s
  | some r =>
    match r.hold, s.accessOf r with
    | .far pa _ _, some (p, d) =>
      if (s.servingPort pa).isNone then
        .next (s.accessFault { r with hold := .free } { code := 0x58, aux := 0, word0 := faultWord0 0 p.kind p.start })
      else match p.act with
      | .read =>
        let (bs, s) := if s.joins r p && decide (pa % 32 + p.n ≤ 32) then (s.farAgain pa p.n, s) else s.farRead pa p.n
        .next (s.accessDone { r with hold := .free } p bs)
      | .write => .next (s.farPut r p pa d)
      | .atomic =>
        let (op, sz, b, cmp) := r.cmd.atomic
        let (bs, s) := s.farAtomic pa op sz b cmp
        .next (s.accessDone { r with hold := .free } p bs)
    | _, _ => .next s

/-- WINCH_RESPONSE (R97): what a remote tile or a peer sent back. A refusal is fault 0x48 (R126). -/
def execWinchResponse (x : WResp) (s : State) : Out :=
  match s.runOf x.cmd with
  | none => .next s
  | some r =>
    match s.accessOf r with
    | none => .next s
    | some (p, d) =>
      if r.hold != .resp || x.elem != 8 * r.idx + r.sub then .next s
      else match x.body with
        | .data bs ps => .next (s.accessDone { r with hold := .free } p (bs.zip ps))
        | .written => .next (s.accessDone { r with hold := .free } p d)
        | .refused c =>
          let k := match p.home with
            | .tile t => t
            | .gate ch => tileCount + ch.toNat
            | .far => 0
          let opened := s.opens (s.remoteReq r p d) k p
          let aux : BitVec 32 := if r.phase == .moving then r.element r.idx r.sub else 0
          .next (s.accessFault { r with hold := .free, wrote := r.wrote.filter fun x => !opened.contains x } (plainFault c aux))

/-! ### A remote Winch's request at its target (05_tile_buffers.md R130, R152, R154) -/

/-- Does the target refuse an access (R126 code 0x48): outside the buffer, the I-store, or a second weight generation? -/
def State.refuses (s : State) (r : RemoteReq) (n : Nat) : Bool :=
  let b := bufOf r.buf
  let o := r.off.toNat
  b == .i || (r.side && b != .a) || decide (o + n > b.size) || (b == .w && wregUpper s.t.buf.wregs o)

/-- REMOTE_WINCH_REQUEST (05_tile_buffers.md R130): the tile switch performs the access and answers. A write into a generation
that an open plane load has latched is held (R154). DEDUCED (notes/assumptions/131.md): READY waits on the STATUS of a command of
another module (R152), so its end is told to the region it wrote, which answers nothing. -/
def execRemoteWinchRequest (r : RemoteReq) (s : State) : Out :=
  let b := bufOf r.buf
  let o := r.off.toNat
  let answer (s : State) (body : WRespBody) : State := s.reply r.src (.winchResp { cmd := r.cmd, elem := r.elem, body := body })
  match r.op with
  | .read n =>
    if s.refuses r n then .next (answer s (.refused 0x48))
    else
      let (bs, s) := s.readAt (s.bufRun b r.side false o n)
      .next (answer s (.data (bs.map fun x => x.1) (bs.map fun x => x.2)))
  | .atomic op sz x cmp =>
    let n := sizeBits sz / 8
    if s.refuses r n || b == .w || o % n != 0 then .next (answer s (.refused 0x48))
    else
      let (old, bad, s) := s.atomicAt (s.bufAddr b r.side false o) op sz x cmp false
      .next (answer s (.data (toBytes n old.toNat) ((upto n).map fun _ => bad)))
  | .write data poison =>
    if s.refuses r data.length then .next (answer s (.refused 0x48))
    else
      let rs := if b == .w then regionIndex s.t.buf.wregs o else []
      if s.t.latchedIdle rs then .next (s.send s.here (.winch r))
      else
        let s := if r.first then s.modBuf fun f => f.startWrites rs else s
        let w := wWrite s.t.buf.wregs o
        let s := if b == .w then s.modWinch fun x => x.invalidate fun k => decide (w ≤ k ∧ k < w + data.length) else s
        .next (answer (s.bufWrite b r.side o (data.zip poison) false) .written)
  | .over ok => .next (s.modBuf fun f => f.endWrites (regionIndex f.wregs o) ok)

/-! ### Completion (R96, R112, R113) -/

/-- End a command's writes into weight regions: its own tile's, those of a tile of this module, or those behind a gateway (R152). -/
def State.closeRegions (s : State) (r : WRun) : State :=
  let ok := decide (r.status = 0)
  r.wrote.foldl (fun s e =>
    if e.1 < tileCount then s.atTile e.1 fun u => u.modBuf fun b => b.endWrites [e.2] ok
    else
      let ch : Byte := BitVec.ofNat 8 (e.1 - tileCount)
      let base := match s.t.buf.wregs[e.2]? with
        | some g => g.base
        | none => 0
      s.sendOut (chMod (s.chEnt ch)) ch 7
        (.winch { src := s.here, cmd := r.cmd.id, elem := 0, buf := 1, side := false, off := BitVec.ofNat 20 base, first := false
                  op := .over ok })) s

/-- Does a span lie in the starboard side of the tile's own A-buffer, which holds the fill halves? -/
def State.inFill (s : State) (d : Span) : Bool := s.isLocal d.loc && locBuf d.loc == .a && locSide d.loc

/-- Record what a completed WCOPY wrote into the fill half of each pair (05_tile_buffers.md R149): codes and scale bytes alike. -/
def State.notePairs (s : State) (r : WRun) : State :=
  match r.cmd.op with
  | .wcopy .. =>
    let fill := r.cmd.dests.filter s.inFill
    if r.cmd.refill || fill.isEmpty || r.count = 0 then s
    else
      s.modBuf fun b =>
        { b with
          pairs := b.pairs.map fun p =>
            let inside (d : Span) (o : Nat) : Bool := decide (p.off ≤ o ∧ o + d.size ≤ p.off + p.size)
            if fill.any fun d => d.any (inside d) then
              let whole := r.cmd.dests.all fun d => s.inFill d && !(d.any fun o => !inside d o)
              let good := whole && locSp r.cmd.sbox.base == 2 && r.status == 0 && p.writes == 0
              { p with
                writes := p.writes + 1
                only := if good then some { src := r.cmd.src, dst := r.cmd.dst } else none }
            else p }
  | _ => s

/-- The request slot of a served packet is cleared and the read index written (R124). DESIGN CHOICE (notes/assumptions/128.md): under the
configuration as it stands then, should WRQCFG have changed it while the packet was served. -/
def State.packetDone (s : State) (n : BitVec 2) : State :=
  let q := s.t.winch.rqOf n.toNat
  let slot := q.base + 64 * (q.rd % 2 ^ q.lg)
  let s := s.bufWrite .a q.side (slot + 56) (clean (toBytes 8 0)) false
  let s := s.bufWrite .a q.side q.rix (clean (toBytes 8 (q.rd + 1))) false
  s.modWinch fun w => { w with rq := SMap.set ReqQueue.zero w.rq n.toNat { q with rd := q.rd + 1 } }

/-- Writing the completion record of a command (R112, step 3 of R96). -/
def State.writeRecord (s : State) (r : WRun) : State :=
  if r.cmd.info.o.cr.isSome && s.recordPlace r.cmd.crLoc then
    s.bufWrite (locBuf r.cmd.crLoc) (locSide r.cmd.crLoc) (locStart r.cmd.crLoc) (clean r.record) false
  else s

/-- TVAL of a Winch fault: TAG, whether it is a translation fault, the queue (17_faults_repair.md R468). -/
def WRun.trapValue (r : WRun) (code : Byte) : Word :=
  BitVec.ofNat 64 (2 ^ 48 * r.cmd.info.tag.toNat + (if 0x50 ≤ code.toNat ∧ code.toNat ≤ 0x58 then 4 else 0) + r.cmd.q.toNat)

/-- The trap of a command that ended in a fault (R113); a refused barrier arrival always traps (11_exact_reduction.md R331). -/
def State.faultTrap (s : State) (r : WRun) : State :=
  match r.fault with
  | none => s
  | some f =>
    let on := match s.region with
      | some g => g.trapsCode f.code
      | none => false
    if r.cmd.info.pc || on || f.code == 0xAA then
      s.trapEntry { code := f.code, arg := 0, slot := 15, async := true, lane := false, val := r.trapValue f.code }
    else s

/-- Steps 4 to 6 of R96 and the rest of R113, once the record stands: the semaphores, the phase, the trap; the barrier arrival
has been made or is not asked for. -/
def State.finishRun (s : State) (r : WRun) : State :=
  let i := r.cmd.info
  let s := s.modWinch fun w => { w with running := w.running.filter fun x => x.cmd.id != r.cmd.id }
  let s := match r.cmd.packet with
    | some n => s.packetDone n
    | none => s
  let s := if i.pc then
      (if r.fault.isNone && !r.canceled then s.modSync fun y => { y with closing := y.closing + 1 }
       else s.modSync fun y => { y with pcp := y.pcp - 1 })
    else s
  s.faultTrap r

/-- Steps 3 and 4 of R96: the record, then the signals. -/
def State.recordAndSignal (s : State) (r : WRun) : State :=
  let i := r.cmd.info
  let s := ((s.closeRegions r).notePairs r).writeRecord r
  let sig := match r.cmd.op with
    | .requestPacketSig _ => true
    | _ => false
  let s := if !r.canceled && i.sinc != 0 then s.semAdd i.ssem i.sinc sig else s
  if (r.fault.isSome || r.canceled) && s.t.winch.errEn.getLsbD r.cmd.q.toNat then
    s.semAdd (bits (8 * r.cmd.q.toNat) 8 s.t.winch.errSem) 1 false
  else s

/-- An arrival at a barrier that does not exist (11_exact_reduction.md R331): the command ends in a fault after its record, with the
rest of R113. DEDUCED (notes/assumptions/36.md): the trap is the A-kind trap of a Winch command. -/
def State.arriveFails (s : State) (r : WRun) (code : Byte) : State :=
  let q := r.cmd.q.toNat
  let bad := { r with fault := some (plainFault code 0) }
  if r.fault.isSome then (s.finishRun r).faultTrap bad
  else
    (if s.t.winch.errEn.getLsbD q then s.semAdd (bits (8 * q) 8 s.t.winch.errSem) 1 false else s).finishRun bad

/-- Step 5 of R96: a barrier arrival that is refused with 0xA9 is held (11_exact_reduction.md R331). -/
def State.arriveStep (s : State) (r : WRun) : State :=
  match r.cmd.info.ba with
  | none => s.finishRun r
  | some nb =>
    if r.canceled then s.finishRun r
    else match s.arriveFault nb with
      | some 0xA9 => s.putRun { r with phase := .arriving }
      | some code => s.arriveFails r code
      | none => (s.arriveAt nb).finishRun r

/-- WINCH_COMMAND_COMPLETE (R96). -/
def execWinchCommandComplete (id : Nat) (s : State) : Out :=
  match s.runOf id with
  | none => .next s
  | some r =>
    match r.phase with
    | .ready => .next ((s.recordAndSignal r).arriveStep r)
    | .arriving => .next (s.arriveStep r)
    | _ => .next s

/-- The record of an ended packet in its completion ring, at once: a local ring is written, a far one through the leaf the far-TLB
holds (R124). -/
def State.ringRecord (s : State) (r : WRun) : State :=
  match s.ringOf r.cmd with
  | none => s
  | some c =>
    let o := locStart c.loc + 16 * c.wp
    if s.isLocal c.loc then s.bufWrite (locBuf c.loc) (locSide c.loc) o (clean r.record) false
    else match s.tlbHit s.asid o with
      | none => s
      | some l =>
        match s.hitOutcome l o 1 with
        | .ok pa => s.farWrite pa (clean r.record)
        | .error _ => s

/-- Region teardown ends a started command with code 0x4C and STATUS 4 (R126, R127). DESIGN CHOICE (notes/assumptions/132.md): a ring
in far memory gets the record only where the far-TLB still holds its leaf. -/
def State.abortRun (s : State) (r : WRun) : State :=
  let r := { r with fault := some (plainFault 0x4C 0) }
  ((s.closeRegions r).writeRecord r).ringRecord r

/-- Region teardown on this tile's Winch: unstarted commands are discarded without records (R127). -/
def State.abortWinch (s : State) : State :=
  let rs := s.t.winch.running
  rs.foldl State.abortRun (s.modWinch fun w => { w with queued := [], running := [] })

/-! ### Request queues (R122-R124) -/

/-- The packet at the read position of a queue, when it can be served: its queue is enabled, nothing of it is in service, the
Winch queue has room, and byte 56 is nonzero. -/
def State.packetAt (s : State) (n : BitVec 2) : Option (ReqQueue × List Word × State) :=
  let q := s.t.winch.rqOf n.toNat
  let busy := s.t.winch.queued.any (fun c => c.packet == some n) || s.t.winch.running.any fun r => r.cmd.packet == some n
  if !q.en || busy || s.t.ctl.frozen || decide (s.t.winch.outstanding q.wq ≥ 16) then none
  else
    let (bs, s') := s.readAt (s.bufRun .a q.side false (q.base + 64 * (q.rd % 2 ^ q.lg)) 64)
    let d := bs.map fun x => x.1
    if d.getD 56 0 == 0 then none
    else
      let ws := (upto 8).map fun i => BitVec.ofNat 64 (leAt (8 * i) 8 d)
      let ws := if anyPoison bs then ws.take 7 ++ [0] else ws
      some (q, ws, s')

/-- The opcode of a packet's words. -/
def packetOpc (ws : List Word) : Nat := (bits 0 8 (ws.getD 0 0)).toNat

/-- A packet enters its Winch queue as a command (R124); PUT and AMO escape, and so does one whose record leaves the tile
(15_sync_time_phases.md R434). -/
def servePacket (i : Instr) (n : BitVec 2) (mine : Nat → Bool) (far : Bool) (s : State) : Out :=
  match s.packetAt n with
  | none => .next s
  | some (q, ws, s') =>
    if mine (packetOpc ws) then
      let s := s'.enqueue i q.wq ([0, 0, 0] ++ ws) [] [] (some n)
      let ring := bit 34 (ws.getD 0 0) && s.leaves (s.t.winch.crOf (bits 32 2 (ws.getD 0 0)).toNat).loc
      .next (if far || ring then s.escape else s)
    else .next s

/-- REQUEST_PACKET_GET (R124); it also takes a packet whose OPC names nothing, which ends with code 0x49. -/
def execRequestPacketGet (n : BitVec 2) (s : State) : Out :=
  servePacket (.requestPacketGet n) n (fun k => k == 1 || decide (k = 0 ∨ 4 < k)) false s

/-- REQUEST_PACKET_PUT (R124). -/
def execRequestPacketPut (n : BitVec 2) (s : State) : Out :=
  servePacket (.requestPacketPut n) n (fun k => k == 2) true s

/-- REQUEST_PACKET_AMO (R124). -/
def execRequestPacketAmo (n : BitVec 2) (s : State) : Out :=
  servePacket (.requestPacketAmo n) n (fun k => k == 3) true s

/-- REQUEST_PACKET_SIG (R124). -/
def execRequestPacketSig (n : BitVec 2) (s : State) : Out :=
  servePacket (.requestPacketSig n) n (fun k => k == 4) false s

end Sys2Proof.Machine
end

