-- ==== Sys2Proof/Machine/Slots.lean ====
section
/-!
DEFINITION. Mailbox slots, completion events and host memory as the controllers use them (12_leaving_module.md R347, R348).
-/

namespace Sys2Proof.Machine

open Sys2Proof

/-! ### Host memory -/

/-- Key of a byte of a function's host memory: the host address itself, one space for the four functions. -/
def State.hostBytes (s : State) (a n : Nat) : List (Byte × Bool) :=
  (upto n).map fun i => (SMap.get 0 s.host.mem (a + i), SMap.get false s.host.mempoison (a + i))

/-- Write bytes of host memory, each with the poisoned attribute it travels with. -/
def State.putHost (s : State) (a : Nat) (d : List (Byte × Bool)) : State :=
  s.modHost fun h =>
    { h with
      mem := loopN (fun i m => SMap.set 0 m (a + i) (d.getD i (0, false)).1) d.length h.mem
      mempoison := loopN (fun i m => SMap.set false m (a + i) (d.getD i (0, false)).2) d.length h.mempoison }

/-! ### Mailbox slots (R347) -/

/-- Where a byte of a slot is kept. -/
def slotKey (fn : BitVec 2) (slot : BitVec 4) (i : Nat) : Nat := 4096 * fn.toNat + 256 * slot.toNat + i

/-- One byte of a slot. -/
def State.slotByte (s : State) (fn : BitVec 2) (slot : BitVec 4) (i : Nat) : Byte := SMap.get 0 s.host.mbox (slotKey fn slot i)

/-- `n` bytes of a slot. -/
def State.slotBytes (s : State) (fn : BitVec 2) (slot : BitVec 4) (i n : Nat) : Bytes :=
  (upto n).map fun k => s.slotByte fn slot (i + k)

/-- A 64-bit word of a slot. -/
def State.slotWord (s : State) (fn : BitVec 2) (slot : BitVec 4) (i : Nat) : Nat := ofBytes (s.slotBytes fn slot i 8)

/-- Write bytes of a slot. -/
def State.putSlot (s : State) (fn : BitVec 2) (slot : BitVec 4) (i : Nat) (d : Bytes) : State :=
  s.modHost fun h => { h with mbox := loopN (fun k m => SMap.set 0 m (slotKey fn slot (i + k)) (d.getD k 0)) d.length h.mbox }

/-- What a byte of the MSI-X table holds at reset (PRESUMED, notes/assumptions/137.md: PCI Express): an entry is 16 bytes, its mask is bit 0 of byte 12,
and every vector is masked. -/
def msixReset (a : Nat) : Byte := if a % 16 = 12 then 1 else 0

/-- A byte of a function's MSI-X table. -/
def State.msixByte (s : State) (fn : BitVec 2) (a : Nat) : Byte := SMap.get (msixReset a) s.host.msix (0x8000 * fn.toNat + a)

/-- Is a vector masked? -/
def State.masked (s : State) (fn : BitVec 2) (v : BitVec 11) : Bool := (s.msixByte fn (16 * v.toNat + 12)).getLsbD 0

/-- The bit of the pending array (PBA) a vector has. -/
def State.pendingVector (s : State) (fn : BitVec 2) (v : BitVec 11) : Bool := SMap.get false s.host.pba (2048 * fn.toNat + v.toNat)

/-- Set or clear a vector's pending bit. -/
def State.setPba (s : State) (fn : BitVec 2) (v : BitVec 11) (x : Bool) : State :=
  s.modHost fun h => { h with pba := SMap.set false h.pba (2048 * fn.toNat + v.toNat) x }

/-- A function's MSI-X vector is raised; one that is masked waits in the pending array (R345; PRESUMED, notes/assumptions/137.md). -/
def State.raiseVector (s : State) (fn : BitVec 2) (v : BitVec 11) : State :=
  if s.masked fn v then s.setPba fn v true else s.modHost fun h => { h with vectors := h.vectors ++ [(fn, v)] }

/-- The controller answers a slot: STATUS, CODE, vector 0 (R347). -/
def State.answer (s : State) (fn : BitVec 2) (slot : BitVec 4) (status code : Byte) : State :=
  (((s.putSlot fn slot 1 [status]).putSlot fn slot 4 [code])).raiseVector fn 0

/-- A command refused (R347). -/
def State.refuse (s : State) (fn : BitVec 2) (slot : BitVec 4) (code : Byte) : State := s.answer fn slot 4 code

/-- A command accepted, to complete with event 0xCC (R348). -/
def State.accepted (s : State) (fn : BitVec 2) (slot : BitVec 4) : State := s.answer fn slot 1 0

/-- A command done at once, its results in the slot from byte 8. -/
def State.done (s : State) (fn : BitVec 2) (slot : BitVec 4) (results : Bytes) : State :=
  (s.putSlot fn slot 8 results).answer fn slot 2 0

/-- TAG of a slot's command word. -/
def State.slotTag (s : State) (fn : BitVec 2) (slot : BitVec 4) : BitVec 16 := BitVec.ofNat 16 (ofBytes (s.slotBytes fn slot 2 2))

/-- OPC of a slot's command word. -/
def State.slotOpc (s : State) (fn : BitVec 2) (slot : BitVec 4) : Byte := s.slotByte fn slot 0

/-- A command word to act on: its opcode, and bits [63:40] zero (R347); a slot whose STATUS is 1 is left alone. -/
inductive Doorbell where
  | ignore
  | refuse
  | act
deriving DecidableEq, Repr

/-- What a doorbell finds (R347). -/
def State.doorbell (s : State) (fn : BitVec 2) (slot : BitVec 4) : Doorbell :=
  if s.slotByte fn slot 1 == 1 then .ignore
  else if s.slotBytes fn slot 5 3 != [0, 0, 0] then .refuse else .act

/-- Run a mailbox command of an opcode (R347). A module in recovery serves only BSTAT and CFGLOAD, on host link 0
(17_faults_repair.md R489). -/
def State.mailbox (s : State) (fn : BitVec 2) (slot : BitVec 4) (opc : Byte) (k : State → State) : State :=
  if s.slotOpc fn slot != opc || (s.ctrl.recovery && fn != 0) then s
  else if s.ctrl.recovery && opc != 0x20 && opc != 0x25 then s.refuse fn slot 0xC9
  else match s.doorbell fn slot with
    | .ignore => s
    | .refuse => s.refuse fn slot 0xC9
    | .act => k s

/-- A deferred command completes with event 0xCC (R348, R351); its slot shows done. -/
def State.completed (s : State) (fn : BitVec 2) (slot : BitVec 4) (opc : Byte) (tag : BitVec 16) (err : Bool) (result : Word) :
    State :=
  let s :=
    if s.slotByte fn slot 1 == 1 && s.slotTag fn slot == tag && s.slotOpc fn slot == opc then s.putSlot fn slot 1 [2] else s
  s.moduleEvent 0xCC 3 0 (BitVec.ofNat 64 (opc.toNat + 2 ^ 8 * tag.toNat + 2 ^ 24 * (if err then 3 else 1))) result

/-- Accept a command that completes later (R348): the region or the number it concerns is kept with it. -/
def State.defer (s : State) (fn : BitVec 2) (slot : BitVec 4) (region : BitVec 16) (id : Nat) : State :=
  let d : Deferred := { fn := fn, slot := slot, tag := s.slotTag fn slot, opc := s.slotOpc fn slot, region := region, id := id }
  (s.modHost fun h => { h with deferred := h.deferred ++ [d] }).accepted fn slot

/-- End every deferred command that satisfies a test. -/
def State.finish (s : State) (p : Deferred → Bool) (err : Bool) (result : Word) : State :=
  let ds := s.host.deferred.filter p
  ds.foldl (fun s d => s.completed d.fn d.slot d.opc d.tag err result)
    (s.modHost fun h => { h with deferred := h.deferred.filter fun d => !p d })

end Sys2Proof.Machine
end

