-- ==== Sys2Proof/Machine/Xlat.lean ====
section
/-!
DEFINITION. Translation outside the tiles (03_far_memory.md R71-R90): page-table walks, the four sides with their slices and
walkers, fills, invalidations, and the failure of a side.
-/

namespace Sys2Proof.Machine

open Sys2Proof

/-! ### Walks (R72-R75) -/

/-- The index of a level (R73). -/
def walkIndex (rw lvl va : Nat) : Nat :=
  match lvl with
  | 0 => nbits 38 rw va
  | 1 => nbits 29 9 va
  | 2 => nbits 21 8 va
  | _ => nbits 16 5 va

/-- The size of the page a leaf of a level maps (R75). -/
def pageSize (lvl : Nat) : Nat :=
  match lvl with
  | 1 => 2 ^ 29
  | 2 => 2 ^ 21
  | _ => 2 ^ 16

/-- The alignment of the table a pointer of a level names: the size of that table (R73). -/
def nextTable (lvl : Nat) : Nat :=
  match lvl with
  | 0 => 4096
  | 1 => 2048
  | _ => 256

/-- A walk's fault, with the low bits of the entry that stopped it. -/
def walkFault (code : Byte) (lvl : Nat) (ent : Nat) : WalkResult := .fault code (BitVec.ofNat 2 lvl) (BitVec.ofNat 32 ent)

/-- Is an entry malformed for its level (R73, R74)? -/
def badEntry (lvl e : Nat) : Bool :=
  let leaf := e / 2 % 2 == 1
  let addr := nbits 8 33 e * 256
  e / 2 ^ 41 != 0 || nbits 6 2 e != 0 || (leaf && lvl == 0) || (!leaf && lvl == 3) || (!leaf && nbits 2 4 e != 0)
    || (if leaf then addr % pageSize lvl != 0 else addr % nextTable lvl != 0)

/-- Levels from `lvl` on, in a table at `t` (R75); `n` is how many levels are left. -/
def State.walkFrom (va rw : Nat) : Nat → Nat → Nat → State → WalkResult × State
  | 0, _, _, s => (walkFault 0x52 3 0, s)
  | n + 1, lvl, t, s =>
    let a := t + 8 * walkIndex rw lvl va
    if a ≥ farLimit then (walkFault 0x54 lvl 0, s)
    else if (s.servingPort a).isNone then (walkFault 0x58 0 0, s)
    else
      let (bs, s) := s.farRead a 8
      let e := valueOf bs
      if anyPoison bs then (walkFault 0x55 lvl 0, s)
      else if e % 2 = 0 then (walkFault 0x50 lvl e, s)
      else if badEntry lvl e then (walkFault 0x52 lvl e, s)
      else if e / 2 % 2 = 0 then State.walkFrom va rw n (lvl + 1) (nbits 8 33 e * 256) s
      else
        let base := nbits 8 33 e * 256
        let size := pageSize lvl
        if base + size > farLimit then (walkFault 0x54 lvl e, s)
        else
          (.leaf
            { vbase := va / size * size, base := base, size := size, s := e / 4 % 2 == 1, w := e / 8 % 2 == 1
              a := e / 16 % 2 == 1, x := e / 32 % 2 == 1, ent := BitVec.ofNat 32 e, lvl := BitVec.ofNat 2 lvl }, s)

/-- The walk of an address (R75). DESIGN CHOICE (notes/assumptions/122.md): an address with bits above the width of a ROOT that is itself
malformed (R72) gets 0x53, which the walk tests first, and not 0x52. -/
def State.walk (s : State) (asid : BitVec 16) (va : Nat) : WalkResult × State :=
  let d := SMap.get 0 s.far.asids asid.toNat
  let rw := (bits 58 5 d).toNat
  let root := (bits 12 29 d).toNat * 4096
  if !bit 63 d || rw == 0 || decide (rw > 19) then (walkFault 0x57 0 0, s)
  else if rw < 19 ∧ va / 2 ^ (38 + rw) ≠ 0 then (walkFault 0x53 0 0, s)
  else if 8 * 2 ^ rw > 4096 ∧ root % (8 * 2 ^ rw) ≠ 0 then (walkFault 0x52 0 0, s)
  else s.walkFrom va rw 4 0 root

/-- What the reads of a walk find in far memory: an entry of each upper level, and the level-3 table whole, in one access (R82). -/
def State.walkReads (va rw : Nat) : Nat → Nat → Nat → State → State
  | 0, _, _, s => s
  | n + 1, lvl, t, s =>
    let a := t + 8 * walkIndex rw lvl va
    if a ≥ farLimit ∨ (s.servingPort a).isNone then s
    else if lvl = 3 then (s.farRead t 256).2
    else
      let (bs, s) := s.farRead a 8
      let e := valueOf bs
      if anyPoison bs ∨ e % 2 = 0 ∨ badEntry lvl e ∨ e / 2 % 2 = 1 then s
      else State.walkReads va rw n (lvl + 1) (nbits 8 33 e * 256) s

/-- The state after the reads of the walk that fills a 2 MiB region (R75, R82). -/
def State.afterWalk (s : State) (asid : BitVec 16) (va : Nat) : State :=
  match (s.walk asid va).1 with
  | .fault 0x57 .. | .fault 0x53 .. => s
  | _ =>
    let d := SMap.get 0 s.far.asids asid.toNat
    let root := (bits 12 29 d).toNat * 4096
    let rw := (bits 58 5 d).toNat
    if 8 * 2 ^ rw > 4096 ∧ root % (8 * 2 ^ rw) ≠ 0 then s else State.walkReads va rw 4 0 root s

/-! ### Sides and slices (R79-R83) -/

/-- A side with nothing in it. -/
def XSide.zero : XSide := { live := true, slice := [], walks := [], count := 0 }

/-- A translation side. -/
def State.side (s : State) (k : Nat) : XSide := SMap.get XSide.zero s.far.sides k

/-- Update a side. -/
def State.modSide (s : State) (k : Nat) (f : XSide → XSide) : State :=
  s.modFar fun r => { r with sides := SMap.set XSide.zero r.sides k (f (SMap.get XSide.zero r.sides k)) }

/-- A fill travels to the far-TLB that missed, from the attachment tile of a side that takes that tile's misses (R80). -/
def State.sendFill (s : State) (k : Nat) (m : XMiss) (r : WalkResult) : State :=
  s.atTile (({ s with here := m.tile }).sideTile k) fun s => s.send m.tile (.xfill { miss := m, result := r })

/-- A refused miss is sent again after 256 cycles (R82). -/
def State.retryLater (s : State) (m : XMiss) : State :=
  s.atTile m.tile fun s =>
    match s.runOf m.cmd with
    | some r => if r.hold == .miss then s.putRun { r with hold := .retry (s.cycle + 256) } else s
    | none => s

/-- The misses waiting at a side. -/
def XSide.waiting (x : XSide) : Nat := (x.walks.map fun w => w.waiting.length).foldl (fun a b => a + b) 0

/-- XLAT_MISS_ARRIVE (R79, R82): a slice hit returns the translation; a miss joins the pending walk of its 2 MiB region or
starts one; a full slice refuses it. -/
def execXlatMissArrive (m : XMiss) (s : State) : Out :=
  let va := m.va.toNat
  match s.servingSide (va / 2 ^ 39 % 4) with
  | none => .next (s.sendFill (va / 2 ^ 39 % 4) m (.fault 0x56 0 0))
  | some k =>
    let x := s.side k
    match x.slice.find? fun e => e.1 == m.asid && leafCovers e.2 va with
    | some e => .next (s.sendFill k m (.leaf e.2))
    | none =>
      if x.waiting ≥ 8192 then .next (s.retryLater m)
      else if x.walks.any fun w => w.asid == m.asid && w.region == va / 2 ^ 21 then
        .next (s.modSide k fun x =>
          { x with
            walks := x.walks.map fun w =>
              if w.asid == m.asid && w.region == va / 2 ^ 21 then { w with waiting := w.waiting ++ [m] } else w })
      else
        .next ((s.modSide k fun x =>
          { x with
            walks := x.walks ++
              [{ id := s.far.nextWalk, asid := m.asid, region := va / 2 ^ 21, waiting := [m], stale := false }] }).modFar
          fun f => { f with nextWalk := f.nextWalk + 1 })

/-- XLAT_MISS_RETRY (R82): the refused miss is sent again. -/
def execXlatMissRetry (m : XMiss) (s : State) : Out :=
  match s.runOf m.cmd with
  | none => .next s
  | some r =>
    match r.hold with
    | .retry c => if s.cycle < c then .next s else .next (s.sendMiss r m.va.toNat m.kind)
    | _ => .next s

/-- The set of a slice that holds a leaf (R79): of 64, the one that the ASID and the VA give for its page size. -/
def sliceSet (asid : BitVec 16) (l : Leaf) : Nat := Config.sliceSet asid (l.vbase / l.size) l.size % 64

/-- Install a leaf in a slice of 64 sets of 12 ways (R79); a full set loses one way, which way a free value says. -/
def XSide.install (x : XSide) (asid : BitVec 16) (l : Leaf) (way : Nat) : XSide :=
  let others := x.slice.filter fun e => !(e.1 == asid && e.2.vbase == l.vbase && e.2.size == l.size)
  let set := others.filter fun e => sliceSet e.1 e.2 == sliceSet asid l
  let out := if set.length < 12 then none else set[way % 12]?
  { x with slice := (asid, l) :: others.filter fun e => some e != out }

/-- Resolve the waiting misses of a walk, each from the tables as they stand and were read; the counter advances once for each
distinct page filled (R82, R83). -/
def State.resolve (k : Nat) (asid : BitVec 16) : List XMiss → List Nat → State → State
  | [], _, s => s
  | m :: rest, seen, s =>
    let r := (s.walk asid m.va.toNat).1
    match r with
    | .leaf l =>
      let s := if seen.contains l.vbase then s
        else
          let (w, s) := s.freeWord
          s.modSide k fun x => { x.install asid l w.toNat with count := x.count + 1 }
      State.resolve k asid rest (l.vbase :: seen) (s.sendFill k m r)
    | _ => State.resolve k asid rest seen (s.sendFill k m r)

/-- XLAT_WALK_COMPLETE (R82, R83, R88): a walk ends. A stale one fills nothing and stays until its invalidation completes. A
512 MiB leaf ends the other walks of its page. -/
def execXlatWalkComplete (side : BitVec 2) (id : Nat) (s : State) : Out :=
  let k := side.toNat
  match ((s.side k).walks.take 64).find? fun w => w.id == id with
  | none => .next s
  | some w =>
    if w.stale then .next s
    else
      let r := (s.walk w.asid (w.region * 2 ^ 21)).1
      let big (v : Walk) : Bool :=
        v.id != id && !v.stale && v.asid == w.asid && (match r with
          | .leaf l => l.size == 2 ^ 29 && leafCovers l (v.region * 2 ^ 21)
          | _ => false)
      let ms := w.waiting ++ ((s.side k).walks.filter big).flatMap fun v => v.waiting
      let s := s.modSide k fun x => { x with walks := x.walks.filter fun v => !(v.id == id || big v) }
      .next ((State.resolve k w.asid ms [] s).afterWalk w.asid (w.region * 2 ^ 21))

/-- Why a WTLBP does not install a leaf: its own access faults on it (04_winch.md R125). -/
def State.probeFault (s : State) (m : XMiss) (l : Leaf) : Option WFault :=
  match s.runOf m.cmd with
  | none => none
  | some r =>
    match r.cmd.op with
    | .wtlbp .. =>
      (match s.hitOutcome l m.va.toNat m.kind with
       | .ok _ => none
       | .error f => some f)
    | _ => none

/-- XLAT_FILL_ARRIVE (R83): the far-TLB installs the leaf and its queue goes on; a fault ends the command, and a WTLBP that faults
installs nothing (04_winch.md R125). -/
def execXlatFillArrive (f : XFill) (s : State) : Out :=
  let probe := match f.result with
    | .leaf l => s.probeFault f.miss l
    | _ => none
  let s := match f.result, probe with
    | .leaf l, none => s.tlbFill f.miss.asid l
    | _, _ => s
  match s.runOf f.miss.cmd with
  | none => .next s
  | some r =>
    if r.hold != .miss then .next s
    else match f.result with
      | .leaf _ =>
        (match probe with
         | some e => .next (s.accessFault { r with hold := .free } e)
         | none => .next (s.putRun { r with hold := .free }))
      | .fault code lvl ent =>
        .next (s.accessFault { r with hold := .free }
          { code := code, aux := ent, word0 := faultWord0 lvl f.miss.kind f.miss.va.toNat })

/-- A side fails (R80): the misses pending in it receive fault 0x56, and event 0xF5 names the side that serves its range from now
on. -/
def State.sideFails (s : State) (k : Nat) : State :=
  if !(s.side k).live then s
  else
    let ms := (s.side k).walks.flatMap fun w => w.waiting
    let s := ms.foldl (fun s m => s.sendFill k m (.fault 0x56 0 0)) s
    let s := s.modSide k fun x => { x with live := false, slice := [], walks := [] }
    let next : Nat := (s.servingSide k).getD 0xFF
    s.moduleEvent 0xF5 3 0 (BitVec.ofNat 64 k) (BitVec.ofNat 64 next)

/-- XLAT_SIDE_FAIL (R80): a side reports an uncorrectable internal error. -/
def execXlatSideFail (side : BitVec 2) (s : State) : Out := .next (s.sideFails side.toNat)

/-! ### Invalidation (R87, R88) -/

/-- Does an invalidation cover a page of a base and a size, whole or in part (R87)? -/
def Inval.overlaps (v : Inval) (asid : BitVec 16) (vbase size : Nat) : Bool :=
  match v.kind.toNat with
  | 0 => asid == v.asid && decide (vbase < v.base + 65536 * v.pages ∧ v.base < vbase + size)
  | 1 => asid == v.asid
  | _ => true

/-- Does it cover a cached leaf? -/
def Inval.hits (v : Inval) (asid : BitVec 16) (l : Leaf) : Bool := v.overlaps asid l.vbase l.size

/-- Does it cover some page of a walk's 2 MiB region? -/
def Inval.hitsWalk (v : Inval) (w : Walk) : Bool := v.overlaps w.asid (w.region * 2 ^ 21) (2 ^ 21)

/-- An invalidation begins (R88): the pending walks it covers are marked stale. While 16 are outstanding it waits (R87). -/
def State.beginInval (s : State) (v : Inval) : State :=
  if 16 ≤ s.far.invals.length then s.modFar fun f => { f with invalWait := f.invalWait ++ [v] }
  else
    let s := s.modFar fun f => { f with invals := f.invals ++ [v] }
    (upto 4).foldl (fun s k =>
      s.modSide k fun x => { x with walks := x.walks.map fun w => if v.hitsWalk w then { w with stale := true } else w }) s

/-- The invalidations that waited begin, as far as there is room (R87). -/
def State.nextInval (s : State) : State :=
  match s.far.invalWait with
  | [] => s
  | v :: rest => (s.modFar fun f => { f with invalWait := rest }).beginInval v

/-- Has some access that translated through an entry it removes not performed yet (R88)? -/
def State.inFlight (s : State) (v : Inval) : Bool :=
  s.tiles.any fun e =>
    let asid := match s.regionAt e.1 with
      | some r => r.asid
      | none => 0
    e.2.winch.running.any fun r =>
      match r.hold with
      | .far _ vbase size => v.overlaps asid vbase size
      | _ => false

/-- INVALIDATION_COMPLETE (R88): the oldest invalidation completes once no access in flight came through an entry it removes.
Every far-TLB and slice drops the entries, fills on their way are walked again, and so are the stale walks. -/
def execInvalidationComplete (s : State) : Out :=
  match s.far.invals with
  | [] => .next s
  | v :: rest =>
    if s.inFlight v then .next s
    else
      let tiles := s.tiles.map fun (t, x) =>
        (t, { x with winch := { x.winch with tlb := x.winch.tlb.filter fun e => !v.hits e.1 e.2 } })
      let gone (p : Packet) : Option XMiss :=
        match p.body with
        | .xfill f =>
          (match f.result with
           | .leaf l => if v.hits f.miss.asid l then some f.miss else none
           | .fault .. => none)
        | _ => none
      let again := s.net.filterMap gone
      let s := { s with tiles := tiles, net := s.net.filter fun p => (gone p).isNone }
      let s := (upto 4).foldl (fun s k =>
        s.modSide k fun x =>
          { x with
            slice := x.slice.filter (fun e => !v.hits e.1 e.2)
            walks := x.walks.map fun w => if rest.any fun u => u.hitsWalk w then w else { w with stale := false } }) s
      let s := s.modFar fun f => { f with invals := rest }
      let s := again.foldl (fun s m => s.atTile m.tile fun s =>
        match s.runOf m.cmd with
        | some r => s.putRun { r with hold := .free }
        | none => s) s.nextInval
      .next (match v.slot with
        | some slot => s.completed v.fn slot 0x01 v.tag false 0
        | none => s)

end Sys2Proof.Machine
end

