-- ==== Sys2Proof/Machine/Halyard.lean ====
section
/-!
DEFINITION. The Halyard queue, the lane sequencer's tokens and trip ends, and the ramp limiter (13_control_slice.md R382-R392).
-/

namespace Sys2Proof.Machine

open Sys2Proof

/-! ### Issue of tokens (R382, R383) -/

/-- A token enters the queue at issue with the values it captured; a full queue stalls the bundle (R382). -/
def State.pushToken (s : State) (i : Instr) (vals : List Word) : State :=
  if s.t.ctl.hq.length ≥ 64 then s.stall .halyard i
  else
    let s := s.modCtl fun c => { c with hq := c.hq ++ [{ instr := i, vals := vals, enq := s.cycle, bad := false }] }
    { s with bun := { s.bun with tok := s.bun.tok + 1 } }

/-- An HY slot issued while a handler runs raises code 0x16 (17_faults_repair.md R471). -/
def outsideHandler (s : State) (k : Out) : Out := if s.t.ctl.trap.hnd then .next (s.raise 0x16) else k

/-- A token that captures some registers. -/
def tokenOp (i : Instr) (rs : List XReg) (s : State) : Out :=
  outsideHandler s (.next (s.reading i rs fun s => s.pushToken i (rs.map s.x)))

/-- The rate of a DISPATCH (R392). -/
def dispatchRate (den : BitVec 6) : Nat := 1200 * den.toNat / 63

/-- DISPATCH (R383, R386): trips from a register must fit 24 bits, or fault 0x03; a block in a bank with FV = 0 is fault 0x07
(R373); the ramp limiter withholds a rate above its level (R392). -/
def execDispatch (blk : BitVec 15) (xn : XReg) (imt rot : Bool) (den : BitVec 6) (se : Bool) (sem : Byte) (s : State) : Out :=
  let i : Instr := .dispatch blk xn imt rot den se sem
  let a : BitVec 16 := blk ++ 0#1
  outsideHandler s <|
    if !(se || sem == 0) then .next (s.raise 0x03)
    else .next (s.reading i (if imt then [] else [xn]) fun s =>
      let t : Word := if imt then BitVec.ofNat 64 (xn.toNat + 1) else s.x xn
      if t.toNat ≥ 2 ^ 24 then s.raiseVal 0x03 t
      else if !s.fv a then s.raiseVal 0x07 (a.setWidth 64)
      else if s.t.ctl.ramp.en && decide (s.t.ctl.ramp.lvl < dispatchRate den) then s.stall .ramp i
      else s.pushToken i [t])

/-- MASK (R383). -/
def execMask (p : BitVec 4) (xa xb : XReg) (s : State) : Out := tokenOp (.mask p xa xb) [xa, xb] s

/-- PARAM (R383): from a register, or the XT immediate. -/
def execParam (q : BitVec 4) (src : ParamSrc) (s : State) : Out :=
  match src with
  | .reg xa => tokenOp (.param q src) [xa] s
  | .imm v => outsideHandler s (.next (s.pushToken (.param q src) [v]))

/-- SCFG (R383): FLD 0-5. -/
def execScfg (st : BitVec 4) (fld : BitVec 3) (xa : XReg) (s : State) : Out :=
  outsideHandler s (if fld.toNat < 6 then tokenOp (.scfg st fld xa) [xa] s else .next (s.raise 0x03))

/-- LDEPTH (R383): L is 1 to 80. -/
def execLdepth (l : BitVec 7) (s : State) : Out :=
  outsideHandler s (if 1 ≤ l.toNat ∧ l.toNat ≤ 80 then tokenOp (.ldepth l) [] s else .next (s.raise 0x03))

/-- RBSET (R383): B is 0 to 79. -/
def execRbset (b : BitVec 7) (s : State) : Out :=
  outsideHandler s (if b.toNat < 80 then tokenOp (.rbset b) [] s else .next (s.raise 0x03))

/-- RSEED (R383). -/
def execRseed (xa : XReg) (s : State) : Out := tokenOp (.rseed xa) [xa] s

/-! ### Taking tokens (R386-R388) -/

/-- The cycle in which the last of a lane write lands: an atomic's old values at its 14th (07_streams_registers.md R198). -/
def LaneWrite.lands (w : LaneWrite) : Nat :=
  match w.target with
  | .amo _ _ _ _ _ _ _ (some _) => w.issued + 14
  | _ => w.due

/-- The lanes' end-of-block signal (R215): in the cycle after the last write of the block's bundles lands. -/
def State.endSignal (s : State) (sem : Byte) (since : Nat) : State :=
  let last := s.t.lane.pending.foldl (fun d w => if w.issued ≥ since then max d w.lands else d) s.cycle
  s.modLane fun l => { l with sigs := l.sigs ++ [{ sem := sem, due := last + 1 }] }

/-- Discard the writes still in flight to a predicate that a token writes (07_streams_registers.md R195). -/
def State.overPred (s : State) (f : Nat) : State :=
  s.modLane fun l =>
    { l with
      pending := l.pending.filter fun w => match w.target with
        | .prd f' .. => f' != f
        | _ => true }

/-- The effect of a token (R386). -/
def State.applyToken (s : State) (tk : Token) : State :=
  let a := tk.vals.getD 0 0
  match tk.instr with
  | .dispatch blk _ _ rot _ se sem =>
    if a == 0 then
      let s := s.modCtl fun c => { c with lpc := blk ++ 0#1 }
      if se then s.endSignal sem s.cycle else s
    else
      s.modCtl fun c =>
        { c with
          blk := some { blk := blk, rot := rot, se := se, sem := sem, lpc := blk ++ 0#1, off := false, trip := a.toNat
                        since := s.cycle } }
  | .mask p .. =>
    let f := physP s.t.ctl.rb p.toNat
    (s.overPred f).modLane fun l =>
      { l with p := SMap.set 0 l.p f (tk.vals.getD 1 0 ++ a), pmark := SMap.set false l.pmark f false }
  | .param q _ => s.modLane fun l => { l with q := SMap.set 0 l.q q.toNat a }
  | .scfg st fld _ => s.modLane fun l => { l with st := SMap.set 0 l.st (streamKey st.toNat fld.toNat) (bits 0 32 a) }
  | .ldepth l => s.rotate s.t.ctl.rb l.toNat
  | .rbset b => s.rotate b.toNat s.t.ctl.depth
  | .rseed _ => s.modLane fun l => { l with seed := a, rn := 0 }
  | _ => s

/-- Is a token due (R388): a DISPATCH two cycles after it was enqueued, any other one, and not before the free cycle? -/
def State.tokenDue (s : State) (tk : Token) : Bool :=
  let d := match tk.instr with
    | .dispatch .. => tk.enq + 2
    | _ => tk.enq + 1
  decide (max d s.t.ctl.laneFree ≤ s.cycle)

/-- TOKEN_TAKE (R386-R388): the lane sequencer takes the head token when no block runs and its cycle has come. An
uncorrectable entry escalates as code 0x80 (17_faults_repair.md R485). -/
def execTokenTake (s : State) : Out :=
  match s.t.ctl.hq with
  | [] => .next s
  | tk :: rest =>
    if s.t.ctl.blk.isSome || s.t.lane.stop || s.t.ctl.frozen || !s.tokenDue tk then .next s
    else if tk.bad then
      .next (s.escalate { code := 0x80, arg := 0, slot := 15, async := true, lane := false, val := 0 })
    else
      let s := s.modCtl fun c => { c with hq := rest, laneFree := s.cycle + 1 }
      let s := s.applyToken tk
      .next (if s.t.ctl.blk.isSome then s.soon (.lane s.here) else s)

/-- BLOCK_END_SIGNAL (R215): the signals that are due are applied. -/
def execBlockEndSignal (s : State) : Out :=
  let due := s.t.lane.sigs.filter fun g => decide (g.due ≤ s.cycle)
  let s := s.modLane fun l => { l with sigs := l.sigs.filter fun g => decide (s.cycle < g.due) }
  .next (due.foldl (fun s g => s.semAdd g.sem 1 false) s)

/-- LANE_WRITE_LAND (R211-R213): every lane write that is due lands. -/
def execLaneWriteLand (s : State) : Out := .next s.landDue

/-- The end of a trip (R387, R195): rotation, and after the last trip the block's signal. -/
def State.tripEnd (s : State) : State :=
  match s.t.ctl.blk with
  | none => s
  | some b =>
    let s := if b.rot then s.rotate ((s.t.ctl.rb + 79) % 80) s.t.ctl.depth else s
    if b.trip ≤ 1 then
      let s := s.modCtl fun c => { c with blk := none, lpc := b.blk ++ 0#1, laneFree := s.cycle + 1 }
      if b.se then s.endSignal b.sem b.since else s
    else s.modCtl fun c => { c with blk := some { b with trip := b.trip - 1, lpc := b.blk ++ 0#1, off := false } }

/-! ### The ramp limiter (R390-R392) -/

/-- What a cycle counts: an advancing beat, or a dummy beat that keeps the window at its floor (R392). -/
def State.rampBeat (s : State) : State :=
  let real := s.t.mx.beatNow
  (s.modCtl fun c =>
    let r := c.ramp
    { c with ramp := if real || (r.en && decide (r.beats < r.floor)) then { r with beats := r.beats + 1 } else r }).modMx
    fun m => { m with beatNow := false }

/-- The limiter at the end of a window (R392). -/
def Ramp.window (r : Ramp) : Ramp :=
  { r with
    lvl := min 1200 ((if r.held then max r.lvl r.beats else r.beats) + r.up)
    floor := r.beats - min r.dn 1200
    whw := if r.held then min (r.whw + 1) 0xFFFF else r.whw
    mlast := r.beats
    beats := 0
    held := false
    wstart := r.wstart + 1200 }

/-- RAMP_WINDOW_END (R392): every 1200 cycles from the start of fetch. -/
def execRampWindowEnd (s : State) : Out :=
  if s.cycle < s.t.ctl.ramp.wstart + 1200 then .next s
  else .next (s.modCtl fun c => { c with ramp := c.ramp.window })

end Sys2Proof.Machine
end

