-- ==== Sys2Proof/Machine/Matrix.lean ====
section
/-!
DEFINITION. The MX slot: pushes, plane loads, flips, drains and configuration (09_matrix.md R251-R272), and the result queues
(R266, R267).
-/

namespace Sys2Proof.Machine

open Sys2Proof

/-! ### Result queues (R266, R267) -/

/-- The rows of a queue. -/
def Mx.queue (m : Mx) (q : Nat) : List RqRow := SMap.get [] m.rq q

/-- Pop one 1024-bit half with the poison marks of its pieces (R266). -/
def Mx.popHalf (m : Mx) (q : Nat) : Option (BitVec 1024 × BitVec 4 × Mx) :=
  match m.queue q with
  | [] => none
  | r :: rest =>
    if SMap.get false m.half q then
      some (bits 1024 1024 r.data, bits 4 4 r.marks,
        { m with rq := SMap.set [] m.rq q rest, half := SMap.set false m.half q false })
    else some (bits 0 1024 r.data, bits 0 4 r.marks, { m with half := SMap.set false m.half q true })

/-- A pop by a lane slot: fault 0x24 when there is no row (R266). -/
def State.popRq (s : State) (q : BitVec 2) : Except Byte (BitVec 1024 × BitVec 4 × State) :=
  match s.t.mx.popHalf q.toNat with
  | none => .error 0x24
  | some (d, k, m) => .ok (d, k, s.modMx fun _ => m)

/-- Push a row, which later bundles pop (R267). -/
def Mx.pushRow (m : Mx) (q : Nat) (r : RqRow) : Mx := { m with rq := SMap.set [] m.rq q (m.queue q ++ [r]) }

/-- The rows a queue holds once the later pops of the bundle have been made (R266). -/
def State.rowsAfter (s : State) (q : Nat) : Nat :=
  let m := s.bun.ahead.foldl (fun (m : Mx) p => match m.popHalf p with
    | some (_, _, m') => m'
    | none => m) s.t.mx
  (m.queue q).length

/-- A whole MX slot: its guard tests predicate bit 0, and a slot that is not performed raises what decoding raises alone (R257). -/
def mxSlot (g : OptGuard) (chk : Except Byte Unit) (cs : List VCode) (s : State) (k : State → Except Byte State) : Out :=
  .next (s.wholeChk g (do
    chk
    s.liveCodes cs) (streamCodes cs) [] k)

/-- A check of decoding: a fault unless it holds. -/
def orFault (b : Bool) (c : Byte) : Except Byte Unit := if b then .ok () else .error c

/-! ### The pushes (R258) -/

/-- Read the scale bytes of g units from position p of a stream, those that `use` names; the access counts beside that of the units
(07_streams_registers.md R189). -/
def State.readScales (s : State) (st p g : Nat) (use : Nat → Bool) : Except Byte (List (Byte × Bool) × State) :=
  let as := (upto g).map fun j => s.scaleAddr st (p + j)
  if as.any Option.isNone then .error 0x29
  else do
    let a := as.map fun x => x.getD 0
    let s ← s.reach (16 + st) a
    pure (s.readSome a use)

/-- What decoding checks of the A operand of a push (R258): HB4 rows come from a stream. -/
def State.pushCheck (s : State) (a : VCode) : Except Byte Unit := orFault (s.t.mx.af != .hb4 || decide (112 ≤ a.toNat)) 0x22

/-- The A operand of a push: 1024 bits, whether any of it is poisoned, and its scale bytes. -/
def State.pushOperand (s : State) (a : VCode) : Except Byte (BitVec 1024 × Bool × List Nat × State) :=
  let af := s.t.mx.af
  let st := a.toNat - 112
  if 112 ≤ a.toNat && (s.stream st).fmt != (fmtCode af).toNat then .error 0x28
  else do
    let p := s.posAt st
    let (v, s) ← s.src a .w1024 fun _ => true
    if af == .hb4 then
      let (sc, s) ← s.readScales st p 8 fun _ => true
      pure (v.data, v.marks != 0 || anyPoison sc, sc.map fun x => x.1.toNat, s)
    else pure (v.data, v.marks != 0, [], s)

/-- The physical tile of the present one. -/
def State.phys (s : State) : Nat := s.home s.here

/-- A mismatch in column n at a push (R271): MXSR, event 0x30, and at the second naming of the cell since boot event 0x31, which retires
the home, once. -/
def State.mismatch (s : State) (n : Nat) : State :=
  let ck := s.t.mx.sr.ck
  let s := s.modMx fun m =>
    { m with sr := { m.sr with mis := inc16 m.sr.mis, fk := ck, fn := BitVec.ofNat 6 n, fv := true } }
  let arg : Word := BitVec.ofNat 64 (ck.toNat + 64 * n)
  let mis := s.t.mx.sr.mis.setWidth 64
  let s := s.tileEvent 0x30 arg mis
  let key := 4096 * s.phys + 64 * ck.toNat + n
  let c := SMap.get 0 s.ctrl.cells key + 1
  let s := s.modCtrl fun k => { k with cells := SMap.set 0 k.cells key c }
  let s := s.modCtrl fun k => { k with cellLog := if k.cellLog.contains key then k.cellLog else k.cellLog ++ [key] }
  if c == 2 then
    let s := s.tileEvent 0x31 arg mis
    if s.ctrl.splices.any fun p => p.trigger == 0x31 && p.home == s.phys then s
    else
      s.modCtrl fun k =>
        { k with
          splices := k.splices ++
            [{ tile := s.here, spare := none, trigger := 0x31, home := s.phys, stage := 0, due := s.cycle, cmd := none }] }
  else s

/-- An advancing beat that enters a row (R243, R247, R270). -/
def State.pushBeat (s : State) (a : BitVec 1024) (sc : List Nat) (ix : Nat) (fr : BitVec 2) (row : BitVec 6)
    (fresh poison : Bool) : State :=
  let s := s.advance
  let m := s.t.mx
  let bad := m.mismatches (rowElems m.af a sc) ix s.free
  let (tot, fl) := m.totals a sc ix s.free
  let x : MxRow :=
    { age := 0, frame := fr, row := row, fresh := fresh, poison := poison || m.throughPoison ix || !bad.isEmpty
      sinceFlip := true, totals := tot, flags := fl }
  let s := { s.modMx fun m => { m with rows := m.rows ++ [x] } with free := s.free + 16384 }
  bad.foldl State.mismatch s

/-- The metadata register of a sparse push: its value, and whether any lane group of it is poisoned (R249, R254). -/
def State.metadata (s : State) (ix : BitVec 6) : Except Byte (Nat × Bool) := do
  let v ← s.vreg ix.toNat
  pure (v.data.toNat, v.marks != 0)

/-- MPUSHA (R258): dense only. -/
def execMpusha (g : OptGuard) (a : VCode) (fr : BitVec 2) (row : BitVec 6) (nw : Bool) (s : State) : Out :=
  mxSlot g (do
    orFault (s.t.mx.spm == 0) 0x21
    s.pushCheck a) [a] s fun s => do
      let (v, p, sc, s) ← s.pushOperand a
      pure (s.pushBeat v sc 0 fr row nw p)

/-- MPUSHAS (R258): sparse only. -/
def execMpushas (g : OptGuard) (a : VCode) (fr : BitVec 2) (row ix : BitVec 6) (s : State) : Out :=
  mxSlot g (do
    orFault (s.t.mx.spm != 0) 0x21
    s.pushCheck a) [a, ix.setWidth 7] s fun s => do
      let (i, q) ← s.metadata ix
      let (v, p, sc, s) ← s.pushOperand a
      pure (s.pushBeat v sc i fr row false (p || q))

/-- MPUSHAN (R255, R258): the frame row is MROW, which advances. -/
def execMpushan (g : OptGuard) (a : VCode) (fr : BitVec 2) (nw sp : Bool) (ix : BitVec 6) (s : State) : Out :=
  mxSlot g (do
    orFault (sp != (s.t.mx.spm == 0)) 0x21
    orFault (sp || ix == 0) 0x22
    s.pushCheck a) (if sp then [a, ix.setWidth 7] else [a]) s fun s => do
      let (i, q) ← if sp then s.metadata ix else pure (0, false)
      let (v, p, sc, s) ← s.pushOperand a
      let row := s.t.mx.mrow
      pure (s.pushBeat v sc i fr row nw (p || q) |>.modMx fun m => { m with mrow := row + 1 })

/-- MSHIFT: an advancing beat that enters no row (R259). -/
def execMshift (g : OptGuard) (s : State) : Out := mxSlot g (.ok ()) [] s fun s => .ok s.advance

/-! ### Planes (R251-R254, R260, R261) -/

/-- The plane row a load writes (R260): ROW, or SROW brought into range; `none` is a ROW outside the plane. -/
def Mx.loadRow (m : Mx) (au : Bool) (row : BitVec 7) : Option Nat :=
  if au then (if row == 0 then some (m.srow.toNat % m.rowsOf) else none)
  else if row.toNat < m.rowsOf then some row.toNat else none

/-- Is a row in flight that was pushed before the most recent MFLIP (R260)? -/
def Mx.oldRow (m : Mx) : Bool := m.rows.any fun x => !x.sinceFlip

/-- The generations that plane loads read until the next MFLIP (05_tile_buffers.md R154). -/
def State.latch (s : State) : State :=
  s.modMx fun m =>
    { m with
      latched := match m.latched with
        | some l => some l
        | none =>
          let rs := s.t.buf.wregs
          some ((rs.zip (upto rs.length)).map fun (r, i) => (i, r.gc)) }

/-- The physical address a plane load of a W offset reads (R154). -/
def State.latchedAddr (s : State) (o : Nat) : Nat :=
  let rs := s.t.buf.wregs
  match (rs.zip (upto rs.length)).find? fun (r, _) => decide (r.base ≤ o ∧ o < r.base + r.size) with
  | none => BufId.base .w false + o
  | some (r, i) =>
    let g : Bool := match s.t.mx.latched with
      | some l => ((l.find? fun e => e.1 == i).map fun e => e.2).getD r.gc
      | none => r.gc
    BufId.base .w false + (if g then o + r.size else o)

/-- The cell words of a record: the next stored word for each bit of MASK that is set, zero elsewhere (R252). -/
def spread (mask : Nat) : Nat → Nat → List Nat → List Nat
  | 0, _, _ => []
  | f + 1, n, ws =>
    if mask / 2 ^ n % 2 = 1 then ws.headD 0 :: spread mask f (n + 1) ws.tail else 0 :: spread mask f (n + 1) ws

/-- Write a row of the shadow plane: cells, the scales of its group when given, with whether they were read poisoned, its poison mark and its
source descriptor. -/
def Mx.loadPlane (m : Mx) (l : Nat) (cells : List Nat) (scales : Option (List Nat)) (foul bad : Bool) (desc : Word) : Mx :=
  let p := !m.active
  { m with
    cells := loopN (fun n c => SMap.set 0 c (cellKey p l n) (BitVec.ofNat 16 (cells.getD n 0))) 64 m.cells
    scales := match scales with
      | none => m.scales
      | some sc => loopN (fun n c => SMap.set 0 c (scaleKey p (l / 8) n) (BitVec.ofNat 8 (sc.getD n 0))) 64 m.scales
    pmarks := SMap.set false m.pmarks (planeKey p l) bad
    smarks := if scales.isSome then SMap.set false m.smarks (groupKey p (l / 8)) foul else m.smarks
    desc := SMap.set 0 m.desc (planeKey p l) desc }

/-- The source descriptor of a plane row (R272): kind (0 zero state, 1 MPUSHBZ, 2 record, 3 poisoned), physical W offset,
length in units, CRC32C. -/
def planeDesc (kind off len : Nat) (crc : BitVec 32) : Word :=
  BitVec.ofNat 64 (2 ^ 62 * kind + 2 ^ 42 * off + 2 ^ 32 * len + crc.toNat)

/-- The header of a B record (R252): MASK, SC, and whether it is well formed for a row. -/
def recordHead (h : Nat) (hb4 : Bool) (row : Nat) : Nat × Bool × Bool :=
  let sc := nbits 72 1 h == 1
  (nbits 0 64 h, sc, nbits 64 8 h == 0xB7 && nbits 73 55 h == 0 && sc == (hb4 && row % 8 == 0))

/-- The length of a record in units (R251). -/
def recordUnits (mask : Nat) (sc : Bool) : Nat := 2 * ceilDiv (128 + (if sc then 512 else 0) + 16 * popcN 64 mask) 256

/-- A decoded record: cell words and scale bytes. -/
def recordCells (d : Nat) (mask : Nat) (sc : Bool) : List Nat × Option (List Nat) :=
  let b := if sc then 640 else 128
  (spread mask 64 0 ((upto 64).map fun i => nbits (b + 16 * i) 16 d),
    if sc then some ((upto 64).map fun n => nbits (128 + 8 * n) 8 d) else none)

/-- The row counter after a load with AU = 1. -/
def Mx.nextRow (m : Mx) (au : Bool) (row : Nat) : Mx :=
  if au then { m with srow := BitVec.ofNat 7 ((row + 1) % m.rowsOf) } else m

/-- Is a W stream one that MPUSHB accepts (R251)? -/
def State.bStream (s : State) (st : Nat) : Bool :=
  let v := s.stream st
  s.streamLegal st && v.buf == 1 && !v.order && !v.skew && v.pitch == 16 * v.units && v.fmt == (fmtCode s.t.mx.bf).toNat

/-- MPUSHB (R251, R260). -/
def execMpushb (g : OptGuard) (sc : VCode) (au : Bool) (row : BitVec 7) (s : State) : Out :=
  let m := s.t.mx
  let st := sc.toNat - 112
  let v := s.stream st
  let total := v.rows * v.units
  let l := (m.loadRow au row).getD 0
  mxSlot g (do
    orFault (decide (112 ≤ sc.toNat)) 0x22
    orFault (m.loadRow au row).isSome 0x22) [sc] s fun s =>
      if m.oldRow then .error 0x26
      else if !s.bStream st then .error 0x28
      else if v.pos % 2 != 0 then .error 0x2A
      else if v.pos + 2 > total then .error 0x2B
      else if v.off + 16 * (v.pos + 2) > BufId.size .w then .error 0x29
      else
        let s := (s.latch).naming [st] []
        let addrs (n : Nat) : List Nat := (upto (16 * n)).map fun i => s.latchedAddr (v.off + 16 * v.pos + i)
        let (hb, _) := s.readAt (addrs 1)
        let (mask, scale, ok) := recordHead (valueOf hb) (m.bf == .hb4) l
        let len := recordUnits mask scale
        if !ok then .error 0x2F
        else if v.pos + len > total then .error 0x2B
        else if v.off + 16 * (v.pos + len) > BufId.size .w then .error 0x29
        else
          let (bs, s) := s.readAt (addrs len)
          let (cells, scales) := recordCells (valueOf bs) mask scale
          let bad := anyPoison bs
          let d := planeDesc (if bad then 3 else 2) ((addrs 1).headD 0 - BufId.base .w false) len (crc32c (bs.map fun x => x.1))
          let s := s.setPos st (v.after v.pos len)
          .ok (s.modMx fun m => (m.loadPlane l cells scales (anyPoison ((bs.drop 16).take 64)) bad d).nextRow au l)

/-- MPUSHBZ (R260, R253): zero cell words; a row that is a multiple of 8 clears its group's scales in HB4. -/
def execMpushbz (g : OptGuard) (au : Bool) (row : BitVec 7) (s : State) : Out :=
  let m := s.t.mx
  let l := (m.loadRow au row).getD 0
  mxSlot g (orFault (m.loadRow au row).isSome 0x22) [] s fun s =>
    if m.oldRow then .error 0x26
    else
      .ok (s.modMx fun m =>
        (m.loadPlane l [] (if m.bf == .hb4 && l % 8 == 0 then some [] else none) false false (planeDesc 1 0 0 0)).nextRow au l)

/-- MFLIP (R261, R270). -/
def execMflip (g : OptGuard) (s : State) : Out :=
  mxSlot g (.ok ()) [] s fun s =>
    .ok (s.modMx fun m =>
      Mx.mirror
        { m with
          active := !m.active, latched := none, rows := m.rows.map fun x => { x with sinceFlip := false }
          sr := { m.sr with ck := m.sr.ck + 1 } })

/-! ### Draining, zeroing, configuring (R262-R265) -/

/-- The bytes of a frame row. -/
def rowAddrs (fr : BitVec 2) (row : BitVec 6) : List Nat := run (frameAddr fr row) 256

/-- Clear frame rows: their words, checks and poison bits. -/
def Buf.zeroRows (b : Buf) (rs : List Nat) : Buf := rs.foldl (fun b r => (b.storeRow r 0 false 0).setRow r FrameRow.zero) b

/-- MDRAIN and MDRAINZ (R262): the shared port reads one row, and the row enters a result queue at the end of the bundle. -/
def drain (g : OptGuard) (q fr : BitVec 2) (au : Bool) (row : BitVec 6) (zero : Bool) (s : State) : Out :=
  mxSlot g (orFault (!au || row == 0) 0x22) [] s fun s =>
    if s.rowsAfter q.toNat ≥ 8 then .error 0x25
    else do
      let r := if au then s.t.mx.drow else row
      let s ← s.access (rowAddrs fr r)
      let (bs, s) := s.readAt (rowAddrs fr r)
      let x : RqRow := { data := BitVec.ofNat 2048 (valueOf bs), marks := if anyPoison bs then 0xFF else 0 }
      let s := if au then s.modMx fun m => { m with drow := r + 1 } else s
      let s := if zero then s.modBuf fun b => b.zeroRows [64 * fr.toNat + r.toNat] else s
      pure (if s.bun.active then { s with bun := { s.bun with drain := some (q.toNat, x) } }
        else s.modMx fun m => m.pushRow q.toNat x)

/-- MDRAIN (R262). -/
def execMdrain (g : OptGuard) (q fr : BitVec 2) (au : Bool) (row : BitVec 6) (s : State) : Out := drain g q fr au row false s

/-- MDRAINZ (R262). -/
def execMdrainz (g : OptGuard) (q fr : BitVec 2) (au : Bool) (row : BitVec 6) (s : State) : Out := drain g q fr au row true s

/-- MZERO (R263): one access of the shared port. -/
def execMzero (g : OptGuard) (fr : BitVec 2) (al : Bool) (row : BitVec 6) (s : State) : Out :=
  mxSlot g (orFault (!al || row == 0) 0x22) [] s fun s => do
    let s ← s.access [frameAddr fr row]
    let rs := if al then (upto 64).map fun i => 64 * fr.toNat + i else [64 * fr.toNat + row.toNat]
    pure (s.modBuf fun b => b.zeroRows rs)

/-- MCHK (R264): MXSR and MXCFG to a vector register at latency 1; CLR then clears MXSR. -/
def execMchk (g : OptGuard) (d : VCode) (clr : Bool) (s : State) : Out :=
  mxSlot g (orFault (decide (d.toNat < 96)) 0x22) [d] s fun s => do
    let m := s.t.mx
    let data : BitVec 1024 := (m.cfgWord ++ m.sr.word : BitVec 128).setWidth 1024
    let s ← s.writeReg d.toNat 1 { data := data, mask := BitVec.allOnes 1024, flags := 0 } 0
    pure (if clr then s.clearMxsr (BitVec.allOnes 64) else s)

/-- MCFG (R265): a pair outside R241 is fault 0x21, a row in flight fault 0x27. -/
def execMcfg (g : OptGuard) (af bf : Fmt) (spm : BitVec 2) (sat rst : Bool) (s : State) : Out :=
  mxSlot g (orFault (mxPair af bf) 0x21) [] s fun s =>
    if !s.t.mx.rows.isEmpty then .error 0x27
    else
      .ok (s.modMx fun m =>
        { m with
          af := af, bf := bf, spm := spm, sat := sat, cells := [], scales := [], pmarks := [], smarks := [], desc := [], spare := []
          srow := if rst then 0 else m.srow, mrow := if rst then 0 else m.mrow, drow := if rst then 0 else m.drow })

end Sys2Proof.Machine
end

