-- ==== Sys2Proof/Machine/Special.lean ====
section
/-!
DEFINITION. The special functions (08_vector.md R238): the exact real value of each, enclosed finely enough to be rounded in every
rounding mode. Enclosures are pairs of integers in units of 2^-P, the value between them.
-/

namespace Sys2Proof.Machine

open Sys2Proof

/-- An enclosure in units of 2^-P: from `lo` to `hi`. -/
structure Encl where
  lo : Nat
  hi : Nat
deriving DecidableEq, Repr

/-- Sum of z^(2k+1)/(2k+1) for k below n, rounded down: `t` is z^(2k+1). -/
def atanhLo (p z2 : Nat) : Nat → Nat → Nat → Nat
  | 0, _, _ => 0
  | n + 1, k, t => t / (2 * k + 1) + atanhLo p z2 n (k + 1) (t * z2 / 2 ^ p)

/-- The same sum rounded up, with a bound of the rest of the series added (z at most 1/3). -/
def atanhHi (p z2 : Nat) : Nat → Nat → Nat → Nat
  | 0, _, t => 2 * t + 2
  | n + 1, k, t => t / (2 * k + 1) + 1 + atanhHi p z2 n (k + 1) (t * z2 / 2 ^ p + 1)

/-- atanh(a/b) for a/b at most 1/3. -/
def atanhOf (p a b : Nat) : Encl :=
  let zl := a * 2 ^ p / b
  let zh := zl + 1
  ⟨atanhLo p (zl * zl / 2 ^ p) p 0 zl, atanhHi p (zh * zh / 2 ^ p + 1) p 0 zh⟩

/-- ln 2 = 2 atanh(1/3). -/
def ln2 (p : Nat) : Encl :=
  let a := atanhOf p 1 3
  ⟨2 * a.lo, 2 * a.hi⟩

/-- e^t for t below 1, rounded down: `term` is t^k/k!. -/
def expLo (p t : Nat) : Nat → Nat → Nat → Nat
  | 0, _, _ => 0
  | n + 1, k, term => term + expLo p t n (k + 1) (term * t / 2 ^ p / k)

/-- e^t for t below 1, rounded up, with a bound of the rest of the series added. -/
def expHi (p t : Nat) : Nat → Nat → Nat → Nat
  | 0, _, term => 2 * term + 2
  | n + 1, k, term => term + expHi p t n (k + 1) (term * t / 2 ^ p / k + 1)

/-- e^t for t in an enclosure below 1. -/
def expOf (p : Nat) (t : Encl) : Encl := ⟨expLo p t.lo p 1 (2 ^ p), expHi p t.hi p 1 (2 ^ p)⟩

/-- 2^f for a fraction f = n/2^d below 1, d at most P: e^(f ln 2). -/
def exp2Frac (p n d : Nat) : Encl :=
  let l := ln2 p
  expOf p ⟨n * l.lo / 2 ^ d, n * l.hi / 2 ^ d + 1⟩

/-- e^-y for y = m * 2^-d with d at most P: 2^-k e^(k ln 2 - y) with k the least that makes the exponent positive. -/
def expNeg (p m d : Nat) : Encl :=
  let l := ln2 p
  let y := m * 2 ^ (p - d)
  let k := y / l.lo + 1
  let e := expOf p ⟨k * l.lo - y, k * l.hi - y⟩
  ⟨e.lo / 2 ^ k, e.hi / 2 ^ k + 1⟩

/-- The bits below the point that a settled enclosure keeps. -/
abbrev keptBits : Nat := 240

/-- The kept bits of an enclosure, when both ends agree on them. -/
def Encl.settled (p : Nat) (x : Encl) : Option Nat :=
  let k := 2 ^ (p - keptBits)
  if x.lo / k = x.hi / k then some (x.lo / k) else none

/-- The kept bits of a value: the first precision that settles them. -/
def settle (f : Nat → Encl) : Nat :=
  match (f 320).settled 320 with
  | some m => m
  | none =>
    match (f 640).settled 640 with
    | some m => m
    | none => (f 1280).lo / 2 ^ (1280 - keptBits)

/-- A value whose magnitude lies strictly between the kept bits and the next. -/
def irrational (s : Bool) (f : Nat → Encl) : Exact := .fin s (settle f) (-(keptBits : Int)) true

/-- A finite magnitude m * 2^e below 2^-60? -/
def tinyMag (m : Nat) (e : Int) : Bool := decide (e + (bitLen m : Int) ≤ -60)

/-- Is m * 2^e at least 2^k? -/
def atLeastPow (m : Nat) (e : Int) (k : Int) : Bool := decide (e + (bitLen m : Int) - 1 ≥ k)

/-- m * 2^e as a numerator over 2^200 (e at least -200). -/
def over200 (m : Nat) (e : Int) : Nat := m * 2 ^ (e + 200).toNat

/-- 1/x for finite x ≠ 0. -/
def recip (s : Bool) (m : Nat) (e : Int) : Exact :=
  let n := 2 ^ 200
  .fin s (n / m) (-200 - e) (n % m != 0)

/-- √x for finite x > 0. -/
def sqrtOf (m : Nat) (e : Int) : Exact :=
  let odd := e % 2 != 0
  let e' := if odd then e - 1 else e
  let v := (if odd then 2 * m else m) * 2 ^ 200
  let r := Nat.sqrt v
  .fin false r (e' / 2 - 100) (r * r != v)

/-- 1/√x for finite x > 0: the root of 2^400/x. -/
def rsqrtOf (m : Nat) (e : Int) : Exact :=
  let odd := e % 2 != 0
  let e' := if odd then e - 1 else e
  let m' := if odd then 2 * m else m
  let v := 2 ^ 400 / m'
  let r := Nat.sqrt v
  .fin false r (-(e' / 2) - 200) (r * r * m' != 2 ^ 400)

/-- 2^x for finite x ≠ 0. -/
def exp2Of (s : Bool) (m : Nat) (e : Int) : Exact :=
  if tinyMag m e then (if s then .fin false (2 ^ 61 - 1) (-61) true else .fin false (2 ^ 60) (-60) true)
  else if atLeastPow m e 9 then (if s then .fin false 0 (-400) true else .fin false 1 400 true)
  else
    let n := over200 m e
    let i : Int := if s then -((ceilDiv n (2 ^ 200) : Nat) : Int) else ((n / 2 ^ 200 : Nat) : Int)
    let f := if s then (2 ^ 200 - n % 2 ^ 200) % 2 ^ 200 else n % 2 ^ 200
    if f = 0 then .fin false 1 i false else .fin false (settle fun p => exp2Frac p f 200) (i - keptBits) true

/-- log2 x for finite x > 0. -/
def log2Of (m : Nat) (e : Int) : Exact :=
  let b := Nat.log2 m
  let i : Int := e + (b : Int)
  let one := 2 ^ b
  if m = one then .ofInt i
  else
    let l (p : Nat) : Encl :=
      let a := atanhOf p (m - one) (m + one)
      let n := ln2 p
      ⟨2 * a.lo * 2 ^ p / n.hi, 2 * a.hi * 2 ^ p / n.lo + 1⟩
    if i ≥ 0 then irrational false fun p => ⟨i.toNat * 2 ^ p + (l p).lo, i.toNat * 2 ^ p + (l p).hi⟩
    else irrational true fun p => ⟨(-i).toNat * 2 ^ p - (l p).hi, (-i).toNat * 2 ^ p - (l p).lo⟩

/-- tanh x for finite x ≠ 0. -/
def tanhOf (s : Bool) (m : Nat) (e : Int) : Exact :=
  if tinyMag m e then .fin s (m * 2 ^ 80 - 1) (e - 80) true
  else if atLeastPow m e 6 then .fin s (2 ^ 64 - 1) (-64) true
  else
    irrational s fun p =>
      let x := expNeg p (2 * over200 m e) 200
      let one := 2 ^ p
      ⟨(one - x.hi) * one / (one + x.hi), (one - x.lo) * one / (one + x.lo) + 1⟩

/-- 1/(1 + e^-x) for finite x ≠ 0. -/
def sigmOf (s : Bool) (m : Nat) (e : Int) : Exact :=
  if tinyMag m e then (if s then .fin false (2 ^ 60 - 1) (-61) true else .fin false (2 ^ 59) (-60) true)
  else if atLeastPow m e 7 then (if s then .fin false 0 (-180) true else .fin false (2 ^ 64 - 1) (-64) true)
  else
    irrational false fun p =>
      let x := expNeg p (over200 m e) 200
      let one := 2 ^ p
      if s then ⟨x.lo * one / (one + x.lo), x.hi * one / (one + x.hi) + 1⟩
      else ⟨one * one / (one + x.hi), one * one / (one + x.lo) + 1⟩

/-- The seven special functions. -/
inductive SpFun where
  | rcp | rsq | sqrt | exp2 | log2 | tanh | sigm
deriving DecidableEq, Repr

/-- The value of a special function at an operand that is no NaN, and the flag of the table of R238; `none` is the invalid
operation. -/
def SpFun.value (f : SpFun) (x : Exact) : Option (Exact × Flags) :=
  match f, x with
  | _, .nan s => some (.nan s, 0)
  | .rcp, .inf s => some (.zero s, 0)
  | .rcp, .fin s m e _ => if m = 0 then some (.inf s, fDZ) else some (recip s m e, 0)
  | .rsq, .inf s => if s then none else some (.zero false, 0)
  | .rsq, .fin s m e _ => if m = 0 then some (.inf s, fDZ) else if s then none else some (rsqrtOf m e, 0)
  | .sqrt, .inf s => if s then none else some (.inf false, 0)
  | .sqrt, .fin s m e _ => if m = 0 then some (.zero s, 0) else if s then none else some (sqrtOf m e, 0)
  | .exp2, .inf s => if s then some (.zero false, 0) else some (.inf false, 0)
  | .exp2, .fin s m e _ => if m = 0 then some (.ofInt 1, 0) else some (exp2Of s m e, 0)
  | .log2, .inf s => if s then none else some (.inf false, 0)
  | .log2, .fin s m e _ => if m = 0 then some (.inf true, fDZ) else if s then none else some (log2Of m e, 0)
  | .tanh, .inf s => some (.fin s 1 0 false, 0)
  | .tanh, .fin s m e _ => if m = 0 then some (.zero s, 0) else some (tanhOf s m e, 0)
  | .sigm, .inf s => some (if s then .zero false else .ofInt 1, 0)
  | .sigm, .fin s m e _ => if m = 0 then some (.fin false 1 (-1) false, 0) else some (sigmOf s m e, 0)

/-- An element of a special function (R238). -/
def SpFun.elem (f : SpFun) (ty : Fmt) (rm : RMode) (sat : Bool) (rnd x : Nat) : Nat × Flags :=
  match f.value (ofFloat ty x) with
  | none => (canonNan ty false, fNV)
  | some (v, fl) =>
    let (y, g) := roundToFloat v ty rm sat rnd
    (y, fl ||| g)

end Sys2Proof.Machine
end

