-- ==== Sys2Proof/Machine/Vector.lean ====
section
/-!
DEFINITION. The VA and VB slots: elements, guards, poison and latency (08_vector.md R210-R219), integer arithmetic, bitwise
operations, shifts and integer compares (R220-R223).
-/

namespace Sys2Proof.Machine

open Sys2Proof

/-! ### What a vector slot works from -/

/-- A vector slot at issue: its width, its sources in operand order, whether the guard enables a byte position, its rounding
mode and its random entry. -/
structure VIn where
  w : Width
  srcs : List Src
  on : Nat → Bool
  rm : RMode
  pop : BitVec 1024

/-- Bits of source j. -/
def VIn.data (x : VIn) (j : Nat) : BitVec 1024 := ((x.srcs[j]?).map fun v => v.data).getD 0

/-- Element i of e bits of source j (R210). -/
def VIn.elem (x : VIn) (e j i : Nat) : Nat := nbits (e * i) e (x.data j).toNat

/-- The lane groups of a slot width. -/
def widthGroups (w : Width) : BitVec 4 := joinElems 1 4 4 fun g => BitVec.ofBool (decide (256 * g < w.bits))

/-- The poisoned lane groups of the sources, within the slot's width. -/
def VIn.bad (x : VIn) : BitVec 4 := (x.srcs.foldl (fun m v => m ||| v.marks) 0) &&& widthGroups x.w

/-- The marks a result takes (R218): its own group's, or in a cross-element instruction every group's. -/
def VIn.marks (x : VIn) (cross : Bool) : BitVec 4 := if cross then (if x.bad == 0 then 0 else 15) else x.bad

/-- The output of n elements of e bits, each tested at its first byte (R210), its flags in the group that executes it (R176). -/
def VIn.out (x : VIn) (s : State) (e n : Nat) (f : Nat → Nat × Flags) : VOut :=
  (upto n).foldl (fun o i =>
    if x.on (e * i / 8) then
      let (v, fl) := f i
      { data := o.data ||| (BitVec.ofNat 1024 (v % 2 ^ e) <<< (e * i)), mask := o.mask ||| elemMask e i
        flags := o.flags ||| placeFlags fl (s.laneGroup x.w (e * i / 8)) }
    else o) { data := 0, mask := 0, flags := 0 }

/-- Write a result and its flags at a latency (R211). -/
def VIn.write (x : VIn) (s : State) (d : VCode) (lat : Nat) (cross : Bool) (o : VOut) : Except Byte State := do
  let s ← s.writeDest d x.w lat o (x.marks cross)
  pure (s.queueFlags lat o.flags)

/-- The byte at which the guard of the element of e bits over byte k is tested (R210). -/
def elemByte (e k : Nat) : Nat := k / max 1 (e / 8) * max 1 (e / 8)

/-- Run a vector slot: its guard, its sources, its rounding (R172), then what it does. Of a stream source it reads the bytes that
`use` names from the guard, the source and the byte (02_bundles.md R44). -/
def vecSlotOn (h : VHead) (cs : List VCode) (rm : RMode) (use : (Nat → Bool) → Nat → Nat → Bool) (s : State)
    (k : VIn → State → Except Byte State) : Out :=
  .next (s.slot (do
    s.liveCodes cs
    let on ← s.guard h.guard
    let (vs, s) ← s.srcs h.w (use on) cs
    let (m, pop, s) := s.rounding rm
    k { w := h.w, srcs := vs, on := on, rm := m, pop := pop } s))

/-- A vector slot that reads of each source the elements of e bits that the guard enables. -/
def vecElems (h : VHead) (cs : List VCode) (e : Nat) (rm : RMode) (s : State) (k : VIn → State → Except Byte State) : Out :=
  vecSlotOn h cs rm (fun on _ b => on (elemByte e b)) s k

/-- A vector slot that reads its sources whole. DEDUCED (notes/assumptions/133.md): an instruction that moves elements to other places
reads every element of its sources, whichever of its destination elements are guarded off. -/
def vecSlot (h : VHead) (cs : List VCode) (rm : RMode) (s : State) (k : VIn → State → Except Byte State) : Out :=
  vecSlotOn h cs rm (fun _ _ _ => true) s k

/-- An element-wise instruction on elements of one size: `f` takes the rounding mode, the random bits and the elements. -/
def vecMap (h : VHead) (d : VCode) (cs : List VCode) (e lat : Nat) (rm : RMode)
    (f : RMode → (Nat → Nat) → List Nat → Nat × Flags) (s : State) : Out :=
  vecElems h cs e rm s fun x s =>
    x.write s d lat false
      (x.out s e (h.w.bits / e) fun i => f x.rm (fun k => rndAt x.pop (e * i) k) ((upto cs.length).map fun j => x.elem e j i))

/-- An element-wise instruction that does not round and raises no flag. -/
def vecPlain (h : VHead) (d : VCode) (cs : List VCode) (e : Nat) (f : List Nat → Nat) (s : State) : Out :=
  vecMap h d cs e 1 .rne (fun _ _ v => (f v, 0)) s

/-- The bits of a predicate that element i of e bits covers (R210). -/
def predMask (e i : Nat) : BitVec 128 := (BitVec.allOnes (e / 8)).setWidth 128 <<< (e / 8 * i)

/-- A compare: each enabled element sets its predicate bits (R223); the mark when a source is poisoned (R218). -/
def vecCmp (h : VHead) (p : BitVec 4) (cs : List VCode) (e lat : Nat) (f : List Nat → Bool × Flags) (s : State) : Out :=
  vecElems h cs e .rne s fun x s =>
    let (m, v, fl) := (upto (h.w.bits / e)).foldl (fun (acc : BitVec 128 × BitVec 128 × BitVec 20) i =>
      if x.on (e * i / 8) then
        let (b, g) := f ((upto cs.length).map fun j => x.elem e j i)
        (acc.1 ||| predMask e i, if b then acc.2.1 ||| predMask e i else acc.2.1,
          acc.2.2 ||| placeFlags g (s.laneGroup h.w (e * i / 8)))
      else acc) (0, 0, 0)
    .ok ((s.writePred p lat m v (x.bad != 0)).queueFlags lat fl)

/-! ### Integer arithmetic (R220, R221) -/

/-- rd of R220. -/
def rdInt (e : Nat) (u : Bool) (v : Nat) : Int := if u then v else (BitVec.ofNat e v).toInt

/-- An integer instruction: the exact value, then one wrap or clamp. -/
def vecInt (h : VHead) (d : VCode) (cs : List VCode) (ty : Fmt) (u sat : Bool) (f : List Int → Int) (s : State) : Out :=
  let e := ty.bits
  vecPlain h d cs e (fun v =>
    let r := f (v.map (rdInt e u))
    let (lo, hi) := intRange e (!u)
    wrap e (if sat then clamp r lo hi else r)) s

/-- The first operands of a list. -/
def arg2 (f : Int → Int → Int) : List Int → Int
  | a :: b :: _ => f a b
  | _ => 0

/-- VADD (R220). -/
def execVadd (h : VHead) (d a b : VCode) (ty : Fmt) (u sat : Bool) (s : State) : Out :=
  vecInt h d [a, b] ty u sat (arg2 fun x y => x + y) s

/-- VSUB (R220). -/
def execVsub (h : VHead) (d a b : VCode) (ty : Fmt) (u sat : Bool) (s : State) : Out :=
  vecInt h d [a, b] ty u sat (arg2 fun x y => x - y) s

/-- VMUL (R220). -/
def execVmul (h : VHead) (d a b : VCode) (ty : Fmt) (u sat : Bool) (s : State) : Out :=
  vecInt h d [a, b] ty u sat (arg2 fun x y => x * y) s

/-- VMULH (R220): the upper half. -/
def execVmulh (h : VHead) (d a b : VCode) (ty : Fmt) (u : Bool) (s : State) : Out :=
  vecInt h d [a, b] ty u false (arg2 fun x y => x * y / 2 ^ ty.bits) s

/-- VMAD (R220): one wrap or clamp. -/
def execVmad (h : VHead) (d a b c : VCode) (ty : Fmt) (u sat : Bool) (s : State) : Out :=
  vecInt h d [a, b, c] ty u sat (fun v => match v with
    | x :: y :: z :: _ => x * y + z
    | _ => 0) s

/-- VNEG (R220). -/
def execVneg (h : VHead) (d a : VCode) (ty : Fmt) (sat : Bool) (s : State) : Out :=
  vecInt h d [a] ty false sat (fun v => -(v.headD 0)) s

/-- VABS (R220). -/
def execVabs (h : VHead) (d a : VCode) (ty : Fmt) (sat : Bool) (s : State) : Out :=
  vecInt h d [a] ty false sat (fun v => ((v.headD 0).natAbs : Int)) s

/-- VDOT4 (R221): w/32 sums of four products, a cross-element instruction (R218). -/
def execVdot4 (h : VHead) (d a b c : VCode) (u sat : Bool) (s : State) : Out :=
  vecElems h [a, b, c] 32 .rne s fun x s =>
    x.write s d 2 true
      (x.out s 32 (h.w.bits / 32) fun j =>
        let v := (upto 4).foldl (fun (t : Int) k => t + rdInt 8 u (x.elem 8 0 (4 * j + k)) * rdInt 8 u (x.elem 8 1 (4 * j + k)))
          (rdInt 32 false (x.elem 32 2 j))
        (wrap 32 (if sat then clamp v (-2147483648) 2147483647 else v), 0))

/-- VMIN (R220). -/
def execVmin (h : VHead) (d a b : VCode) (ty : Fmt) (s : State) : Out :=
  vecInt h d [a, b] ty false false (arg2 fun x y => if x ≤ y then x else y) s

/-- VMAX (R220). -/
def execVmax (h : VHead) (d a b : VCode) (ty : Fmt) (s : State) : Out :=
  vecInt h d [a, b] ty false false (arg2 fun x y => if x ≤ y then y else x) s

/-- VMINU (R220). -/
def execVminu (h : VHead) (d a b : VCode) (ty : Fmt) (s : State) : Out :=
  vecInt h d [a, b] ty true false (arg2 fun x y => if x ≤ y then x else y) s

/-- VMAXU (R220). -/
def execVmaxu (h : VHead) (d a b : VCode) (ty : Fmt) (s : State) : Out :=
  vecInt h d [a, b] ty true false (arg2 fun x y => if x ≤ y then y else x) s

/-! ### Bitwise operations and shifts (R222) -/

/-- Operations on two elements. -/
def bits2 (f : Nat → Nat → Nat) : List Nat → Nat
  | a :: b :: _ => f a b
  | _ => 0

/-- A byte not. -/
def not8 (a : Nat) : Nat := 255 - a % 256

/-- VAND (R222). -/
def execVand (h : VHead) (d a b : VCode) (s : State) : Out := vecPlain h d [a, b] 8 (bits2 fun x y => x &&& y) s

/-- VOR (R222). -/
def execVor (h : VHead) (d a b : VCode) (s : State) : Out := vecPlain h d [a, b] 8 (bits2 fun x y => x ||| y) s

/-- VXOR (R222). -/
def execVxor (h : VHead) (d a b : VCode) (s : State) : Out := vecPlain h d [a, b] 8 (bits2 fun x y => x ^^^ y) s

/-- VANDN (R222). -/
def execVandn (h : VHead) (d a b : VCode) (s : State) : Out := vecPlain h d [a, b] 8 (bits2 fun x y => x &&& not8 y) s

/-- VNOT (R222). -/
def execVnot (h : VHead) (d a : VCode) (s : State) : Out := vecPlain h d [a] 8 (fun v => not8 (v.headD 0)) s

/-- VBSEL (R222): each bit from A where C is 1. -/
def execVbsel (h : VHead) (d a b c : VCode) (s : State) : Out :=
  vecPlain h d [a, b, c] 8 (fun v => match v with
    | x :: y :: z :: _ => (x &&& z) ||| (y &&& not8 z)
    | _ => 0) s

/-- VPOPC (R222). -/
def execVpopc (h : VHead) (d a : VCode) (ty : Fmt) (s : State) : Out :=
  vecPlain h d [a] ty.bits (fun v => popcN ty.bits (v.headD 0)) s

/-- VCLZ (R222). -/
def execVclz (h : VHead) (d a : VCode) (ty : Fmt) (s : State) : Out :=
  vecPlain h d [a] ty.bits (fun v => clzN ty.bits (v.headD 0)) s

/-- A left shift of an e-bit element by any count. -/
def shlE (e a k : Nat) : Nat := if k ≥ e then 0 else a * 2 ^ k % 2 ^ e

/-- A logical right shift. -/
def shrE (e a k : Nat) : Nat := if k ≥ e then 0 else a / 2 ^ k

/-- An arithmetic right shift, by the sign from the width on. -/
def sraE (e a k : Nat) : Nat := wrap e ((BitVec.ofNat e a).toInt / 2 ^ min k e)

/-- VSHL (R222). -/
def execVshl (h : VHead) (d a b : VCode) (ty : Fmt) (s : State) : Out := vecPlain h d [a, b] ty.bits (bits2 (shlE ty.bits)) s

/-- VSHR (R222). -/
def execVshr (h : VHead) (d a b : VCode) (ty : Fmt) (s : State) : Out := vecPlain h d [a, b] ty.bits (bits2 (shrE ty.bits)) s

/-- VSRA (R222). -/
def execVsra (h : VHead) (d a b : VCode) (ty : Fmt) (s : State) : Out := vecPlain h d [a, b] ty.bits (bits2 (sraE ty.bits)) s

/-- VSHLI (R222): a count of the width or more is fault 0x21. -/
def execVshli (h : VHead) (d a : VCode) (ty : Fmt) (k : BitVec 6) (s : State) : Out :=
  if k.toNat < ty.bits then vecPlain h d [a] ty.bits (fun v => shlE ty.bits (v.headD 0) k.toNat) s else .next (s.raise 0x21)

/-- VSHRI (R222). -/
def execVshri (h : VHead) (d a : VCode) (ty : Fmt) (k : BitVec 6) (s : State) : Out :=
  if k.toNat < ty.bits then vecPlain h d [a] ty.bits (fun v => shrE ty.bits (v.headD 0) k.toNat) s else .next (s.raise 0x21)

/-- VSRAI (R222). -/
def execVsrai (h : VHead) (d a : VCode) (ty : Fmt) (k : BitVec 6) (s : State) : Out :=
  if k.toNat < ty.bits then vecPlain h d [a] ty.bits (fun v => sraE ty.bits (v.headD 0) k.toNat) s else .next (s.raise 0x21)

/-! ### Integer compares (R223) -/

/-- An integer compare. -/
def vecIntCmp (h : VHead) (p : BitVec 4) (a b : VCode) (ty : Fmt) (u : Bool) (f : Int → Int → Bool) (s : State) : Out :=
  vecCmp h p [a, b] ty.bits 1 (fun v => match v.map (rdInt ty.bits u) with
    | x :: y :: _ => (f x y, 0)
    | _ => (false, 0)) s

/-- VCMPEQ (R223). -/
def execVcmpeq (h : VHead) (p : BitVec 4) (a b : VCode) (ty : Fmt) (s : State) : Out :=
  vecIntCmp h p a b ty false (fun x y => x == y) s

/-- VCMPNE (R223). -/
def execVcmpne (h : VHead) (p : BitVec 4) (a b : VCode) (ty : Fmt) (s : State) : Out :=
  vecIntCmp h p a b ty false (fun x y => x != y) s

/-- VCMPLT (R223). -/
def execVcmplt (h : VHead) (p : BitVec 4) (a b : VCode) (ty : Fmt) (s : State) : Out :=
  vecIntCmp h p a b ty false (fun x y => decide (x < y)) s

/-- VCMPLE (R223). -/
def execVcmple (h : VHead) (p : BitVec 4) (a b : VCode) (ty : Fmt) (s : State) : Out :=
  vecIntCmp h p a b ty false (fun x y => decide (x ≤ y)) s

/-- VCMPLTU (R223). -/
def execVcmpltu (h : VHead) (p : BitVec 4) (a b : VCode) (ty : Fmt) (s : State) : Out :=
  vecIntCmp h p a b ty true (fun x y => decide (x < y)) s

/-- VCMPLEU (R223). -/
def execVcmpleu (h : VHead) (p : BitVec 4) (a b : VCode) (ty : Fmt) (s : State) : Out :=
  vecIntCmp h p a b ty true (fun x y => decide (x ≤ y)) s

end Sys2Proof.Machine
end

