-- ==== Sys2Proof/Machine/VectorFloat.lean ====
section
/-!
DEFINITION. Floating-point vector arithmetic, compares and classes (08_vector.md R224-R228), and the special functions (R238).
-/

namespace Sys2Proof.Machine

open Sys2Proof

/-- One float result (R225): the first NaN operand, the invalid operation, or the exact value rounded once. -/
def floatElem (ty : Fmt) (rm : RMode) (sat : Bool) (rnd : Nat) (f : List Exact → Option Exact) (ops : List Nat) : Nat × Flags :=
  let xs := ops.map (ofFloat ty)
  match xs.find? Exact.isNan with
  | some x => (canonNan ty x.sign, 0)
  | none =>
    match f xs with
    | none => (canonNan ty false, fNV)
    | some x => roundToFloat x ty rm sat rnd

/-- A float instruction that rounds. -/
def vecFloat (h : VHead) (d : VCode) (cs : List VCode) (ty : Fmt) (rm : RMode) (sat : Bool)
    (f : RMode → List Exact → Option Exact) (s : State) : Out :=
  vecMap h d cs ty.bits 4 rm (fun m rnd v => floatElem ty m sat (rnd ty.srBits) (f m) v) s

/-- A + B. -/
def fAdd (rm : RMode) : List Exact → Option Exact
  | a :: b :: _ => a.add rm b
  | _ => none

/-- A × B. -/
def fMul : List Exact → Option Exact
  | a :: b :: _ => a.mul b
  | _ => none

/-- A − B. -/
def fSub (rm : RMode) : List Exact → Option Exact
  | a :: b :: _ => a.add rm b.neg
  | _ => none

/-- ±(A × B) ± C, rounded once. -/
def fMulAdd (rm : RMode) (np nc : Bool) : List Exact → Option Exact
  | a :: b :: c :: _ => (a.mul b).bind fun p => (if np then p.neg else p).add rm (if nc then c.neg else c)
  | _ => none

/-- VFADD (R225). -/
def execVfadd (h : VHead) (d a b : VCode) (ty : Fmt) (rm : RMode) (sat : Bool) (s : State) : Out :=
  vecFloat h d [a, b] ty rm sat fAdd s

/-- VFMUL (R225). -/
def execVfmul (h : VHead) (d a b : VCode) (ty : Fmt) (rm : RMode) (sat : Bool) (s : State) : Out :=
  vecFloat h d [a, b] ty rm sat (fun _ => fMul) s

/-- VFSUB (R225). -/
def execVfsub (h : VHead) (d a b : VCode) (ty : Fmt) (rm : RMode) (sat : Bool) (s : State) : Out :=
  vecFloat h d [a, b] ty rm sat fSub s

/-- VFMA (R225): A × B + C. -/
def execVfma (h : VHead) (d a b c : VCode) (ty : Fmt) (rm : RMode) (sat : Bool) (s : State) : Out :=
  vecFloat h d [a, b, c] ty rm sat (fun m => fMulAdd m false false) s

/-- VFMS (R225): A × B − C. -/
def execVfms (h : VHead) (d a b c : VCode) (ty : Fmt) (rm : RMode) (sat : Bool) (s : State) : Out :=
  vecFloat h d [a, b, c] ty rm sat (fun m => fMulAdd m false true) s

/-- VFNMA (R225): C − A × B. -/
def execVfnma (h : VHead) (d a b c : VCode) (ty : Fmt) (rm : RMode) (sat : Bool) (s : State) : Out :=
  vecFloat h d [a, b, c] ty rm sat (fun m => fMulAdd m true false) s

/-- Is a below b, with -0 below +0 (R226)? -/
def belowZ (a b : Exact) : Bool :=
  match a.cmp b with
  | .lt => true
  | .gt => false
  | .eq => a.sign && !b.sign

/-- The smaller or the larger of two codes; a NaN gives the canonical NaN of the first (R226). -/
def minMaxElem (ty : Fmt) (mx : Bool) (a b : Nat) : Nat :=
  let x := ofFloat ty a
  let y := ofFloat ty b
  if x.isNan then canonNan ty x.sign
  else if y.isNan then canonNan ty y.sign
  else if belowZ x y then (if mx then b else a) else (if mx then a else b)

/-- A float instruction that does not round. -/
def vecFloatPlain (h : VHead) (d : VCode) (cs : List VCode) (ty : Fmt) (f : List Nat → Nat) (s : State) : Out :=
  vecMap h d cs ty.bits 2 .rne (fun _ _ v => (f v, 0)) s

/-- VFMIN (R226). -/
def execVfmin (h : VHead) (d a b : VCode) (ty : Fmt) (s : State) : Out :=
  vecFloatPlain h d [a, b] ty (bits2 (minMaxElem ty false)) s

/-- VFMAX (R226). -/
def execVfmax (h : VHead) (d a b : VCode) (ty : Fmt) (s : State) : Out :=
  vecFloatPlain h d [a, b] ty (bits2 (minMaxElem ty true)) s

/-- The sign bit of a code. -/
def signBit (ty : Fmt) : Nat := 2 ^ (ty.bits - 1)

/-- VFABS (R226): by the sign bit alone; a NaN is the canonical NaN of its own sign. -/
def execVfabs (h : VHead) (d a : VCode) (ty : Fmt) (s : State) : Out :=
  vecFloatPlain h d [a] ty (fun v =>
    let x := ofFloat ty (v.headD 0)
    if x.isNan then canonNan ty x.sign else v.headD 0 % signBit ty) s

/-- VFNEG (R226). -/
def execVfneg (h : VHead) (d a : VCode) (ty : Fmt) (s : State) : Out :=
  vecFloatPlain h d [a] ty (fun v =>
    let x := ofFloat ty (v.headD 0)
    if x.isNan then canonNan ty x.sign else v.headD 0 ^^^ signBit ty) s

/-- A float compare (R227): against a NaN the relation is false, and LT and LE raise NV. -/
def vecFloatCmp (h : VHead) (p : BitVec 4) (a b : VCode) (ty : Fmt) (nv : Bool) (f : Ordering → Bool) (s : State) : Out :=
  vecCmp h p [a, b] ty.bits 2 (fun v => match v.map (ofFloat ty) with
    | x :: y :: _ => if x.isNan || y.isNan then (false, if nv then fNV else 0) else (f (x.cmp y), 0)
    | _ => (false, 0)) s

/-- VFCMPEQ (R227). -/
def execVfcmpeq (h : VHead) (p : BitVec 4) (a b : VCode) (ty : Fmt) (s : State) : Out :=
  vecFloatCmp h p a b ty false (fun o => o == .eq) s

/-- VFCMPLT (R227). -/
def execVfcmplt (h : VHead) (p : BitVec 4) (a b : VCode) (ty : Fmt) (s : State) : Out :=
  vecFloatCmp h p a b ty true (fun o => o == .lt) s

/-- VFCMPLE (R227). -/
def execVfcmple (h : VHead) (p : BitVec 4) (a b : VCode) (ty : Fmt) (s : State) : Out :=
  vecFloatCmp h p a b ty true (fun o => o != .gt) s

/-- VFCMPUN (R227): is either a NaN? -/
def execVfcmpun (h : VHead) (p : BitVec 4) (a b : VCode) (ty : Fmt) (s : State) : Out :=
  vecCmp h p [a, b] ty.bits 2 (fun v => (v.any fun x => (ofFloat ty x).isNan, 0)) s

/-- The class of a code, as a mask bit of R227. -/
def floatClass (ty : Fmt) (x : Nat) : Nat :=
  let sub := decide (x % signBit ty < 2 ^ ty.float.mant)
  match ofFloat ty x with
  | .nan _ => 8
  | .inf s => if s then 0 else 7
  | .fin s m _ _ => if m = 0 then (if s then 3 else 4) else if sub then (if s then 2 else 5) else if s then 1 else 6

/-- VFCLASS (R227). -/
def execVfclass (h : VHead) (p : BitVec 4) (a : VCode) (ty : Fmt) (cm : BitVec 9) (s : State) : Out :=
  vecCmp h p [a] ty.bits 2 (fun v => (cm.getLsbD (floatClass ty (v.headD 0)), 0)) s

/-- One element of VFSCALE (R228). Beyond 600 either way a scale changes no result, so the exponent is held there. -/
def scaleElem (ty : Fmt) (rm : RMode) (sat : Bool) (rnd a b : Nat) : Nat × Flags :=
  match ofFloat ty a with
  | .nan s => (canonNan ty s, 0)
  | .inf s => (infCode ty s, 0)
  | .fin s m e r =>
    if m = 0 then (a, 0)
    else roundToFloat (.fin s m (e + clamp (BitVec.ofNat ty.bits b).toInt (-600) 600) r) ty rm sat rnd

/-- VFSCALE (R228): B is read as an integer. -/
def execVfscale (h : VHead) (d a b : VCode) (ty : Fmt) (rm : RMode) (sat : Bool) (s : State) : Out :=
  vecMap h d [a, b] ty.bits 4 rm (fun m rnd v => match v with
    | x :: y :: _ => scaleElem ty m sat (rnd ty.srBits) x y
    | _ => (0, 0)) s

/-! ### Special functions (R238) -/

/-- A special function at latency 12. -/
def vecSpecial (f : SpFun) (h : VHead) (d a : VCode) (ty : Fmt) (rm : RMode) (sat : Bool) (s : State) : Out :=
  vecMap h d [a] ty.bits 12 rm (fun m rnd v => f.elem ty m sat (rnd ty.srBits) (v.headD 0)) s

/-- VRCP (R238). -/
def execVrcp (h : VHead) (d a : VCode) (ty : Fmt) (rm : RMode) (sat : Bool) (s : State) : Out := vecSpecial .rcp h d a ty rm sat s

/-- VRSQ (R238). -/
def execVrsq (h : VHead) (d a : VCode) (ty : Fmt) (rm : RMode) (sat : Bool) (s : State) : Out := vecSpecial .rsq h d a ty rm sat s

/-- VSQRT (R238). -/
def execVsqrt (h : VHead) (d a : VCode) (ty : Fmt) (rm : RMode) (sat : Bool) (s : State) : Out := vecSpecial .sqrt h d a ty rm sat s

/-- VEXP2 (R238). -/
def execVexp2 (h : VHead) (d a : VCode) (ty : Fmt) (rm : RMode) (sat : Bool) (s : State) : Out := vecSpecial .exp2 h d a ty rm sat s

/-- VLOG2 (R238). -/
def execVlog2 (h : VHead) (d a : VCode) (ty : Fmt) (rm : RMode) (sat : Bool) (s : State) : Out := vecSpecial .log2 h d a ty rm sat s

/-- VTANH (R238). -/
def execVtanh (h : VHead) (d a : VCode) (ty : Fmt) (rm : RMode) (sat : Bool) (s : State) : Out := vecSpecial .tanh h d a ty rm sat s

/-- VSIGM (R238). -/
def execVsigm (h : VHead) (d a : VCode) (ty : Fmt) (rm : RMode) (sat : Bool) (s : State) : Out := vecSpecial .sigm h d a ty rm sat s

end Sys2Proof.Machine
end

