-- ==== Sys2Proof/Machine/VectorConv.lean ====
section
/-!
DEFINITION. Vector conversions (08_vector.md R229-R233).
-/

namespace Sys2Proof.Machine

open Sys2Proof

/-- The value of an element of a format (R229), integers read unsigned when U is set. -/
def elemValue (ty : Fmt) (u : Bool) (x : Nat) : Exact := if ty.isF then ofFloat ty x else .ofInt (rdInt ty.bits u x)

/-- The random bits of a destination (R171). -/
def cvtRndBits (df : Fmt) : Nat := df.srBits

/-- One element of VCVT (R229). -/
def cvtElem (ty df : Fmt) (u : Bool) (rm : RMode) (sat : Bool) (rnd x : Nat) : Nat × Flags :=
  let v := elemValue ty u x
  if df.isF then roundToFloat v df rm sat rnd
  else if ty.isF then roundToInt v df.bits (!u) rm sat rnd (cvtRndBits df)
  else
    let i := rdInt ty.bits u x
    let (lo, hi) := intRange df.bits (!u)
    (wrap df.bits (if sat then clamp i lo hi else i), 0)

/-- The source groups that n elements of e bits lie in. -/
def VIn.narrow (x : VIn) (e n : Nat) : VIn :=
  { x with srcs := x.srcs.map fun v => { v with marks := v.marks &&& joinElems 1 4 4 fun g => BitVec.ofBool (decide (256 * g < e * n)) } }

/-- Does VCVT read byte b of its source: is it of one of the n elements of ss bits whose element of ds bits is enabled? -/
def cvtUse (ss ds n : Nat) (on : Nat → Bool) (b : Nat) : Bool :=
  (upto (max 1 (8 / ss))).any fun j => decide (8 * b / ss + j < n) && on (ds * (8 * b / ss + j) / 8)

/-- VCVT (R229): a cross-element instruction where the sizes differ (R218). -/
def execVcvt (h : VHead) (d a : VCode) (ty df : Fmt) (u : Bool) (rm : RMode) (sat : Bool) (s : State) : Out :=
  let n := h.w.bits / max ty.bits df.bits
  vecSlotOn h [a] rm (fun on _ b => cvtUse ty.bits df.bits n on b) s fun x s =>
    (x.narrow ty.bits n).write s d 3 (ty.bits != df.bits)
      (x.out s df.bits n fun i => cvtElem ty df u x.rm sat (rndAt x.pop (df.bits * i) (cvtRndBits df)) (x.elem ty.bits 0 i))

/-- Code c of block j of the codes of a group of units. -/
def codesOf (d : BitVec 1024) (j : Nat) : Nat := nbits (128 * j) 128 d.toNat

/-- VCVTHB (R230): A is a stream of HB4 blocks, read with its scale bytes (07_streams_registers.md R189). -/
def execVcvthb (h : VHead) (d a : VCode) (df : Fmt) (rm : RMode) (sat : Bool) (s : State) : Out :=
  let st := a.toNat - 112
  let n := h.w.bits / df.bits
  let g := n / 32
  if a.toNat < 112 then .next (s.raise 0x22)
  else if n % 32 != 0 then .next (s.raise 0x21)
  else .next (s.slot (do
    let on ← s.guard h.guard
    if (s.stream st).fmt != 10 then .error 0x28
    else do
      let p := s.posAt st
      let (bs, s) ← s.popSome st g fun b => on (b / 16 * (4 * df.bits))
      let (sc, s) ← s.readScales st p g fun j => on (j * (4 * df.bits))
      let (m, pop, s) := s.rounding rm
      let bad := anyPoison bs || anyPoison sc
      let data := bytesBits bs
      let x : VIn := { w := h.w, srcs := [{ data := data, marks := if bad then 1 else 0 }], on := on, rm := m, pop := pop }
      x.write s d 3 true
        (x.out s df.bits n fun i =>
          roundToFloat (hb4Elem ((sc.map fun y => y.1.toNat).getD (i / 32) 0) (packedCode (codesOf data (i / 32)) (i % 32))) df m sat
            (rndAt pop (df.bits * i) df.srBits))))

/-- A push of HB4 blocks (R231, 07_streams_registers.md R187, R189): the codes and scale byte of each block that is enabled. -/
def State.pushBlocks (s : State) (st g lat : Nat) (blocks : List (Option (Nat × Nat))) (bad : Bool) : Except Byte State := do
  let p := s.posAt st
  let (as, s) ← s.claim st g
  let sc := (upto g).map fun j => s.scaleAddr st (p + j)
  if sc.any Option.isNone then .error 0x29
  else do
    let s ← s.access (sc.map fun x => x.getD 0)
    let cells := (upto g).flatMap fun j =>
      match blocks.getD j none with
      | none => []
      | some (codes, scale) =>
        ((upto 16).map fun k => (as.getD (16 * j + k) 0, BitVec.ofNat 8 (codes / 2 ^ (8 * k)), bad)) ++
          [((sc.getD j none).getD 0, BitVec.ofNat 8 scale, bad)]
    pure (s.queueWrite lat (.mem cells false))

/-- VCVTFHB (R231): each block of 32 elements is quantised; its flags fall in the groups of its source elements. -/
def execVcvtfhb (h : VHead) (d a : VCode) (ty : Fmt) (t : BitVec 2) (rm : RMode) (s : State) : Out :=
  let st := d.toNat - 112
  let n := h.w.bits / ty.bits
  if d.toNat < 112 then .next (s.raise 0x22)
  else if n % 32 != 0 then .next (s.raise 0x21)
  else
    vecElems h [a] (32 * ty.bits) rm s fun x s =>
      if (s.stream st).fmt != 10 then .error 0x28
      else do
        let q := (upto (n / 32)).map fun j =>
          if x.on (ty.bits * (32 * j) / 8) then
            some (hb4Quant ((upto 32).map fun c => ofFloat ty (x.elem ty.bits 0 (32 * j + c))) t.toNat x.rm
              fun c => rndAt x.pop (128 * j + 4 * c) 4)
          else none
        let fl := (q.zip (upto q.length)).foldl (fun (f : BitVec 20) (b, j) =>
          match b with
          | none => f
          | some (_, _, fs) => (fs.zip (upto 32)).foldl (fun f (e, c) =>
              f ||| placeFlags e (s.laneGroup h.w (ty.bits * (32 * j + c) / 8))) f) 0
        let s ← s.pushBlocks st (n / 32) 3 (q.map fun b => b.map fun (cs, sc, _) => (packCodes cs, sc)) (x.bad != 0)
        pure (s.queueFlags 3 fl)

/-- Packed blocks in registers (R232): each 256-bit group holds 128 bits of codes and a scale byte. -/
def vecBlocks (h : VHead) (d a : VCode) (rm : RMode) (f : Nat → Nat → RMode → (Nat → Nat) → Nat × Nat × Flags) (s : State) : Out :=
  vecElems h [a] 256 rm s fun x s =>
    x.write s d 3 false
      (x.out s 256 (h.w.bits / 256) fun j =>
        let b := x.elem 256 0 j
        let (codes, scale, fl) := f (nbits 0 128 b) (nbits 128 8 b) x.rm fun c => rndAt x.pop (256 * j + 4 * c) 4
        (codes + 2 ^ 128 * scale, fl))

/-- VCVTMX (R232): OCP MXFP4 to HB4. -/
def execVcvtmx (h : VHead) (d a : VCode) (rm : RMode) (s : State) : Out := vecBlocks h d a rm mxToHb4 s

/-- VCVTXM (R232): HB4 to OCP MXFP4. -/
def execVcvtxm (h : VHead) (d a : VCode) (rm : RMode) (s : State) : Out := vecBlocks h d a rm hb4ToMx s

/-- VCVTSCL (R233): between an SCL image and an element, a cross-element instruction (R218). -/
def execVcvtscl (h : VHead) (d a : VCode) (ty : Fmt) (dir : Bool) (rm : RMode) (sat : Bool) (s : State) : Out :=
  vecSlotOn h [a] rm (fun on _ b => on 0 && decide (8 * b < if dir then ty.bits else 512)) s fun x s =>
    if dir then
      let im := sclEncode (laOf (elemValue ty false (x.elem ty.bits 0 0)))
      let m : BitVec 1024 := if x.on 0 then (BitVec.allOnes h.w.bits).setWidth 1024 else 0
      (x.narrow ty.bits 1).write s d 6 true { data := im.setWidth 1024, mask := m, flags := 0 }
    else
      let x := x.narrow (if x.on 0 then 512 else 0) 1
      let (la, bad) := sclIf (x.bad != 0) (bits 0 512 (x.data 0))
      x.write s d 6 true
        (x.out s ty.bits (h.w.bits / ty.bits) fun i =>
          if i = 0 then
            let (y, fl) := laRound la ty x.rm sat (rndAt x.pop 0 ty.srBits)
            (y, if bad then fl ||| fNV else fl)
          else (0, 0))

end Sys2Proof.Machine
end

