-- ==== Sys2Proof/Machine/VectorPerm.lean ====
section
/-!
DEFINITION. Permute and pack, reductions, moves, pops and predicate operations (08_vector.md R234-R237, R239).
-/

namespace Sys2Proof.Machine

open Sys2Proof

/-! ### Permute and pack (R234) -/

/-- A permutation of elements of e bits: cross-element, latency 2, no flags. -/
def vecPermute (h : VHead) (d : VCode) (cs : List VCode) (e : Nat) (f : VIn → Nat → Nat → Nat) (s : State) : Out :=
  vecSlot h cs .rne s fun x s => x.write s d 2 true (x.out s e (h.w.bits / e) fun i => (f x (h.w.bits / e) i, 0))

/-- VPERM (R234). -/
def execVperm (h : VHead) (d a b c : VCode) (ty : Fmt) (s : State) : Out :=
  vecPermute h d [a, b, c] ty.bits (fun x n i =>
    let k := x.elem ty.bits 1 i
    if k < n then x.elem ty.bits 0 k else if k < 2 * n then x.elem ty.bits 2 (k - n) else 0) s

/-- VSHUF (R234): word q of each 128-bit unit from the unit's word sel[2q+1:2q]; guarded by bytes. -/
def execVshuf (h : VHead) (d a : VCode) (sel : Byte) (s : State) : Out :=
  vecPermute h d [a] 8 (fun x _ i =>
    let q := i / 4 % 4
    x.elem 8 0 (i / 16 * 16 + 4 * (sel.toNat / 4 ^ q % 4) + i % 4)) s

/-- VROT (R234). -/
def execVrot (h : VHead) (d a : VCode) (ty : Fmt) (k : BitVec 7) (s : State) : Out :=
  if k.toNat < elems h.w ty then
    vecPermute h d [a] ty.bits (fun x n i => x.elem ty.bits 0 ((i + n - k.toNat) % n)) s
  else .next (s.raise 0x21)

/-- VSLIDE (R234). -/
def execVslide (h : VHead) (d a b : VCode) (ty : Fmt) (k : Byte) (s : State) : Out :=
  if k.toNat ≤ elems h.w ty then
    vecPermute h d [a, b] ty.bits (fun x n i =>
      if i + k.toNat < n then x.elem ty.bits 0 (i + k.toNat) else x.elem ty.bits 1 (i + k.toNat - n)) s
  else .next (s.raise 0x21)

/-- VZIPL (R234). -/
def execVzipl (h : VHead) (d a b : VCode) (ty : Fmt) (s : State) : Out :=
  vecPermute h d [a, b] ty.bits (fun x _ i => x.elem ty.bits (i % 2) (i / 2)) s

/-- VZIPH (R234). -/
def execVziph (h : VHead) (d a b : VCode) (ty : Fmt) (s : State) : Out :=
  vecPermute h d [a, b] ty.bits (fun x n i => x.elem ty.bits (i % 2) (i / 2 + n / 2)) s

/-- Element i of an unzip (R234). -/
def unzip (e off : Nat) (x : VIn) (n i : Nat) : Nat :=
  if i < n / 2 then x.elem e 0 (2 * i + off) else x.elem e 1 (2 * i - n + off)

/-- VUZPE (R234). -/
def execVuzpe (h : VHead) (d a b : VCode) (ty : Fmt) (s : State) : Out := vecPermute h d [a, b] ty.bits (unzip ty.bits 0) s

/-- VUZPO (R234). -/
def execVuzpo (h : VHead) (d a b : VCode) (ty : Fmt) (s : State) : Out := vecPermute h d [a, b] ty.bits (unzip ty.bits 1) s

/-- VBCST (R234). -/
def execVbcst (h : VHead) (d a : VCode) (ty : Fmt) (k : BitVec 7) (s : State) : Out :=
  if k.toNat < elems h.w ty then vecPermute h d [a] ty.bits (fun x _ _ => x.elem ty.bits 0 k.toNat) s else .next (s.raise 0x21)

/-- The elements whose predicate bit is set, in order. -/
def selected (p : BitVec 128) (e n : Nat) : List Nat := (upto n).filter fun j => p.getLsbD (e * j / 8)

/-- VCMPR (R234): pack the selected elements; the guard does not change the packing. -/
def execVcmpr (h : VHead) (d a : VCode) (p : BitVec 4) (ty : Fmt) (s : State) : Out :=
  vecSlot h [a] .rne s fun x s => do
    let v ← s.pred p
    let n := h.w.bits / ty.bits
    let js := selected v ty.bits n
    x.write s d 2 true (x.out s ty.bits n fun i => ((js[i]?).elim 0 (x.elem ty.bits 0), 0))

/-- VEXPD (R234): spread the low elements over the selected positions. -/
def execVexpd (h : VHead) (d a : VCode) (p : BitVec 4) (ty : Fmt) (s : State) : Out :=
  vecSlot h [a] .rne s fun x s => do
    let v ← s.pred p
    let n := h.w.bits / ty.bits
    x.write s d 2 true (x.out s ty.bits n fun i =>
      (if v.getLsbD (ty.bits * i / 8) then x.elem ty.bits 0 (selected v ty.bits i).length else 0, 0))

/-- VTRN (R234). -/
def execVtrn (h : VHead) (d a b : VCode) (ty : Fmt) (hi : Bool) (s : State) : Out :=
  let k := if hi then 1 else 0
  vecPermute h d [a, b] ty.bits (fun x _ i =>
    if i % 2 = 0 then x.elem ty.bits 0 (i + k) else x.elem ty.bits 1 (i - 1 + k)) s

/-! ### Reductions (R235-R237) -/

/-- Combine of R235. -/
def redCombine (ty : Fmt) (op : RedOp) (u : Bool) (rm : RMode) (sat : Bool) (rnd a b : Nat) : Nat × Flags :=
  if ty.isF then
    match op with
    | .sum => floatElem ty rm sat rnd (fAdd rm) [a, b]
    | .max => (minMaxElem ty true a b, 0)
    | .min => (minMaxElem ty false a b, 0)
  else
    let e := ty.bits
    let x := rdInt e u a
    let y := rdInt e u b
    match op with
    | .sum =>
      let (lo, hi) := intRange e (!u)
      (wrap e (if sat then clamp (x + y) lo hi else x + y), 0)
    | .max => (if x ≤ y then b else a, 0)
    | .min => (if x ≤ y then a else b, 0)

/-- One level of the tree: the pairs of a list, `f j` combining the j-th. -/
def redLevel (f : Nat → Nat → Nat → Nat × Flags) : Nat → List (Option Nat) → List (Option Nat) × Flags
  | j, a :: b :: rest =>
    let (r, fl) := redLevel f (j + 1) rest
    match a, b with
    | some x, some y =>
      let (v, g) := f j x y
      (some v :: r, fl ||| g)
    | some x, none => (some x :: r, fl)
    | none, y => (y :: r, fl)
  | _, _ => ([], 0)

/-- The levels of the tree from level l on: node (l, j) is numbered j*2^l + 2^(l-1) (R235). -/
def redTree (f : Nat → Nat → Nat → Nat × Flags) : Nat → Nat → List (Option Nat) → Option Nat × Flags
  | 0, _, v => (v.headD none, 0)
  | k + 1, l, v =>
    if v.length ≤ 1 then (v.headD none, 0)
    else
      let (v', fl) := redLevel (fun j => f (j * 2 ^ l + 2 ^ (l - 1))) 0 v
      let (r, g) := redTree f k (l + 1) v'
      (r, fl ||| g)

/-- VRED (R235): flags fall in the lane group of element 0. -/
def execVred (h : VHead) (d a : VCode) (ty : Fmt) (opr : RedOp) (u : Bool) (rm : RMode) (sat : Bool) (s : State) : Out :=
  vecElems h [a] ty.bits rm s fun x s =>
    let e := ty.bits
    let n := h.w.bits / e
    let ys := (upto n).map fun j => if x.on (e * j / 8) then some (x.elem e 0 j) else none
    let (r, fl) := redTree (fun pos => redCombine ty opr u x.rm sat (rndAt x.pop (e * pos) ty.srBits)) 8 1 ys
    let o := x.out s e n fun _ => (r.getD 0, 0)
    x.write s d 8 true { o with flags := placeFlags fl (s.laneGroup h.w 0) }

/-- The running combinations of VSCAN: element i with its flags. -/
def scanList (f : Nat → Nat → Nat → Nat × Flags) : Option Nat → List (Nat × Nat) → List (Nat × Nat × Flags)
  | _, [] => []
  | none, (i, v) :: rest => (i, v, 0) :: scanList f (some v) rest
  | some acc, (i, v) :: rest =>
    let (r, fl) := f i acc v
    (i, r, fl) :: scanList f (some r) rest

/-- VSCAN (R236). -/
def execVscan (h : VHead) (d a : VCode) (ty : Fmt) (opr : RedOp) (u : Bool) (rm : RMode) (sat : Bool) (s : State) : Out :=
  vecElems h [a] ty.bits rm s fun x s =>
    let e := ty.bits
    let n := h.w.bits / e
    let ys := ((upto n).filter fun j => x.on (e * j / 8)).map fun j => (j, x.elem e 0 j)
    let rs := scanList (fun pos => redCombine ty opr u x.rm sat (rndAt x.pop (e * pos) ty.srBits)) none ys
    x.write s d 8 true (x.out s e n fun i => ((rs.find? fun r => r.1 == i).map fun r => r.2).getD (0, 0))

/-- VREDX (R237): the exact sum of the enabled elements; the rounded value's flags fall in group 2, a malformed image's in 0. -/
def execVredx (h : VHead) (d a c : VCode) (acc : Bool) (rm : RMode) (sat : Bool) (s : State) : Out :=
  vecSlotOn h (if acc then [a, c] else [a]) rm (fun on j b => if j = 0 then on (elemByte 32 b) else decide (b < 64)) s fun x s =>
    let sum := ((upto 32).filter fun i => x.on (4 * i)).foldl (fun la i => la.add (laOf (ofFloat .f32 (x.elem 32 0 i)))) La.zero
    let (la, bad) := if acc then
        let (c, b) := sclIf (((x.srcs[1]?).map fun v => v.marks &&& 3).getD 0 != 0) (bits 0 512 (x.data 1))
        (sum.add c, b)
      else (sum, false)
    let (y, fl) := laRound la .f32 x.rm sat (rndAt x.pop 512 24)
    let srcs := (x.srcs.zip (upto 2)).map fun (v, j) => if j = 1 then { v with marks := v.marks &&& 3 } else v
    { x with srcs := srcs }.write s d 12 true
      { data := (sclEncode la).setWidth 1024 ||| (BitVec.ofNat 1024 y <<< 512), mask := BitVec.allOnes 1024
        flags := placeFlags fl 2 ||| placeFlags (if bad then fNV else 0) 0 }

/-! ### Moves, pops and predicate operations (R239) -/

/-- VMOV (R239). -/
def execVmov (h : VHead) (d a : VCode) (s : State) : Out := vecPlain h d [a] 8 (fun v => v.headD 0) s

/-- VMOVX (R239). -/
def execVmovx (h : VHead) (d : VCode) (imm : Word) (s : State) : Out :=
  vecSlot h [] .rne s fun x s =>
    x.write s d 1 false (x.out s 8 (h.w.bits / 8) fun i => (nbits (8 * i) 8 (replicate64 imm).toNat, 0))

/-- VPOPRQ (R239): the pop takes place even when every byte is guarded off. -/
def execVpoprq (h : VHead) (d : VCode) (q : BitVec 2) (s : State) : Out :=
  vecSlot h [] .rne s fun x s => do
    let (v, k, s) ← s.popRq q
    { x with srcs := [{ data := v, marks := k }] }.write s d 2 false
      (x.out s 8 (h.w.bits / 8) fun i => (nbits (8 * i) 8 v.toNat, 0))

/-- VRND (R239): one random entry. -/
def execVrnd (h : VHead) (d : VCode) (s : State) : Out :=
  vecSlot h [] .sr s fun x s =>
    x.write s d 1 false (x.out s 8 (h.w.bits / 8) fun i => (rndAt x.pop (8 * i) 8, 0))

/-- A predicate operation on the first w/8 bits (R239). -/
def predOp (h : VHead) (d a b : BitVec 4) (f : BitVec 128 → BitVec 128 → BitVec 128) (s : State) : Out :=
  vecSlot h [] .rne s fun x s => do
    let p ← s.pred a
    let q ← s.pred b
    let m : BitVec 128 := joinElems 1 128 128 fun i => BitVec.ofBool (decide (i < h.w.bits / 8) && x.on i)
    pure (s.writePred d 1 m (f p q) false)

/-- PAND (R239). -/
def execPand (h : VHead) (d a b : BitVec 4) (s : State) : Out := predOp h d a b (fun p q => p &&& q) s

/-- POR (R239). -/
def execPor (h : VHead) (d a b : BitVec 4) (s : State) : Out := predOp h d a b (fun p q => p ||| q) s

/-- PXOR (R239). -/
def execPxor (h : VHead) (d a b : BitVec 4) (s : State) : Out := predOp h d a b (fun p q => p ^^^ q) s

/-- PANDN (R239). -/
def execPandn (h : VHead) (d a b : BitVec 4) (s : State) : Out := predOp h d a b (fun p q => p &&& ~~~q) s

/-- VTOP (R239). -/
def execVtop (h : VHead) (d : BitVec 4) (a : VCode) (ty : Fmt) (s : State) : Out :=
  vecCmp h d [a] ty.bits 1 (fun v => (v.headD 0 != 0, 0)) s

/-- PTOV (R239). -/
def execPtov (h : VHead) (d : VCode) (a : BitVec 4) (ty : Fmt) (s : State) : Out :=
  vecSlot h [] .rne s fun x s => do
    let p ← s.pred a
    x.write s d 1 false
      (x.out s ty.bits (h.w.bits / ty.bits) fun i => (if p.getLsbD (ty.bits * i / 8) then 2 ^ ty.bits - 1 else 0, 0))

end Sys2Proof.Machine
end

