-- ==== Sys2Proof/Machine/LoadStore.lean ====
section
/-!
DEFINITION. The LD and ST slots: stream loads and stores, gathers and scatters, and the vector atomics
(07_streams_registers.md R198-R208).
-/

namespace Sys2Proof.Machine

open Sys2Proof

/-! ### Stream loads and stores (R201, R202) -/

/-- The bytes of a group that a guard enables, read: (index, byte, poisoned). -/
def State.readOn (s : State) (on : Nat → Bool) (as : List Nat) : List (Nat × Byte × Bool) × State :=
  let is := (as.zip (upto as.length)).filter fun x => on x.2
  let (bs, s) := s.readAt (is.map fun x => x.1)
  ((bs.zip is).map fun (b, _, i) => (i, b.1, b.2), s)

/-- A load's output: the bytes read, and the lane groups in which one was poisoned (R196). -/
def loadOut (bs : List (Nat × Byte × Bool)) : VOut × BitVec 4 :=
  bs.foldl (fun (o, m) (i, b, p) =>
    ({ o with data := o.data ||| (b.setWidth 1024 <<< (8 * i)), mask := o.mask ||| elemMask 8 i },
      if p then m ||| (1#4 <<< (i / 32)) else m)) ({ data := 0, mask := 0, flags := 0 }, 0)

/-- VLD (R202): the stream advances even when every element is off (R201). -/
def execVld (h : LHead) (d a : VCode) (s : State) : Out :=
  .next (s.slot (do
    s.liveCodes [d]
    let on ← s.guard h.guard
    let (as, s) ← s.popAddrs (a.toNat - 112) (unitsOf h.w)
    let (bs, s) := s.readOn on as
    let (o, m) := loadOut bs
    s.writeReg d.toNat 6 o m))

/-- The position VLDB reads at: POS at issue plus a signed count of groups (R202; 02_bundles.md R32); `none` lies before the panel. -/
def State.peekPos (s : State) (st g : Nat) (off : BitVec 12) : Option Nat :=
  let p : Int := s.posAt st + off.toInt * g
  if p < 0 then none else some p.toNat

/-- VLDB (R202): POS is not changed and WRAP does not apply. DESIGN CHOICE (notes/assumptions/121.md): of a stream that another slot of the
bundle pops it counts from POS as it stood at issue, and its read and the pop are accesses of one stream, which a port counts once. -/
def execVldb (h : LHead) (d a : VCode) (off : BitVec 12) (s : State) : Out :=
  .next (s.slot (do
    s.liveCodes [d]
    let on ← s.guard h.guard
    let st := a.toNat - 112
    let g := unitsOf h.w
    let p ← match s.peekPos st g off with
      | some p => pure p
      | none =>
        match s.groupCheck st g (s.posAt st % g) with
        | .error c => if c == 0x28 || c == 0x2A then throw c else throw 0x2B
        | .ok _ => throw 0x2B
    s.groupCheck st g p
    let as := s.groupAddrs st g p
    let s ← s.reach st as
    let (bs, s) := (s.naming [st] []).readOn on as
    let (o, m) := loadOut bs
    s.writeReg d.toNat 6 o m))

/-- PLD (R202): one unit into a predicate, guarded as a whole slot. -/
def execPld (h : LHead) (d : BitVec 4) (a : VCode) (s : State) : Out :=
  .next (s.wholeChk h.guard (.ok ()) (streamCodes [a]) [] fun s => do
    let (bs, s) ← s.pop (a.toNat - 112) 1
    pure (s.writePred d 6 (BitVec.allOnes 128) (BitVec.ofNat 128 (valueOf bs)) (anyPoison bs)))

/-- The enabled bytes of a slot width as an output. -/
def bytesOut (w : Width) (on : Nat → Bool) (v : BitVec 1024) : VOut :=
  { data := v, flags := 0
    mask := (upto (w.bits / 8)).foldl (fun m i => if on i then m ||| elemMask 8 i else m) 0 }

/-- VST (R202): performs at t + 1. -/
def execVst (h : LHead) (d a : VCode) (s : State) : Out :=
  .next (s.slot (do
    s.liveCodes [d]
    let on ← s.guard h.guard
    let v ← s.vreg d.toNat
    let (as, s) ← s.claim (a.toNat - 112) (unitsOf h.w)
    pure (s.queueWrite 1 (.mem (pushCells as (bytesOut h.w on v.data) v.marks) true))))

/-- PST (R202): a predicate as one unit, guarded as a whole slot. -/
def execPst (h : LHead) (d : BitVec 4) (a : VCode) (s : State) : Out :=
  .next (s.wholeChk h.guard (.ok ()) [] (streamCodes [a]) fun s => do
    let p ← s.pred d
    let (as, s) ← s.claim (a.toNat - 112) 1
    pure (s.queueWrite 1
      (.mem (pushCells as { data := p.setWidth 1024, mask := (BitVec.allOnes 128).setWidth 1024, flags := 0 } 0) true)))

/-- RQST (R202): the pop happens whatever the guard, which masks bytes of the written group. -/
def execRqst (h : LHead) (q : BitVec 2) (a : VCode) (s : State) : Out :=
  .next (s.slot (do
    let on ← s.guard h.guard
    let (v, k, s) ← s.popRq q
    let (as, s) ← s.claim (a.toNat - 112) 8
    pure (s.queueWrite 2 (.mem (pushCells as (bytesOut h.w on v) k) true))))

/-! ### Gathers, scatters and atomics (R203-R208) -/

/-- Element size in bytes. -/
def esizeBytes : ESize → Nat
  | .h => 2
  | .w => 4
  | .d => 8

/-- Does a set of physical addresses need more than eight 128-bit words of one bank (R204)? -/
def bankOver (as : List Nat) : Bool :=
  let ws := dedup (as.map fun a => a / 16)
  ws.any fun w => decide (8 < (ws.filter fun v => v % 8 == w % 8 && portOf (16 * v) == portOf (16 * w)).length)

/-- The base of an indexed access (R184, R190, R203, R205): a stream whose first field is illegal at use, or that names W, is fault 0x28; a
base outside A or C staging, or one that is no multiple of the element size, is fault 0x2C. An atomic's base lies in A, and any other
buffer is fault 0x2C. -/
def State.indexBase (s : State) (sb : BitVec 4) (size : Nat) (aOnly : Bool) : Except Byte Unit :=
  let v := s.stream sb.toNat
  if aOnly && v.buf != 0 then .error 0x2C
  else if bits 20 9 (s.sf sb.toNat 0) != 0 || v.buf == 1 || v.buf == 3 || (v.side && v.buf != 0) then .error 0x28
  else if (v.buf == 2 && decide (v.off < 0x10000)) || decide (v.limit ≤ v.off) || v.off % size != 0 then .error 0x2C
  else .ok ()

/-- The enabled elements of an indexed access with their physical addresses (R203, R205): the base and every address must be
legal, and the port is held for cycles t to t + 7 (R204). -/
def State.indexed (s : State) (sb : BitVec 4) (size n : Nat) (aOnly : Bool) (off : BitVec 1024) (on : Nat → Bool) :
    Except Byte (List (Nat × Nat) × State) := do
  s.indexBase sb size aOnly
  let v := s.stream sb.toNat
  let els := ((upto n).filter fun i => on (size * i)).map fun i => (i, v.off + size * nbits (8 * size * i) (8 * size) off.toNat)
  let phys (o : Nat) : Nat := s.t.buf.addr (v.buf == 2) v.side o
  if els.any fun e => decide (e.2 + size > v.limit) then throw 0x2C
  let es := els.map fun e => (e.1, phys e.2)
  if bankOver (es.map fun e => e.2) then throw 0x2C
  let as := if es.isEmpty then [phys v.off] else es.map fun e => e.2
  let s ← s.access as
  pure (es, s.modLane fun l => { l with held := l.held ++ (portsOf as).map fun p => (p, s.cycle + 7) })

/-- VLDX (R203): lands at t + 10. A group whose offsets are poisoned comes poisoned (R196; 08_vector.md R218). -/
def execVldx (h : LHead) (d a : VCode) (sz : ESize) (sb : BitVec 4) (s : State) : Out :=
  .next (s.slot (do
    s.liveCodes [a, d]
    let on ← s.guard h.guard
    let off ← s.vreg a.toNat
    let n := esizeBytes sz
    let (es, s) ← s.indexed sb n (h.w.bits / (8 * n)) false off.data on
    let (bs, s) := s.readAt (es.flatMap fun e => run e.2 n)
    let is := es.flatMap fun e => (upto n).map fun k => n * e.1 + k
    let (o, m) := loadOut ((is.zip bs).map fun (i, b) => (i, b.1, b.2))
    s.writeReg d.toNat 10 o (m ||| marksOn es n off.marks)))

/-- The cells of a scatter, in increasing element order (R203). -/
def scatterCells (es : List (Nat × Nat)) (size : Nat) (v : BitVec 1024) (marks : BitVec 4) : List (Nat × Byte × Bool) :=
  es.flatMap fun (i, a) => (upto size).map fun k =>
    (a + k, bits (8 * (size * i + k)) 8 v, marks.getLsbD (size * i / 32))

/-- VSTX (R203): performed at t + 1, as VST is; R198 allows any cycle up to t + 8 (DESIGN CHOICE). The lanes' stores then perform
in program order, as R401 asks of those of one class. -/
def execVstx (h : LHead) (d a : VCode) (sz : ESize) (sb : BitVec 4) (s : State) : Out :=
  .next (s.slot (do
    s.liveCodes [a, d]
    let on ← s.guard h.guard
    let off ← s.vreg a.toNat
    let v ← s.vreg d.toNat
    let n := esizeBytes sz
    let (es, s) ← s.indexed sb n (h.w.bits / (8 * n)) false off.data on
    pure (s.queueWrite 1 (.mem (scatterCells es n v.data v.marks) true))))

/-- The cycle by which the stores in flight that a vector atomic must follow have performed, if there are any: every older lane store
(14_memory_model.md R401), and the stream writes to its bytes (08_vector.md R213). -/
def State.storesBefore (s : State) (as : List Nat) : Option Nat :=
  let due := s.t.lane.pending.filterMap fun w => match w.target with
    | .mem cs dig => if dig || cs.any (fun c => as.contains c.1) then some w.due else none
    | .amo .. => some w.due
    | _ => none
  due.foldl (fun m d => some (max d (m.getD 0))) none

/-- A vector atomic (R205-R208): its elements act in order as one action, at issue or, where older stores are still in flight, right after the
last of them, by t + 8; the old values return at t + 14. -/
def vamo (op : AOp) (h : LHead) (d a : VCode) (ret sz : Bool) (sb : BitVec 4) (v : VCode) (s : State) : Out :=
  .next (s.slot (do
    let keeps := ret || op == .cas
    s.liveCodes (if keeps then [a, v, d] else [a, v])
    let on ← s.guard h.guard
    let size := sizeBits sz / 8
    let n := h.w.bits / (8 * size)
    let off ← s.vreg a.toNat
    let (b, s) ← if v.toNat < 112 then s.src v h.w (fun _ => true) else .error 0x22
    let cmp ← if op == .cas then s.vreg d.toNat else pure { data := 0, marks := 0 }
    let (es, s) ← s.indexed sb size n true off.data on
    let dest := if ret then some (physV s.t.ctl.rb d.toNat) else none
    match s.storesBefore (es.flatMap fun e => run e.2 size) with
    | some due =>
      pure (s.modLane fun l =>
        { l with
          pending := l.pending ++
            [{ due := min due (s.cycle + 8), issued := s.cycle
               target := .amo op size es b.data cmp.data (b.marks ||| cmp.marks) off.marks dest }] })
    | none =>
      let r := s.amoRun op size es b.data cmp.data (b.marks ||| cmp.marks)
      if ret then
        r.s.writeReg d.toNat 14 { data := r.old, mask := amoMask size es, flags := 0 } (r.marks ||| marksOn es size off.marks)
      else pure r.s))

/-- VAMOOR (R205). -/
def execVamoor (h : LHead) (d a : VCode) (ret sz : Bool) (sb : BitVec 4) (v : VCode) (s : State) : Out :=
  vamo .or h d a ret sz sb v s
/-- VAMOAND (R205). -/
def execVamoand (h : LHead) (d a : VCode) (ret sz : Bool) (sb : BitVec 4) (v : VCode) (s : State) : Out :=
  vamo .and h d a ret sz sb v s
/-- VAMOXOR (R205). -/
def execVamoxor (h : LHead) (d a : VCode) (ret sz : Bool) (sb : BitVec 4) (v : VCode) (s : State) : Out :=
  vamo .xor h d a ret sz sb v s
/-- VAMOADD (R205). -/
def execVamoadd (h : LHead) (d a : VCode) (ret sz : Bool) (sb : BitVec 4) (v : VCode) (s : State) : Out :=
  vamo .add h d a ret sz sb v s
/-- VAMOMIN (R205). -/
def execVamomin (h : LHead) (d a : VCode) (ret sz : Bool) (sb : BitVec 4) (v : VCode) (s : State) : Out :=
  vamo .min h d a ret sz sb v s
/-- VAMOMAX (R205). -/
def execVamomax (h : LHead) (d a : VCode) (ret sz : Bool) (sb : BitVec 4) (v : VCode) (s : State) : Out :=
  vamo .max h d a ret sz sb v s
/-- VAMOXCHG (R205). -/
def execVamoxchg (h : LHead) (d a : VCode) (ret sz : Bool) (sb : BitVec 4) (v : VCode) (s : State) : Out :=
  vamo .swap h d a ret sz sb v s
/-- VAMOCAS (R205): the compare value is D before the instruction. -/
def execVamocas (h : LHead) (d a : VCode) (ret sz : Bool) (sb : BitVec 4) (v : VCode) (s : State) : Out :=
  vamo .cas h d a ret sz sb v s

end Sys2Proof.Machine
end

