-- ==== Sys2Proof/Machine/FabricSlots.lean ====
section
/-!
DEFINITION. The FB slot: channel sends and receives (10_fabric.md R294-R297).
-/

namespace Sys2Proof.Machine

open Sys2Proof

/-! ### Sending a flit (R279, R283, R287) -/

/-- A channel is marked broken (R282, R292). -/
def State.breakChan (s : State) (ch : Byte) : State := s.modChan ch fun c => { c with brk := true }

/-- A flit leaves on its channel: to the tile the entry names, or for a gateway channel to the peer module (R282); a tile outside
the region is trapped with event 0x6B. -/
def State.launchFlit (s : State) (ch : Byte) (f : Flit) : State :=
  let e := s.chEnt ch
  if chGw e then s.sendOut (chMod e) ch (if chExp e then 8 else 9) (.flit f)
  else match s.relTile (chX e) (chY e) with
    | some t => s.send t (.flit { f with gen := s.genOf t })
    | none => (s.breakChan ch).moduleEvent 0x6B 0 (BitVec.ofNat 16 (s.home s.here)) (ch.setWidth 64) 0

/-- The flit of a channel (R279). -/
def State.mkFlit (s : State) (ch : Byte) (typ : BitVec 4) (psn : BitVec 4) (wid : BitVec 2) (sem : Byte) (payload : BitVec 1024) :
    Flit :=
  let e := s.chEnt ch
  let t := (s.relTile (chX e) (chY e)).getD 0
  let (x, y) := if chGw e then (chX e, chY e) else (tileX t, tileY t)
  { typ := typ, dx := BitVec.ofNat 7 x, dy := BitVec.ofNat 7 y, gen := if chGw e then 0 else s.genOf t
    seq := if chStatic e then 0 else (s.chan ch).nxt, dch := chPch e, psn := psn, wid := wid, sem := sem, payload := payload }

/-- Put a flit into a send channel: a windowed one keeps it in the send store and numbers it (R283). -/
def State.putFlit (s : State) (ch : Byte) (typ : BitVec 4) (psn : BitVec 4) (wid : BitVec 2) (sem : Byte) (payload : BitVec 1024) :
    State :=
  let f := s.mkFlit ch typ psn wid sem payload
  let s :=
    if chStatic (s.chEnt ch) then s
    else
      (s.modFab fun b => { b with sendStore := b.sendStore ++ [{ ch := ch, seq := f.seq, flit := f, bad := false }] }).modChan ch
        fun c => { c with nxt := c.nxt + 1, moved := if c.nxt == c.ack then s.cycle else c.moved }
  s.launchFlit ch f

/-- The width code of R45. -/
def widthCode : Width → BitVec 2
  | .w256 => 0
  | .w512 => 1
  | .w1024 => 2

/-- Check a send on a channel (R295): the wrong channel is fault 0x64, a broken one 0x69. -/
def State.sendCheck (s : State) (ch : Byte) (winOnly : Bool) : Except Byte Unit :=
  let e := s.userEnt ch
  if !chV e || chRecv e || (winOnly && chStatic e) then .error 0x64
  else if (s.chan ch).brk then .error 0x69
  else .ok ()

/-- A send of w bits (R296): bytes that are off are sent as zero; a windowed channel uses one reservation, or fault 0x60. It
escapes (15_sync_time_phases.md R434). -/
def State.fsend (s : State) (w : Width) (ch : Byte) (on : Nat → Bool) (v : Src) (sem : Option Byte) : Except Byte State :=
  let e := s.chEnt ch
  let o := bytesOut w on v.data
  let data := v.data &&& o.mask
  let psn := v.marks &&& widthGroups w
  if chStatic e then .ok (s.escape.putFlit ch 0 psn (widthCode w) 0 data)
  else if (s.chan ch).rsv = 0 then .error 0x60
  else
    .ok ((s.escape.modChan ch fun c => { c with rsv := c.rsv - 1 }).putFlit ch (if sem.isSome then 2 else 1) psn (widthCode w)
      (sem.getD 0) data)

/-- FSEND (R295, R296). A dead register name is refused first: decoding raises it (02_bundles.md R37). -/
def execFsend (h : LHead) (d : VCode) (ch : Byte) (s : State) : Out :=
  .next (s.slot (do
    s.liveCodes [d]
    s.sendCheck ch false
    let on ← s.guard h.guard
    let (v, s) ← s.src d h.w on
    s.fsend h.w ch on v none))

/-- FSENDQ (R295, R296): one half of a result queue. -/
def execFsendq (h : LHead) (q : BitVec 2) (ch : Byte) (s : State) : Out :=
  .next (s.slot (do
    s.sendCheck ch false
    let on ← s.guard h.guard
    let (v, k, s) ← s.popRq q
    s.fsend h.w ch on { data := v, marks := k } none))

/-- FSENDS (R295, R296): TYPE 2, with a semaphore at the receiver. -/
def execFsends (h : LHead) (d : VCode) (ch : Byte) (sem : Byte) (s : State) : Out :=
  .next (s.slot (do
    s.liveCodes [d]
    s.sendCheck ch true
    let on ← s.guard h.guard
    let (v, s) ← s.src d h.w on
    s.fsend h.w ch on v (some sem)))

/-! ### Receiving a flit (R283, R288, R297) -/

/-- Write what a receive took (R297): enabled bytes of the payload, marks by lane group, at latency 2. A store entry that is
uncorrectable escalates as code 0x80 (17_faults_repair.md R485). -/
def State.receive (s : State) (d : VCode) (w : Width) (on : Nat → Bool) (x : Slot) : Except Byte State := do
  let s ← s.writeDest d w 2 (bytesOut w on x.flit.payload) (x.flit.psn &&& widthGroups w)
  let s := s.escape
  pure (if x.bad then s.auto (.escalate { code := 0x80, arg := 0, slot := 15, async := false, lane := true, val := 0 }) else s)

/-- FRECV (R283, R297): with CLM = 0, fault 0x61. The acknowledgement follows (R284). -/
def execFrecv (h : LHead) (d : VCode) (ch : Byte) (s : State) : Out :=
  .next (s.slot (do
    s.liveCodes [d]
    if !chRecvWin (s.userEnt ch) then .error 0x64
    else do
      let on ← s.guard h.guard
      let c := s.chan ch
      match s.t.fab.recvStore.find? fun x => x.ch == ch && x.seq == c.con with
      | none => .error 0x61
      | some x =>
        if c.clm = 0 then .error 0x61
        else do
          let s := s.modFab fun b => { b with recvStore := b.recvStore.filter fun y => !(y.ch == ch && y.seq == c.con) }
          let s := s.modChan ch fun c => { c with con := c.con + 1, clm := c.clm - 1 }
          (s.auto (.ack ch)).receive d h.w on x))

/-- FRECVT (R288, R297): OVR set is fault 0x63, no stored flit fault 0x62. -/
def execFrecvt (h : LHead) (d : VCode) (ch : Byte) (s : State) : Out :=
  .next (s.slot (do
    s.liveCodes [d]
    if !chRecvStat (s.userEnt ch) then .error 0x64
    else if (s.chan ch).ovr then .error 0x63
    else do
      let on ← s.guard h.guard
      match s.stored ch with
      | [] => .error 0x62
      | x :: rest =>
        (s.modFab fun b => { b with recvStore := (b.recvStore.filter fun y => y.ch != ch) ++ rest }).receive d h.w on x))

end Sys2Proof.Machine
end

