-- ==== Sys2Proof/Machine/Coll.lean ====
section
/-!
DEFINITION. Exact reductions at one tile: elements, the switch's combination and results, rounds and aborts
(11_exact_reduction.md R304-R328), and the COLL instructions (R311-R317).
-/

namespace Sys2Proof.Machine

open Sys2Proof

/-! ### Elements (R308, R309, R319) -/

/-- An idle entry with no history (R304). -/
def Coll.zero : Coll :=
  { state := .idle, rnd := 0, len := 0, cur := 0, src := false, nslot := 0, slots := [], de := false, dst := 0, cwe := false
    cwl := 0, malformed := false, active := false, act := 0, lv := false, last := 0, lastCode := 0, lastFlags := 0, successor := none, timer := none
    grace := none, abp := false, abcode := 0, inq := [], heads := [], hdr := false, comb := 0, outq := [], upSeq := 0, resq := []
    resDone := 0, downSeq := 0, ringCnt := [], ringOut := [], flags := 0, poison := false, exp := [] }

/-- The state of an id at the present tile. -/
def State.coll (s : State) (id : BitVec 6) : Coll := SMap.get Coll.zero s.t.red.colls id.toNat

/-- Update the state of an id. -/
def State.modColl (s : State) (id : BitVec 6) (f : Coll → Coll) : State :=
  s.modRed fun r => { r with colls := SMap.set Coll.zero r.colls id.toNat (f (SMap.get Coll.zero r.colls id.toNat)) }

/-- The format of a code (02_bundles.md R50). -/
def redFmt (n : Nat) : Fmt := (fmtOf (BitVec.ofNat 4 n)).getD .i8

/-- Bits of an element of a reduction format: an SCL image has 512. -/
def redBits (f : Fmt) : Nat := if f == .scl then 512 else f.bits

/-- Does an operation combine in the long accumulator (R308)? -/
def redSum (op : Nat) : Bool := decide (op < 2)

/-- An element of a format as the switch holds it, and whether it was a malformed image (R183). -/
def redElem (op : Nat) (f : Fmt) (v : Nat) (p : Bool) : CElem × Bool :=
  if redSum op then
    if f == .scl then
      let (la, bad) := sclIf p (BitVec.ofNat 512 v)
      ({ v := sclEncode la, p := p }, bad)
    else ({ v := sclEncode (laOf (elemValue f false v)), p := p }, false)
  else ({ v := BitVec.ofNat 512 v, p := p }, false)

/-- The least and the greatest value of a format (R315). -/
def extreme (f : Fmt) (top : Bool) : Nat :=
  if f.isF then (if f.hasInf then infCode f (!top) else encodeMag f (!top) f.maxFin.1 f.maxFin.2)
  else if top then 2 ^ (f.bits - 1) - 1 else 2 ^ (f.bits - 1)

/-- The identity of an operation (R315). -/
def redIdentity (op : Nat) (f : Fmt) : CElem :=
  match op with
  | 0 | 1 => { v := sclEncode La.zero, p := false }
  | 2 => { v := 0, p := false }
  | 3 => { v := BitVec.ofNat 512 (2 ^ redBits f - 1), p := false }
  | 4 => { v := BitVec.ofNat 512 (extreme f false), p := false }
  | _ => { v := BitVec.ofNat 512 (extreme f true), p := false }

/-- The larger or smaller of two codes (R309): any NaN gives the canonical NaN of sign 0. -/
def redMinMax (f : Fmt) (mx : Bool) (a b : Nat) : Nat :=
  if f.isF then
    let x := ofFloat f a
    let y := ofFloat f b
    if x.isNan || y.isNan then canonNan f false
    else if belowZ x y then (if mx then b else a) else (if mx then a else b)
  else if rdInt f.bits false a ≤ rdInt f.bits false b then (if mx then b else a)
  else if mx then a else b

/-- Combine two elements (R308, R319). -/
def redCombine2 (op : Nat) (f : Fmt) (a b : CElem) : CElem :=
  let v : BitVec 512 := match op with
    | 0 | 1 => sclEncode ((sclRead a.v).1.add (sclRead b.v).1)
    | 2 => a.v ||| b.v
    | 3 => a.v &&& b.v
    | 4 => BitVec.ofNat 512 (redMinMax f true a.v.toNat b.v.toNat)
    | _ => BitVec.ofNat 512 (redMinMax f false a.v.toNat b.v.toNat)
  { v := v, p := a.p || b.p }

/-- Combine a list of elements: the order has no effect (R309, R319). -/
def redFold (op : Nat) (f : Fmt) : List CElem → CElem
  | [] => redIdentity op f
  | [a] => a
  | a :: rest => redCombine2 op f a (redFold op f rest)

/-- A maximum or a minimum of NaN inputs is the canonical NaN, of one input too (R309). -/
def redCanon (op : Nat) (f : Fmt) (x : CElem) : CElem :=
  if op ≥ 4 && f.isF && (ofFloat f x.v.toNat).isNan then { x with v := BitVec.ofNat 512 (canonNan f false) } else x

/-- The result of an element at the root (R320): the bits of OF and the flags of R321. -/
def redResult (op : Nat) (f : Fmt) (x : CElem) : Nat × Byte :=
  let la := (sclRead x.v).1
  match op with
  | 0 =>
    let comp : Nat := (if la.nan then 128 else 0) + (if la.pinf then 64 else 0) + (if la.minf then 32 else 0)
    if f == .scl then (x.v.toNat, BitVec.ofNat 8 comp)
    else
      let (y, fl) := laRound la f .rne true 0
      (y, BitVec.ofNat 8 (comp + fl.toNat))
  | 1 =>
    if f == .scl then (x.v.toNat, 0)
    else
      let v := la.v.toInt / 2 ^ 160
      let (lo, hi) := intRange f.bits true
      (wrap f.bits (clamp v lo hi), if v < lo || v > hi then 16 else 0)
  | _ => (x.v.toNat, 0)

/-! ### Flits (R322) -/

/-- Pieces of a list, n at a time; a short last piece is kept. -/
def chunks {α : Type} (n : Nat) : Nat → List α → List (List α)
  | 0, _ => []
  | f + 1, l => if l.isEmpty || n = 0 then [] else l.take n :: chunks n f (l.drop n)

/-- Elements of a width that fill one flit. -/
def perFlit (b : Nat) : Nat := 1024 / b

/-- The payload of elements of b bits, and the poison of its 32-byte pieces. -/
def packElems (b : Nat) (xs : List CElem) : BitVec 1024 × BitVec 4 :=
  (xs.zip (upto xs.length)).foldl (fun (d, m) (x, j) =>
    (d ||| ((x.v.setWidth 1024 &&& (BitVec.allOnes b).setWidth 1024) <<< (b * j)),
      if x.p then m ||| joinElems 1 4 4 fun q => BitVec.ofBool (decide (b * j < 256 * (q + 1) ∧ 256 * q < b * (j + 1))) else m)) (0, 0)

/-- The first n elements of b bits of a payload: one is poisoned if any piece of it is. -/
def unpackElems (b n : Nat) (d : BitVec 1024) (psn : BitVec 4) : List CElem :=
  (upto n).map fun j =>
    { v := BitVec.ofNat 512 (nbits (b * j) b d.toNat)
      p := (upto 4).any fun q => psn.getLsbD q && decide (b * j < 256 * (q + 1) ∧ 256 * q < b * (j + 1)) }

/-- The width of the elements of an upward flit (R322). -/
def upBits (e : Word) : Nat := if redSum (reOp e) then 512 else redBits (redFmt (reIn e))

/-- The sideband of a tree flit as a word (R322). -/
def treeWord (f : CollFlit) : Word :=
  BitVec.ofNat 64 (2 ^ 60 * f.typ.toNat + 2 ^ 53 * f.idx.toNat + 2 ^ 45 * f.gen.toNat + 2 ^ 29 * f.rnd.toNat
    + 2 ^ 14 * f.seq.toNat + 2 ^ 10 * f.psn.toNat + f.code.toNat)

/-- Put a tree flit on the edge to the neighbour at a port; a link out of service carries it as two detour halves (R322). -/
def State.putTree (s : State) (port : Nat) (f : CollFlit) : State :=
  let t := neighbour s.here port
  let g := s.genOf t
  let f := { f with gen := g }
  let back := BitVec.ofNat 3 ((port + 2) % 4)
  if s.t.fab.linkDown.getLsbD port then
    [0, 1].foldl (fun s h =>
      s.send t (.detour back
        { half := decide (h = 1), dx := BitVec.ofNat 7 (tileX t), dy := BitVec.ofNat 7 (tileY t), gen := g, flags := f.flags
          payload := ((treeWord f).setWidth 1024 <<< 512) ||| (bits (512 * h) 512 f.payload).setWidth 1024 })) s
  else s.send t (.coll back f)

/-! ### The windows of the edges (R322) -/

/-- Element and result flits are numbered; aborts and barrier flits are not. -/
def numbered (f : CollFlit) : Bool := f.typ == 4 || f.typ == 5

/-- Where the sending end of an edge is kept: by id, or by barrier, and port. -/
def treeKey (typ : BitVec 4) (idx : BitVec 7) (port : Nat) : Nat := 4 * (if typ == 7 then 128 + idx.toNat else idx.toNat) + port

/-- An edge with nothing to acknowledge. -/
def TreeOut.empty : TreeOut := { q := [], moved := 0 }

/-- The sending end of an edge. -/
def State.treeOut (s : State) (k : Nat) : TreeOut := SMap.get TreeOut.empty s.t.red.outs k

/-- Numbered flits in flight. -/
def TreeOut.flying (w : TreeOut) : List CollFlit := (w.q.filter fun x => numbered x.1 && x.2).map fun x => x.1

/-- The flits that may go now, and the queue once they have gone: numbered ones while fewer than 32 are in flight, one round at a time
(DESIGN CHOICE, notes/assumptions/139.md: the numbers start again with each round), and the others at once. -/
def treeReady : Nat → Option (BitVec 16) → List (CollFlit × Bool) → List CollFlit × List (CollFlit × Bool)
  | _, _, [] => ([], [])
  | n, r, (f, sent) :: rest =>
    if sent then
      let x := treeReady n r rest
      (x.1, (f, true) :: x.2)
    else if numbered f && !(decide (n < 32) && (r == none || r == some f.rnd)) then
      let x := treeReady 32 r rest
      (x.1, (f, false) :: x.2)
    else
      let x := if numbered f then treeReady (n + 1) (some f.rnd) rest else treeReady n r rest
      (f :: x.1, (f, true) :: x.2)

/-- Replace the queue of an edge, and send what may go. -/
def State.pumpTree (s : State) (k : Nat) (w : TreeOut) : State :=
  let x := treeReady w.flying.length (w.flying.head?.map fun f => f.rnd) w.q
  let w' : TreeOut := if x.2.isEmpty then TreeOut.empty else { q := x.2, moved := if w.flying.isEmpty then s.cycle else w.moved }
  x.1.foldl (fun s f => s.putTree (k % 4) f) (s.modRed fun r => { r with outs := SMap.set TreeOut.empty r.outs k w' })

/-- A tree flit leaves over the edge at a port, within its window (R322). -/
def State.sendTree (s : State) (port : Nat) (f : CollFlit) : State :=
  let k := treeKey f.typ f.idx port
  s.pumpTree k { s.treeOut k with q := (s.treeOut k).q ++ [(f, false)] }

/-- Does an acknowledgement cover a flit? A numbered one covers those up to its number, another one its own kind and round. -/
def treeCovers (typ : BitVec 4) (rnd : BitVec 16) (seq : BitVec 15) (x : CollFlit × Bool) : Bool :=
  x.2 && x.1.rnd == rnd && (if typ == 4 || typ == 5 then numbered x.1 && decide ((seq - x.1.seq).toNat < 32) else x.1.typ == typ)

/-- An acknowledgement reaches the sending end of an edge: what it covers leaves the queue, and what waited follows. -/
def State.treeAcked (s : State) (port : Nat) (typ : BitVec 4) (idx : BitVec 7) (rnd : BitVec 16) (seq : BitVec 15) : State :=
  let k := treeKey typ idx port
  let w := s.treeOut k
  let q := w.q.filter fun x => !treeCovers typ rnd seq x
  if q.length == w.q.length then s else s.pumpTree k { q := q, moved := s.cycle }

/-- Send every flit in flight on an edge again, in order (10_fabric.md R284, R292). -/
def State.resendTree (s : State) (k : Nat) : State :=
  let w := s.treeOut k
  (w.q.filter fun x => x.2).foldl (fun s x => s.putTree (k % 4) x.1)
    (s.modRed fun r => { r with outs := SMap.set TreeOut.empty r.outs k (if w.q.isEmpty then w else { w with moved := s.cycle }) })

/-- An edge whose acknowledgements have not moved for 2^14 cycles is resent (10_fabric.md R284). -/
def State.treeTimeout (s : State) (k : Nat) : State :=
  let w := s.treeOut k
  if w.q.any (fun x => x.2) && decide (w.moved + 16384 ≤ s.cycle) then s.resendTree k else s

/-- Acknowledge a tree flit that came over the edge at a port. -/
def State.ackTree (s : State) (port : Nat) (f : CollFlit) (seq : BitVec 15) : State :=
  s.send (neighbour s.here port) (.treeAck (BitVec.ofNat 3 ((port + 2) % 4)) f.typ f.idx f.rnd seq)

/-- The flits of a round that aborts are sent no more. -/
def Red.dropRound (r : Red) (id : BitVec 6) (rnd : BitVec 16) : Red :=
  { r with
    outs := (r.outs.map fun (e : Nat × TreeOut) =>
      (e.1, if e.1 / 4 == id.toNat then { e.2 with q := e.2.q.filter fun x => !(numbered x.1 && x.1.rnd == rnd) } else e.2)).filter
        fun e => !e.2.q.isEmpty }

/-- Send a flit to every child of an entry. -/
def State.sendKids (s : State) (e : Word) (f : CollFlit) : State := (reKids e).foldl (fun s p => s.sendTree p f) s

/-- A flit of an id. -/
def collFlit (id : BitVec 6) (typ : BitVec 4) (rnd : BitVec 16) (seq : Nat) (psn : BitVec 4) (code flags : Byte)
    (payload : BitVec 1024) : CollFlit :=
  { typ := typ, idx := id.setWidth 7, gen := 0, rnd := rnd, seq := BitVec.ofNat 15 seq, psn := psn, code := code, flags := flags
    payload := payload }

/-! ### Rounds (R312, R318, R321, R324) -/

/-- Write 64 bits at a local location (R320, R321). -/
def State.putLocal (s : State) (l v : Word) : State :=
  match s.localPlace l 8 with
  | some a => s.writeAt (cellsOf a (clean (toBytes 8 v.toNat)))
  | none => s

/-- The completion word (R321). -/
def complWord (rnd : BitVec 16) (code status flags : Nat) : Word :=
  BitVec.ofNat 64 (2 ^ 48 * rnd.toNat + 2 ^ 40 * code + 2 ^ 32 * status + flags)

/-- An entry becomes active with a round (R318), and its timer starts (R324). -/
def State.activate (s : State) (id : BitVec 6) (r : BitVec 16) : State :=
  let t := reTmr (s.redEnt id)
  let now := s.cycle
  s.modColl id fun c => { c with active := true, act := r, timer := if t = 0 then none else some (now + 2 ^ (t + 9)) }

/-- Close a round at the entry (R318): LAST, the switch's state, the slots, and the local round with its completion word. Code 0
is a normal end. -/
def State.endRound (s : State) (id : BitVec 6) (code : Byte) : State :=
  let c := s.coll id
  let mine := c.state == .opened
  let s :=
    if mine && c.cwe then
      s.putLocal c.cwl
        (if code == 0 then complWord c.rnd (if c.malformed then 0xA3 else 0) (if c.poison then 1 else 0) c.flags.toNat
         else complWord c.rnd code.toNat 4 c.flags.toNat)
    else s
  let s := s.modRed fun r => { (if code == 0 then r else r.dropRound id c.act) with store := r.store - c.nslot }
  s.modColl id fun c =>
    { Coll.zero with
      state := if mine then (if code == 0 then .idle else .aborted) else c.state
      rnd := c.rnd, len := c.len, cur := c.cur, src := c.src
      lv := true, last := c.successor.getD c.act, lastCode := if c.successor.isSome then 0xA4 else code
      lastFlags := if c.successor.isSome then 0 else c.flags, ringOut := c.ringOut }

/-! ### Ring flits (R323) -/

/-- The parts of a ring flit. -/
def ringRound (p : BitVec 1024) : BitVec 16 := bits 512 16 p
/-- ORIG. -/
def ringOrig (p : BitVec 1024) : BitVec 12 := bits 528 12 p
/-- KIND. -/
def ringKind (p : BitVec 1024) : Nat := (bits 540 4 p).toNat
/-- NEL. -/
def ringNel (p : BitVec 1024) : Nat := (bits 560 8 p).toNat
/-- PSN of bytes 0-31 and 32-63. -/
def ringPsn (p : BitVec 1024) : BitVec 2 := bits 568 2 p
/-- CNT. -/
def ringCnt (p : BitVec 1024) : Nat := (bits 576 21 p).toNat
/-- CODE. -/
def ringCode (p : BitVec 1024) : Byte := bits 597 8 p
/-- LEN. -/
def ringLen (p : BitVec 1024) : Nat := (bits 605 16 p).toNat

/-- The payload of a ring flit. -/
def ringPayload (data : BitVec 512) (rnd : BitVec 16) (orig : BitVec 12) (kind elem nel psn cnt code len : Nat) : BitVec 1024 :=
  data.setWidth 1024 ||| (BitVec.ofNat 1024
    (rnd.toNat + 2 ^ 16 * orig.toNat + 2 ^ 28 * kind + 2 ^ 32 * elem + 2 ^ 48 * nel + 2 ^ 56 * psn
      + 2 ^ 64 * (cnt + 2 ^ 21 * code + 2 ^ 29 * len)) <<< 512)

/-- Send the ring flits that wait, as far as the channel's window allows (R283, R322). -/
def ringFlush (ch : Byte) : List (BitVec 1024) → State → List (BitVec 1024) × State
  | [], s => ([], s)
  | p :: rest, s =>
    if (s.chan ch).brk then ringFlush ch rest s
    else if (s.chan ch).inf < chWin (s.chEnt ch) then ringFlush ch rest (s.putFlit ch 1 0 2 0 p)
    else (p :: rest, s)

/-- Send what waits on the ring of an id. -/
def State.ringDrain (s : State) (id : BitVec 6) : State :=
  let (rest, s) := ringFlush (reRch (s.redEnt id)) (s.coll id).ringOut s
  s.modColl id fun c => { c with ringOut := rest }

/-- Queue a ring flit. -/
def State.ringPut (s : State) (id : BitVec 6) (p : BitVec 1024) : State :=
  (s.modColl id fun c => { c with ringOut := c.ringOut ++ [p] }).ringDrain id

/-- Forward a ring flit to the next module, unless that module is its origin (R323, R324). -/
def State.ringForward (s : State) (id : BitVec 6) (p : BitVec 1024) : State :=
  if chMod (s.chEnt (reRch (s.redEnt id))) == ringOrig p then s else s.ringPut id p

/-! ### Aborts (R324) -/

/-- The elements of the round, as the local tile or a child gave it. -/
def Coll.roundLen (c : Coll) (e : Word) : Option Nat :=
  if reL e then (if c.state == .opened && c.rnd == c.act then some c.len else none)
  else match c.heads.find? fun h => h.1 < 16 with
    | some h => some h.2.2
    | none => none

/-- A root, or an entry told by its parent, aborts its tree and ends the round. -/
def State.abortTree (s : State) (id : BitVec 6) (code : Byte) : State :=
  (s.sendKids (s.redEnt id) (collFlit id 6 (s.coll id).act 0 0 code 0 0)).endRound id code

/-- An abort starts at an entry (R324): a root decides it; another entry sends ABORT upward once and arms its grace timer. A ring abort
carries LEN where the root knows it (DESIGN CHOICE, notes/assumptions/140.md: zero where no tile of the tree has given it). -/
def State.startAbort (s : State) (id : BitVec 6) (code : Byte) : State :=
  let e := s.redEnt id
  let c := s.coll id
  if !c.active then s
  else if rePar e = 0 then
    let s := if reRing e then
        s.ringPut id (ringPayload 0 c.act s.ctrl.modno 1 0 0 0 (reCount e) code.toNat ((c.roundLen e).getD 0))
      else s
    s.abortTree id code
  else if c.abp then s
  else
    let due := s.cycle + (if reTmr e = 0 then 2 ^ 20 else 2 ^ (reTmr e + 9))
    (s.sendTree (rePar e - 1) (collFlit id 6 c.act 0 0 code 0 0)).modColl id fun c =>
      { c with abp := true, abcode := code, grace := some due }

/-- What an arriving flit of a round finds (R318): true when it is accepted. -/
def State.accepts (s : State) (id : BitVec 6) (r : BitVec 16) : Bool × State :=
  let c := s.coll id
  if c.active then
    if r == c.act then (true, s)
    else if c.lv && r == c.last then (false, s)
    else (false, s.startAbort id 0xA4)
  else if c.lv && r == c.last then (false, s)
  else (true, s.activate id r)

/-! ### Results (R320) -/

/-- Write result elements at the local destination (R320): each at DST + i * size, poisoned ones poisoned. -/
def State.writeResults (s : State) (id : BitVec 6) (xs : List CElem) : State :=
  let c := s.coll id
  if !(c.state == .opened && c.de) then s
  else
    let size := redBits (redFmt (reOut (s.redEnt id))) / 8
    (xs.zip (upto xs.length)).foldl (fun s (x, j) =>
      let a := s.t.buf.addr (locBuf c.dst == .c) (locSide c.dst) (locOff c.dst + size * (c.resDone + j))
      s.writeAt (cellsOf a ((toBytes size x.v.toNat).map fun b => (b, x.p)))) s

/-- Results are done at the tile (R320): written, counted, and with the last one the round ends. -/
def State.finishResults (s : State) (id : BitVec 6) (xs : List CElem) (len : Nat) : State :=
  let s := (s.writeResults id xs).modColl id fun c =>
    { c with resDone := c.resDone + xs.length, poison := c.poison || xs.any fun x => x.p }
  if (s.coll id).resDone ≥ len then s.endRound id 0 else s

/-- Send result elements down in flits; a short flit only at the end of the round. -/
def State.sendDown (s : State) (id : BitVec 6) (final : Bool) : State :=
  let e := s.redEnt id
  let c := s.coll id
  let b := redBits (redFmt (reOut e))
  let cs := chunks (perFlit b) c.resq.length c.resq
  let ready := if final then cs else cs.filter fun x => x.length == perFlit b
  let rest := if final then [] else (cs.filter fun x => x.length != perFlit b).flatten
  let s := (ready.zip (upto ready.length)).foldl (fun s (xs, j) =>
    let (d, m) := packElems b xs
    s.sendKids e (collFlit id 5 c.act (c.downSeq + j) m 0 c.flags d)) s
  s.modColl id fun c => { c with resq := rest, downSeq := c.downSeq + ready.length }

/-- Combined elements become results at a root (R320). -/
def State.formResults (s : State) (id : BitVec 6) (xs : List CElem) (len : Nat) : State :=
  if xs.isEmpty then s
  else
    let e := s.redEnt id
    let f := redFmt (reOut e)
    let rs := xs.map fun x =>
      let (v, fl) := redResult (reOp e) f (redCanon (reOp e) f x)
      (({ v := BitVec.ofNat 512 v, p := x.p } : CElem), fl)
    let s := s.modColl id fun c =>
      { c with resq := c.resq ++ rs.map fun r => r.1, flags := rs.foldl (fun a r => a ||| r.2) c.flags }
    let final := decide ((s.coll id).resDone + xs.length ≥ len)
    (s.sendDown id final).finishResults id (rs.map fun r => r.1) len

/-! ### Combination (R319, R323) -/

/-- The inputs of an entry: 0 the tile, 1 to 4 the children. -/
def redInputs (e : Word) : List Nat := (if reL e then [0] else []) ++ (reKids e).map fun p => p + 1

/-- The elements held from an input. -/
def Coll.held (c : Coll) (k : Nat) : List CElem := SMap.get [] c.inq k

/-- The checks of R319: `none` while headers or the local round are missing, then whether counts and lengths agree. -/
def Coll.checked (c : Coll) (e : Word) : Option Bool :=
  match c.roundLen e with
  | none => none
  | some n =>
    let hs := (reKids e).map fun p => (c.heads.find? fun h => h.1 == p).map fun h => h.2
    if hs.any Option.isNone then none
    else
      let hs := hs.map fun h => h.getD (0, 0)
      some (decide (hs.foldl (fun t h => t + h.1) (if reL e then 1 else 0) = reCount e) && hs.all fun h => h.2 == n)

/-- Take the first n elements of some inputs and combine them column by column. -/
def Coll.combine (c : Coll) (e : Word) (ks : List Nat) (n : Nat) : List CElem × Coll :=
  ((upto n).map fun i => redFold (reOp e) (redFmt (reIn e)) (ks.map fun k => (c.held k).getD i (redIdentity (reOp e) (redFmt (reIn e)))),
    { c with inq := ks.foldl (fun q k => SMap.set [] q k ((c.held k).drop n)) c.inq })

/-- The fewest elements that some inputs hold. -/
def Coll.fewest (c : Coll) (ks : List Nat) : Nat :=
  match ks.map fun k => (c.held k).length with
  | [] => 0
  | a :: r => r.foldl min a

/-- Elements go up in flits, after the header (R319, R322). -/
def State.sendUp (s : State) (id : BitVec 6) (xs : List CElem) (len : Nat) : State :=
  let e := s.redEnt id
  let c := s.coll id
  let p := rePar e - 1
  let s :=
    if c.hdr then s
    else (s.sendTree p (collFlit id 4 c.act 0 0 0 0 (BitVec.ofNat 1024 (reCount e + 2 ^ 32 * len)))).modColl id fun c =>
      { c with hdr := true, upSeq := 1 }
  let c := s.coll id
  let b := upBits e
  let all := c.outq ++ xs
  let final := decide (c.comb ≥ len)
  let cs := chunks (perFlit b) all.length all
  let ready := if final then cs else cs.filter fun x => x.length == perFlit b
  let rest := if final then [] else (cs.filter fun x => x.length != perFlit b).flatten
  let s := (ready.zip (upto ready.length)).foldl (fun s (ys, j) =>
    let (d, m) := packElems b ys
    s.sendTree p (collFlit id 4 c.act (c.upSeq + j) m 0 0 d)) s
  s.modColl id fun c => { c with outq := rest, upSeq := c.upSeq + ready.length }

/-- A ring root sends its module totals (R323). -/
def State.sendRing (s : State) (id : BitVec 6) (xs : List CElem) (first len : Nat) : State :=
  let e := s.redEnt id
  let c := s.coll id
  let b := upBits e
  let n := 512 / b
  let cs := chunks n xs.length xs
  (cs.zip (upto cs.length)).foldl (fun s (ys, j) =>
    let (d, m) := packElems b ys
    s.ringPut id (ringPayload (bits 0 512 d) c.act s.ctrl.modno 0 (first + n * j) ys.length (bits 0 2 m).toNat (reCount e) 0 len)) s

/-- The modules whose partials a ring root holds or knows of. -/
def Coll.ringKeys (c : Coll) : List Nat := (c.ringCnt.map fun x => 16 + x.1)

/-- Results of a ring root (R323): elements held from its own tree and from the other modules. -/
def State.ringResults (s : State) (id : BitVec 6) (len : Nat) : State :=
  let e := s.redEnt id
  let c := s.coll id
  if c.ringCnt.foldl (fun t x => t + x.2) (reCount e) > 2 ^ 20 then s.startAbort id 0xAB
  else if (c.heads.any fun h => decide (16 ≤ h.1) && h.2.2 != len) then s.startAbort id 0xA5
  else if c.ringCnt.length + 1 < reRmod e then s
  else
    let ks := 5 :: c.ringKeys
    let (xs, c) := c.combine e ks (c.fewest ks)
    (s.modColl id fun _ => c).formResults id xs len

/-- The switch combines what it holds (R319), and sends it up, round the ring, or down as results. -/
def State.collRun (s : State) (id : BitVec 6) : State :=
  let e := s.redEnt id
  let c := s.coll id
  if !c.active then s
  else match c.checked e with
  | none => s
  | some false => s.startAbort id 0xA5
  | some true =>
    let len := (c.roundLen e).getD 0
    let ks := redInputs e
    let n := c.fewest ks
    let (xs, c') := c.combine e ks n
    let first := c.comb
    let now := s.cycle
    let s := s.modColl id fun _ => { c' with comb := first + n, slots := c'.slots.map fun k => if k.2.isNone && decide (k.1 ≤ first + n) then (k.1, some now) else k }
    if rePar e ≠ 0 then (if xs.isEmpty then s else s.sendUp id xs len)
    else if reRing e then
      let s := s.modColl id fun c => { c with inq := SMap.set [] c.inq 5 (c.held 5 ++ xs) }
      (s.sendRing id xs first len).ringResults id len
    else s.formResults id xs len

/-! ### Contributions (R314-R316) -/

/-- Does a contribution hold its slot in a cycle? It returns to the allowance in the cycle after the switch has combined it (R312). -/
def slotHeld (now : Nat) (k : Nat × Option Nat) : Bool :=
  match k.2 with
  | none => true
  | some d => decide (now ≤ d)

/-- Slots of the allowance that are free in a cycle. -/
def Coll.freeSlots (c : Coll) (now : Nat) : Nat := c.nslot - (c.slots.filter (slotHeld now)).length

/-- Why a contribution of n elements is refused (R314): nothing, a discard, or a fault. -/
inductive Contrib where
  | take | discard | fault (code : Byte)
deriving DecidableEq, Repr

/-- Is id 63 the phase barrier's (R310)? -/
def State.barrierId (s : State) (id : BitVec 6) : Bool := id == 63 && s.t.sync.det

/-- The fate of a contribution (R310, R313, R314): `lane` for one from the lanes. -/
def State.contribution (s : State) (id : BitVec 6) (n : Nat) (lane : Bool) : Contrib :=
  let e := s.redEnt id
  let c := s.coll id
  if !reV e || !reL e then .fault 0xA0
  else if s.barrierId id then .fault 0xA1
  else if c.state == .aborted then .discard
  else if c.state != .opened || c.src == lane || c.cur + n > c.len then .fault 0xA2
  else if lane && c.freeSlots s.cycle = 0 then .fault 0xA2
  else .take

/-- Append elements at CUR (R314), and let the switch combine. -/
def State.contribute (s : State) (id : BitVec 6) (xs : List (CElem × Bool)) (lane : Bool) : State :=
  let now := s.cycle
  (s.modColl id fun c =>
    { c with
      cur := c.cur + xs.length, inq := SMap.set [] c.inq 0 (c.held 0 ++ xs.map fun x => x.1)
      malformed := c.malformed || xs.any fun x => x.2
      slots := c.slots.filter (slotHeld now) ++ (if lane then [(c.cur + xs.length, none)] else []) }).collRun id

/-- The elements of a lane contribution (R315): one that is off contributes the identity. -/
def laneElems (e : Word) (n : Nat) (on : Nat → Bool) (v : Src) : List (CElem × Bool) :=
  let f := redFmt (reIn e)
  let b := redBits f
  (upto n).map fun i =>
    if on (b * i / 8) then
      redElem (reOp e) f (nbits (b * i) b v.data.toNat)
        ((upto 4).any fun g => v.marks.getLsbD g && decide (b * i < 256 * (g + 1) ∧ 256 * g < b * (i + 1)))
    else (redIdentity (reOp e) f, false)

/-- COLLV (R315). -/
def execCollv (h : LHead) (d : VCode) (id : BitVec 6) (s : State) : Out :=
  .next (s.slot (
    let e := s.redEnt id
    let n := h.w.bits / redBits (redFmt (reIn e))
    if !reV e || !reL e then .error 0xA0
    else if n = 0 && (s.coll id).state != .aborted then .error 0xA2
    else do
      let on ← s.guard h.guard
      let (v, s) ← s.src d h.w fun b => on (elemByte (redBits (redFmt (reIn e))) b)
      match s.contribution id n true with
      | .fault c => throw c
      | .discard => pure s.escape
      | .take => pure (s.escape.contribute id (laneElems e n on v) true)))

/-- COLLQ (R315): 32 elements of FP32 or INT32. -/
def execCollq (h : LHead) (q : BitVec 2) (id : BitVec 6) (s : State) : Out :=
  .next (s.slot (
    let e := s.redEnt id
    let f := redFmt (reIn e)
    if !reV e || !reL e then .error 0xA0
    else if f != .f32 && f != .i32 && (s.coll id).state != .aborted then .error 0xA2
    else do
      let on ← s.guard h.guard
      let (v, k, s) ← s.popRq q
      match s.contribution id 32 true with
      | .fault c => throw c
      | .discard => pure s.escape
      | .take => pure (s.escape.contribute id (laneElems e 32 on { data := v, marks := k }) true)))

/-- The range of a COLLB (R316): its physical addresses; `none` is fault 0xA2. -/
def State.collbRange (s : State) (id : BitVec 6) (l : Word) (n : Nat) : Option (List Nat) :=
  let size := redBits (redFmt (reIn (s.redEnt id))) / 8
  if (s.localPlace l size).isSome && decide (locOff l + size * n ≤ (locBuf l).size) then
    some ((upto (size * n)).map fun i => s.t.buf.addr (locBuf l == .c) (locSide l) (locOff l + i))
  else none

/-- COLLB (R316): the control slice stalls until the switch has read the range. -/
def execCollb (id : BitVec 6) (xa xb : XReg) (s : State) : Out :=
  .next (s.reading (.collb id xa xb) [xa, xb] fun s =>
    if s.granted .collb then s.escape.useGrant .collb
    else
      let n := (s.x xb).toNat
      match s.contribution id n false with
      | .fault c => s.raise c
      | .discard => s.escape
      | .take =>
        if n = 0 || (s.collbRange id (s.x xa) n).isNone then s.raise 0xA2 else s.stall .collb (.collb id xa xb))

/-- Elements read from a buffer (R316): a poisoned word poisons the elements it holds. -/
def bufElems (e : Word) (bs : List (Byte × Bool)) : List (CElem × Bool) :=
  let f := redFmt (reIn e)
  let size := redBits f / 8
  (chunks size bs.length bs).map fun b => redElem (reOp e) f (valueOf b) (anyPoison b)

/-- COLLB_READ_COMPLETE (R316): the range has been read, the elements contributed, and the stall ends. -/
def execCollbReadComplete (s : State) : Out :=
  match s.onlyWait .collb with
  | some (.collb id xa xb) =>
    let n := (s.x xb).toNat
    let i : Instr := .collb id xa xb
    .next (match s.contribution id n false, s.collbRange id (s.x xa) n with
      | .take, some as =>
        let (bs, s) := s.readAt as
        (s.contribute id (bufElems (s.redEnt id) bs) false).grant .collb i 0
      | _, _ => s.grant .collb i 0)
  | _ => .next s

/-! ### COLLOPEN, COLLABT, COLLST (R313, R317) -/

/-- ROUND of a COLLOPEN. -/
def coRound (b : Word) : BitVec 16 := bits 48 16 b
/-- LEN. -/
def coLen (b : Word) : Nat := (bits 32 16 b).toNat
/-- DE. -/
def coDe (b : Word) : Bool := bit 31 b
/-- CWE. -/
def coCwe (b : Word) : Bool := bit 30 b
/-- SRC. -/
def coSrc (b : Word) : Bool := bit 29 b
/-- NSLOT. -/
def coSlots (b : Word) : Nat := (bits 20 9 b).toNat

/-- The checks of R313, in table order. -/
def State.openFault (s : State) (id : BitVec 6) (a b w : Word) : Option Byte :=
  let e := s.redEnt id
  let size := redBits (redFmt (reOut e)) / 8
  if !reV e || !reL e then some 0xA0
  else if s.barrierId id || (s.coll id).state == .opened || coLen b == 0 then some 0xA1
  else if (if coSrc b then coSlots b != 0 else coSlots b == 0 || decide (256 < coSlots b)) then some 0xA1
  else if bits 0 20 b != 0 then some 0xA1
  else if coDe b && ((s.localPlace a size).isNone || decide ((locBuf a).size < locOff a + size * coLen b)) then some 0xA1
  else if coCwe b && (s.localPlace w 8).isNone then some 0xA1
  else none

/-- COLLOPEN's three cases (R313); `none` while too few slots are free. The aborted completion word of an ended round is that round's,
its flags included. -/
def State.collOpen (s : State) (id : BitVec 6) (a b w : Word) : Option State :=
  let c := s.coll id
  let r := coRound b
  if c.lv && r == c.last && c.lastCode != 0 then
    let s := if coCwe b then s.putLocal w (complWord r c.lastCode.toNat 4 c.lastFlags.toNat) else s
    some (s.modColl id fun c => { c with state := .aborted, rnd := r })
  else if c.active && c.act != r then
    let s := (s.modColl id fun c => { c with successor := some r, state := .aborted, rnd := r }).startAbort id 0xA4
    some (if coCwe b then s.putLocal w (complWord r 0xA4 4 0) else s)
  else if s.t.red.store + coSlots b > 256 then none
  else
    let s := s.modRed fun x => { x with store := x.store + coSlots b }
    let s := s.modColl id fun c =>
      { c with
        state := .opened, rnd := r, len := coLen b, cur := 0, src := coSrc b, nslot := coSlots b, slots := [], de := coDe b
        dst := a, cwe := coCwe b, cwl := w, malformed := false }
    let s := if c.active then s else s.activate id r
    some (s.collRun id)

/-- The register after xB (R313: XB is even). -/
def oddReg (r : XReg) : XReg := r ||| 1

/-- COLLOPEN (R313); it escapes (15_sync_time_phases.md R434). -/
def execCollopen (id : BitVec 6) (xa xb : XReg) (s : State) : Out :=
  .next (s.reading (.collopen id xa xb) [xa, xb, oddReg xb] fun s =>
    if s.granted .collopen then s.escape.useGrant .collopen
    else match s.openFault id (s.x xa) (s.x xb) (s.x (oddReg xb)) with
      | some c => s.raise c
      | none => (s.escape.collOpen id (s.x xa) (s.x xb) (s.x (oddReg xb))).getD (s.stall .collopen (.collopen id xa xb)))

/-- COLLOPEN_RESERVE (R313): the stalled COLLOPEN reserves its slots and the round opens. -/
def execCollopenReserve (s : State) : Out :=
  match s.onlyWait .collopen with
  | some (.collopen id xa xb) =>
    .next (match s.collOpen id (s.x xa) (s.x xb) (s.x (oddReg xb)) with
      | none => s
      | some s' => s'.grant .collopen (.collopen id xa xb) 0)
  | _ => .next s

/-- COLLABT (R317). -/
def execCollabt (id : BitVec 6) (s : State) : Out :=
  .next (if !reV (s.redEnt id) then s.raise 0xA0
    else if s.barrierId id then s.raise 0xA1
    else if (s.coll id).state == .opened then s.escape.startAbort id 0xA8 else s.escape)

/-- The COLLST word (R317). -/
def State.collst (s : State) (id : BitVec 6) : Word :=
  let c := s.coll id
  let st := match c.state with
    | .idle => 0
    | .opened => 1
    | .aborted => 2
  BitVec.ofNat 64 ((if reV (s.redEnt id) then 2 ^ 63 else 0) + 2 ^ 61 * st + (if c.active then 2 ^ 60 else 0)
    + (if c.abp then 2 ^ 59 else 0) + 2 ^ 43 * c.rnd.toNat + 2 ^ 27 * c.cur + 2 ^ 11 * c.last.toNat
    + 4 * c.freeSlots s.cycle + (if c.lv then 2 else 0))

/-- COLLST (R317): legal on any id. -/
def execCollst (xd : XReg) (id : BitVec 6) (s : State) : Out := .next (s.setX xd (s.collst id))

end Sys2Proof.Machine
end

