-- ==== Sys2Proof/Machine/CollEvents.lean ====
section
/-!
DEFINITION. What arrives at a reduction switch: upward, result and abort flits, detour halves, ring flits, timers, and barrier flits
(11_exact_reduction.md R318-R331).
-/

namespace Sys2Proof.Machine

open Sys2Proof

/-! ### Tree flits -/

/-- The id of a tree flit. -/
def flitId (f : CollFlit) : BitVec 6 := f.idx.setWidth 6

/-- A numbered flit on the edge at a port (R318, R322; 10_fabric.md R283): the one expected is acted on, if its round is accepted, and
acknowledged; a copy of one already taken, or of the last round, is acknowledged again; any other is dropped, and comes again. -/
def State.inOrder (s : State) (port : Nat) (f : CollFlit) (k : State → State) : State :=
  let id := flitId f
  let c := s.coll id
  let here := c.active && c.act == f.rnd
  let x := if here then SMap.get 0 c.exp port else 0
  let d := (f.seq - BitVec.ofNat 15 x).toNat
  if !here && c.lv && f.rnd == c.last then s.ackTree port f f.seq
  else if d = 0 then
    let (ok, s) := s.accepts id f.rnd
    (if ok then k (s.modColl id fun c => { c with exp := SMap.set 0 c.exp port (x + 1) }) else s).ackTree port f f.seq
  else if d ≥ 2 ^ 14 then s.ackTree port f (BitVec.ofNat 15 (x - 1))
  else s

/-- A header or element flit from the child at a port (R319). The first flit of a child in a round is its header. -/
def State.upwardFlit (s : State) (port : Nat) (f : CollFlit) : State :=
  let id := flitId f
  let e := s.redEnt id
  if !reV e || !(reKids e).contains port then s
  else
    s.inOrder port f fun s =>
      match (s.coll id).heads.find? fun h => h.1 == port with
      | none =>
        (s.modColl id fun c =>
          { c with heads := c.heads ++ [(port, ((bits 0 32 f.payload).toNat, (bits 32 16 f.payload).toNat))] }).collRun id
      | some h =>
        let c := s.coll id
        let b := upBits e
        let n := min (perFlit b) (h.2.2 - (c.comb + (c.held (port + 1)).length))
        (s.modColl id fun c =>
          { c with inq := SMap.set [] c.inq (port + 1) (c.held (port + 1) ++ unpackElems b n f.payload f.psn) }).collRun id

/-- COLL_UPWARD_FLIT (R319). -/
def execCollUpwardFlit (port : BitVec 3) (f : CollFlit) (s : State) : Out := .next (s.upwardFlit port.toNat f)

/-- A result flit from the parent (R318, R320): it makes an idle entry active, is forwarded to every child, and is written locally. -/
def State.resultFlit (s : State) (f : CollFlit) : State :=
  let id := flitId f
  let e := s.redEnt id
  if !reV e || rePar e = 0 then s
  else
    s.inOrder (rePar e - 1) f fun s =>
      let s := (s.sendKids e f).modColl id fun c => { c with flags := c.flags ||| f.flags }
      let c := s.coll id
      match c.roundLen e with
      | some len =>
        let b := redBits (redFmt (reOut e))
        s.finishResults id (unpackElems b (min (perFlit b) (len - c.resDone)) f.payload f.psn) len
      | none => s

/-- COLL_RESULT_FLIT (R320). -/
def execCollResultFlit (f : CollFlit) (s : State) : Out := .next (s.resultFlit f)

/-- An ABORT on the edge at a port (R318, R324): it is acknowledged; the parent's decides the round, a child's starts an abort here. -/
def State.abortFlit (s : State) (port : Nat) (f : CollFlit) : State :=
  let id := flitId f
  let e := s.redEnt id
  if !reV e then s
  else
    let (ok, s) := (s.ackTree port f f.seq).accepts id f.rnd
    if !ok then s
    else if rePar e = port + 1 then s.abortTree id f.code
    else if (reKids e).contains port then s.startAbort id f.code
    else s

/-- COLL_ABORT_FLIT (R324). -/
def execCollAbortFlit (port : BitVec 3) (f : CollFlit) (s : State) : Out := .next (s.abortFlit port.toNat f)

/-! ### Barriers (R329, R330) -/

/-- PAR of a barrier entry. -/
def Barrier.par (b : Barrier) : Nat := (bits 28 3 b.ent).toNat

/-- The child ports of a barrier entry. -/
def Barrier.children (b : Barrier) : List Nat := (upto 4).filter fun p => bit (27 - p) b.ent

/-- Is a count of episodes ahead of another (both wrap)? -/
def epAhead (a b : BitVec 16) : Bool := decide (1 ≤ (a - b).toNat ∧ (a - b).toNat ≤ 32767)

/-- Has a child reported more episodes than some count (both wrap)? -/
def Barrier.reported (b : Barrier) (p : Nat) (e : BitVec 16) : Bool :=
  epAhead (SMap.get 0 b.kids p) e

/-- Is the episode that comes next complete at this switch (R330): its local part, and every child's report? -/
def Barrier.complete (b : Barrier) : Bool :=
  b.valid && decide (b.pend ≥ ((b.sent - b.done).toNat + 1) * b.count) && b.children.all fun p => b.reported p b.sent

/-- A barrier flit (R322, R330). -/
def barFlit (nb : BitVec 7) (e : BitVec 16) : CollFlit :=
  { typ := 7, idx := nb, gen := 0, rnd := e, seq := 0, psn := 0, code := 0, flags := 0, payload := 0 }

/-- Release the next episode here and at every child (R330). -/
def State.releaseBar (s : State) (nb : BitVec 7) : State :=
  let b := s.bar nb
  let s := s.setBar nb { b with done := b.done + 1, pend := b.pend - b.count }
  b.children.foldl (fun s p => s.sendTree p (barFlit nb b.done)) s

/-- Report or release what is complete at one barrier: at most two episodes are ahead (R331). -/
def State.barRun (s : State) (nb : BitVec 7) : Nat → State
  | 0 => s
  | n + 1 =>
    let b := s.bar nb
    if !b.complete then s
    else
      let s := s.setBar nb { b with sent := b.sent + 1 }
      (if b.par = 0 then s.releaseBar nb else s.sendTree (b.par - 1) (barFlit nb b.sent)).barRun nb n

/-- Every barrier of the tile reports what it has completed. -/
def State.barAll (s : State) : State := s.t.red.bars.foldl (fun s x => s.barRun (BitVec.ofNat 7 x.1) 3) s

/-- ARRIVED(e) from the child at a port (R330): acknowledged; it reports every episode up to e, and an older one changes nothing. -/
def State.arrivedFlit (s : State) (port : Nat) (f : CollFlit) : State :=
  let b := s.bar f.idx
  if !b.valid || !b.children.contains port then s
  else
    let s := s.ackTree port f 0
    if epAhead (f.rnd + 1) (SMap.get 0 b.kids port) then
      (s.setBar f.idx { b with kids := SMap.set 0 b.kids port (f.rnd + 1) }).barRun f.idx 3
    else s

/-- BARRIER_ARRIVED_FLIT (R330). -/
def execBarrierArrivedFlit (port : BitVec 3) (f : CollFlit) (s : State) : Out := .next (s.arrivedFlit port.toNat f)

/-- RELEASE(e) from the parent (R330): acknowledged; every episode up to e is released, and one already released changes nothing. -/
def State.releaseFlit (s : State) (f : CollFlit) : State :=
  let b := s.bar f.idx
  if !b.valid || b.par = 0 then s
  else
    let s := s.ackTree (b.par - 1) f 0
    if epAhead (f.rnd + 1) b.done then loopN (fun _ s => s.releaseBar f.idx) (f.rnd + 1 - b.done).toNat s else s

/-- BARRIER_RELEASE_FLIT (R330). -/
def execBarrierReleaseFlit (f : CollFlit) (s : State) : Out := .next (s.releaseFlit f)

/-! ### Any tree flit, and detours (R322) -/

/-- A flit on the tree edge at a port, by its type. -/
def State.treeFlit (s : State) (port : Nat) (f : CollFlit) : State :=
  match f.typ.toNat with
  | 4 => s.upwardFlit port f
  | 5 => s.resultFlit f
  | 6 => s.abortFlit port f
  | 7 => if (s.bar f.idx).par = port + 1 then s.releaseFlit f else s.arrivedFlit port f
  | _ => s

/-- The tree flit that two detour halves carry (R322). -/
def joinHalves (a b : DetourFlit) : CollFlit :=
  let w : Word := bits 512 64 b.payload
  { typ := bits 60 4 w, idx := bits 53 7 w, gen := bits 45 8 w, rnd := bits 29 16 w, seq := bits 14 15 w, psn := bits 10 4 w
    code := bits 0 8 w, flags := b.flags, payload := bits 0 512 b.payload ++ bits 0 512 a.payload }

/-- DETOUR_FLIT_ARRIVE (R322): the halves arrive in order, and the pair acts as if it had arrived on the edge. -/
def execDetourFlitArrive (port : BitVec 3) (f : DetourFlit) (s : State) : Out :=
  if !f.half then .next (s.modRed fun r => { r with halves := SMap.put r.halves port.toNat f })
  else match SMap.find? s.t.red.halves port.toNat with
    | none => .next s
    | some a =>
      .next ((s.modRed fun r => { r with halves := SMap.erase r.halves port.toNat }).treeFlit port.toNat (joinHalves a f))

/-! ### Rings (R323, R324) -/

/-- A ring flit whose KIND is not defined is discarded with event 0xAC (R323; 17_faults_repair.md R494). -/
def State.ringBad (s : State) (id : BitVec 6) (p : BitVec 1024) : State :=
  s.tileEvent 0xAC (id.setWidth 64) ((ringRound p).setWidth 64)

/-- RING_PARTIAL_ARRIVE (R323): forwarded, then held until every module's partial is. -/
def execRingPartialArrive (id : BitVec 6) (f : Flit) (s : State) : Out :=
  let e := s.redEnt id
  let p := f.payload
  if !reV e || !reRing e then .next s
  else if ringKind p > 1 then .next (s.ringBad id p)
  else if ringKind p = 1 then .next s
  else
    let s := s.ringForward id p
    let (ok, s) := s.accepts id (ringRound p)
    if !ok then .next s
    else
      let k := (ringOrig p).toNat
      let xs := unpackElems (upBits e) (ringNel p) p ((ringPsn p).setWidth 4)
      .next ((s.modColl id fun c =>
        { c with
          inq := SMap.set [] c.inq (16 + k) (c.held (16 + k) ++ xs)
          ringCnt := SMap.put c.ringCnt k (ringCnt p)
          heads := if c.heads.any (fun h => h.1 == 16 + k) then c.heads else c.heads ++ [(16 + k, (ringCnt p, ringLen p))] }).collRun id)

/-- RING_ABORT_ARRIVE (R324): forwarded, and the tree is aborted if its round is undecided. -/
def execRingAbortArrive (id : BitVec 6) (f : Flit) (s : State) : Out :=
  let e := s.redEnt id
  let p := f.payload
  if !reV e || !reRing e then .next s
  else if ringKind p > 1 then .next (s.ringBad id p)
  else if ringKind p = 0 then .next s
  else
    let s := s.ringForward id p
    let (ok, s) := s.accepts id (ringRound p)
    .next (if ok then s.abortTree id (ringCode p) else s)

/-! ### Timers (R324) -/

/-- Has a time come? -/
def dueBy (t : Option Nat) (now : Nat) : Bool :=
  match t with
  | some d => decide (d ≤ now)
  | none => false

/-- ROUND_TIMER_EXPIRE (R324): an abort with code 0xA7. -/
def execRoundTimerExpire (id : BitVec 6) (s : State) : Out :=
  let c := s.coll id
  if c.active && dueBy c.timer s.cycle then .next ((s.modColl id fun c => { c with timer := none }).startAbort id 0xA7)
  else .next s

/-- ROUND_GRACE_EXPIRE (R324): no decision came from the parent, so the entry aborts its own subtree with its own code. -/
def execRoundGraceExpire (id : BitVec 6) (s : State) : Out :=
  let c := s.coll id
  if c.active && dueBy c.grace s.cycle then .next (s.abortTree id c.abcode) else .next s

/-- Pre-emption and teardown end every active round at the tile with code 0xA6 and no upward step (R326). -/
def State.endRounds (s : State) : State :=
  s.t.red.colls.foldl (fun s x => if x.2.active then s.endRound (BitVec.ofNat 6 x.1) 0xA6 else s) s

end Sys2Proof.Machine
end

