-- ==== Sys2Proof/Machine/Phases.lean ====
section
/-!
DEFINITION. Phases: PHBEGIN, PHCOMMIT, PHCANCEL and the events that complete them (15_sync_time_phases.md R431-R440; 05_tile_buffers.md
R149, R150, R153), deterministic RAMOs at their home (10_fabric.md R302), and IFENCE (13_control_slice.md R373).
-/

namespace Sys2Proof.Machine

open Sys2Proof

/-! ### Opening a phase (R432, R433) -/

/-- The snapshot of the present tile (R432): the restart point is where the CPC stands. -/
def State.snapshot (s : State) : Snap :=
  let c := s.t.ctl
  let l := s.t.lane
  let m := s.t.mx
  { x := c.x, ret := c.ret, restart := c.cpc, off := c.off, q := l.q, p := l.p, pmark := l.pmark, st := l.st, rb := c.rb
    depth := c.depth, seed := l.seed, rn := l.rn, srow := m.srow, drow := m.drow, mrow := m.mrow, af := m.af, bf := m.bf
    spm := m.spm, sat := m.sat }

/-- The phase opens: the snapshot and the shadows are taken, ESC and RUN cleared (R432, R433). -/
def State.openPhase (s : State) : State :=
  let p := s.snapshot
  (s.modSync fun y => { y with inph := true, esc := false, run := 0, snap := some p, shadow := y.sem }).modCtl fun c =>
    { c with after := none }

/-- PHBEGIN's last act: the snapshot, or the wait for the lanes (R432). -/
def State.phbeginEnd (s : State) : State :=
  if s.lanesIdle then s.openPhase else s.modCtl fun c => { c with after := some .phbegin }

/-- PHBEGIN (R432): inside a phase fault 0x12; while a close by copy is outstanding it stalls (R436). Its snapshot is taken
after the other slots of its bundle. -/
def execPhbegin (s : State) : Out :=
  .next (if 0 < s.t.sync.pcp then s.stall .phclose .phbegin
    else if s.t.sync.inph then s.raise 0x12
    else if s.bun.active then s.later .phbegin else s.phbeginEnd)

/-- PHBEGIN_SNAPSHOT (R432): the lanes have drained. It waits for a handler to return. -/
def execPhbeginSnapshot (s : State) : Out :=
  .next (if s.t.ctl.after == some .phbegin && s.lanesIdle && !s.t.ctl.trap.hnd then s.openPhase else s)

/-! ### Committing a phase (R435, R436) -/

/-- One place of some bytes, at a displacement from a location. -/
def spot (l : Word) (d : Int) (n : Nat) : Span := { loc := l, count := 1, size := n, disp := fun _ => d }

/-- The strips and arrival words that a WHALO writes into its own tile, when it is its own neighbour (04_winch.md R115). -/
def State.haloSpans (s : State) (c : WCmd) : List Span :=
  (c.strips.filter fun p => s.regionNeighbour p.dir == s.here).flatMap fun p =>
    [{ loc := c.sbox.base, count := p.w * p.h, size := c.sbox.size
       disp := fun j => ((p.dx + j % p.w : Nat) : Int) * c.sbox.step 0 + ((p.dy + j / p.w : Nat) : Int) * c.sbox.step 1 },
     spot c.cwLoc p.word 8]

/-- What a command writes besides its payload's boxes: results, an atomic's target and its return word (04_winch.md R116, R118). -/
def WCmd.results (c : WCmd) : List Span :=
  match c.op with
  | .wcrc .. => [spot (c.arg 0) 0 8]
  | .wamo _ _ sz .. => [spot (c.arg 0) 0 (sizeBits sz / 8)]
  | .wamor _ _ sz .. => [spot (c.arg 0) 0 (sizeBits sz / 8), spot (c.arg 3) 0 8]
  | .requestPacketAmo _ => [spot (c.word 2) 0 8]
  | _ => []

/-- What completing a command writes: its completion word, its record, and for a packet the ring, the slot and the read index
(04_winch.md R96, R124). -/
def State.endSpans (s : State) (r : WRun) : List Span :=
  let c := r.cmd
  let o := c.info.o
  (if o.cw.isSome then [spot c.cwLoc 0 8] else []) ++ (if o.cr.isSome then [spot c.crLoc 0 16] else [])
    ++ (match s.ringOf c with
        | some g => [spot g.loc (16 * g.wp : Nat) 16]
        | none => [])
    ++ (match c.packet with
        | some n =>
          let q := s.t.winch.rqOf n.toNat
          let l : Word := if q.side then 1 <<< 59 else 0
          [spot l (q.base + 64 * (q.rd % 2 ^ q.lg) + 56 : Nat) 8, spot l (q.rix : Nat) 8]
        | none => [])

/-- Does a started command of this tile write inside a declared pair (R149), payload, result or completion? -/
def State.writesPair (s : State) (r : WRun) : Bool :=
  (r.cmd.dests ++ s.haloSpans r.cmd ++ r.cmd.results ++ s.endSpans r).any fun d =>
    s.isLocal d.loc && locBuf d.loc == .a
      && s.t.buf.pairs.any fun p => d.any fun o => decide (o < p.off + p.size ∧ p.off < o + d.size)

/-- Step 1 of R435; the tokens that the committing bundle itself has queued are not waited for. -/
def State.commitReady (s : State) : Bool :=
  s.t.ctl.blk.isNone && decide (s.t.ctl.hq.length ≤ s.bun.tok) && s.t.lane.pending.isEmpty && s.t.lane.sigs.isEmpty
    && s.t.mx.rows.isEmpty && s.t.mx.done.isEmpty && !(s.t.winch.running.any s.writesPair)

/-- Step 2 of R435: the digest does not match in verify mode. -/
def State.digestWrong (s : State) : Bool := s.t.sync.ver && s.t.sync.run != s.t.sync.expd

/-- Toggle a pair and replace its refill record (05_tile_buffers.md R149). -/
def Pair.commit (p : Pair) : Pair :=
  { p with f := !p.f, refill := if p.writes = 1 then p.only else none, writes := 0, only := none }

/-- Swap a weight region whose idle generation is READY (05_tile_buffers.md R153). -/
def WRegion.commit (r : WRegion) : WRegion := if r.ready then { r with gc := !r.gc, ready := false } else r

/-- Step 3 of R435, the commit point. -/
def State.commitPhase (s : State) : State :=
  (s.modBuf fun b => { b with pairs := b.pairs.map Pair.commit, wregs := b.wregs.map WRegion.commit }).modSync fun y =>
    { y with dig := y.dig + y.run, phn := y.phn + 1, inph := false, snap := none, shadow := [] }

/-- Step 4 of R435 in deterministic mode: the tile opens round PHN of id 63 and contributes 1 to it. -/
def State.joinBarrier (s : State) : State :=
  let r : BitVec 16 := s.t.sync.phn.setWidth 16
  let b : Word := (r.setWidth 64 <<< 48) ||| (1 <<< 32) ||| (1 <<< 29)
  let s := s.modSync fun y => { y with commit := .round }
  match s.collOpen 63 0 b 0 with
  | none => s
  | some s => if (s.coll 63).state == .opened then s.contribute 63 [({ v := 1, p := false }, false)] false else s

/-- A phase that runs alone again and whose digest matches lets the held tiles go on (17_faults_repair.md R475). -/
def State.endSerial (s : State) : State :=
  match s.region with
  | none => s
  | some r =>
    if r.serial == some s.here then
      (s.modRegion r.id fun r => { r with serial := none }).tileEvent 0xF4 (BitVec.ofNat 64 (r.index s.here)) 0
    else s

/-- Steps 3 and 4 of R435: a soft pre-emption takes effect after the last of them (16_launch.md R457). -/
def State.commitAll (s : State) : State :=
  let s := s.commitPhase.endSerial
  if s.t.sync.det then s.joinBarrier else s

/-- PHCOMMIT (R435): outside a phase fault 0x12, a digest mismatch fault 0x13; otherwise it commits, or stalls until it can. -/
def execPhcommit (s : State) : Out :=
  .next (match s.t.sync.commit with
    | .acked => s.modSync fun y => { y with commit := .none }
    | .none =>
      if 0 < s.t.sync.pcp then s.stall .phclose .phcommit
      else if !s.t.sync.inph then s.raise 0x12
      else if !s.commitReady then s.stall .phcommit .phcommit
      else if s.digestWrong then s.raise 0x13
      else if s.t.sync.det && s.bun.active then s.stall .phcommit .phcommit
      else if s.t.sync.det then s.commitAll.stall .phround .phcommit
      else s.commitAll.auto .phaseDone
    | _ => s.stall .phround .phcommit)

/-- The bundle that waits only for one thing issues again. -/
def State.retryControl (s : State) (w : Wait) : State :=
  if (s.onlyWait w).isSome then (s.modCtl fun c => { c with waits := [] }).soon (.control s.here) else s

/-- PHCOMMIT_COMMIT (R435): steps 2 to 4 once everything has drained. A mismatch is found by the bundle that issues again. -/
def execPhcommitCommit (s : State) : Out :=
  match s.onlyWait .phcommit with
  | none => .next s
  | some _ =>
    if !s.commitReady || s.t.sync.commit != .none then .next s
    else if !s.t.sync.inph || s.digestWrong then .next (s.retryControl .phcommit)
    else
      let s := s.commitAll
      if s.t.sync.det then .next (s.modCtl fun c => { c with waits := [(.phround, .phcommit)] })
      else .next (((s.modSync fun y => { y with commit := .acked }).retryControl .phcommit).auto .phaseDone)

/-! ### The phase barrier and deterministic RAMOs (R435 step 4; 10_fabric.md R302) -/

/-- Has the tile's phase-barrier round of this commit ended well? -/
def State.roundOver (s : State) : Bool :=
  let c := s.coll 63
  s.t.sync.commit == .round && c.state == .idle && !c.active && c.lv && c.last == s.t.sync.phn.setWidth 16

/-- The tiles of the present tile's region. -/
def State.regionTiles (s : State) : List Nat :=
  match s.region with
  | none => [s.here]
  | some r => r.tiles

/-- Is a deterministic request of phase n of the region still on its way to its home? -/
def State.detInFlight (s : State) (n : BitVec 32) : Bool :=
  let ts := s.regionTiles
  s.net.any fun p => match p.body with
    | .ramo r => r.det && r.phn == n && ts.contains r.src
    | _ => false

/-- The region's phase barrier for phase n is complete: some tile of it has seen that round end, and no request of the phase is on its
way. -/
def State.phaseOver (s : State) (n : BitVec 32) : Bool :=
  !s.detInFlight n && s.regionTiles.any fun t =>
    let s := { s with here := t }
    s.t.sync.phn == n + 1 && (s.roundOver || s.t.sync.commit == .applied)

/-- DET_RAMO_APPLY (10_fabric.md R302): when the phase barrier is complete, the home applies what it holds of that phase in logical tile
order. -/
def execDetRamoApply (s : State) : Out :=
  let rs := (s.t.fab.held.filter fun r => s.phaseOver r.phn).foldr insertHeld []
  .next (rs.foldl State.ramoDo (s.modFab fun f => { f with held := f.held.filter fun r => !s.phaseOver r.phn }))

/-- Every home of the region applies its held requests, before any tile begins the next phase. -/
def State.applyHomes (s : State) : State :=
  { s with agenda := ((s.regionTiles.filter fun t => !(s.tile t).fab.held.isEmpty).map fun t => Turn.auto t .detApply) ++ s.agenda }

/-- A close by copy is done, whatever came of it (R436): PCP stands while another is outstanding. -/
def State.closed (s : State) : State := s.modSync fun y => { y with closing := y.closing - 1, pcp := y.pcp - 1 }

/-- The commit is complete: PHCOMMIT's bundle issues, or a close by copy is done (R436). -/
def State.commitDone (s : State) : State :=
  if 0 < s.t.sync.closing then ((s.modSync fun y => { y with commit := .none }).closed).auto .phaseDone
  else ((s.modSync fun y => { y with commit := .acked }).retryControl .phround).auto .phaseDone

/-- PHASE_BARRIER_COMPLETE (R435): the round ends, the homes apply, and when every deterministic RAMO of the tile has written its
register the commit is complete. A round that was aborted is region error 0x15. -/
def execPhaseBarrierComplete (s : State) : Out :=
  match s.t.sync.commit with
  | .round =>
    if (s.coll 63).state == .aborted then
      .next ((if 0 < s.t.sync.closing then s.closed else s).modSync (fun y => { y with commit := .none }) |>.escalate
        { code := 0x15, arg := 0, slot := 15, async := false, lane := false, val := 0 })
    else if !s.roundOver || s.detInFlight (s.t.sync.phn - 1) then .next s
    else .next ((s.modSync fun y => { y with commit := .applied }).applyHomes)
  | .applied => if s.t.fab.ramos.any fun o => o.det && o.resp.isNone then .next s else .next s.commitDone
  | _ => .next s

/-- A close by copy (R436): steps 1 to 4 of R435 without stalling the control slice. A mismatch leaves the phase open and raises
an A-kind trap with code 0x13. DESIGN CHOICE (notes/assumptions/148.md): a copy of a phase under cancellation closes nothing. -/
def State.closePhase (s : State) : State :=
  let y := s.t.sync
  if y.closing = 0 || y.commit != .none then s
  else if !y.inph || y.canceling then s.closed
  else if !s.commitReady then s
  else if s.digestWrong then
    s.closed.trapEntry
      { code := 0x13, arg := 0, slot := 15, async := true, lane := false, val := 0 }
  else
    let s := s.commitAll
    if s.t.sync.det then s
    else s.closed.auto .phaseDone

/-! ### Cancelling a phase (R437, R438) -/

/-- PHCANCEL (R437): outside a phase fault 0x12. -/
def execPhcancel (s : State) : Out :=
  .next (if 0 < s.t.sync.pcp then s.stall .phclose .phcancel
    else if !s.t.sync.inph then s.raise 0x12
    else if s.bun.active then s.later .phcancel else s.startCancel)

/-- Step 1 of R438. -/
def State.cancelLanes (s : State) : State :=
  ((((s.modCtl fun c => { c with hq := [], blk := none, after := none }).landAll.flush).applyShapes).modMx fun m =>
    { m with rq := [], half := [] }).modLane fun l => { l with stop := false, replay := false }

/-- Step 2 of R438: what the phase issued and has not started is cancelled. -/
def State.cancelQueued (s : State) : State :=
  (s.t.winch.queued.filter fun c => c.inPhase).foldl State.cancelStart s

/-- Steps 2 and 3 of R438 once the started commands are done: the record of fill writes is empty, and held deterministic RAMOs are
withdrawn from their homes. -/
def State.withdraw (s : State) : State :=
  let me := s.here
  let s := s.modBuf fun b => { b with pairs := b.pairs.map fun p => { p with writes := 0, only := none } }
  let s := { s with net := s.net.filter fun p => match p.body with
    | .ramo r => !(r.det && r.src == me)
    | _ => true }
  let s := s.regionTiles.foldl (fun s t =>
    if (s.tile t).fab.held.any (fun r => r.src == me) then
      s.atTile t fun s => s.modFab fun f => { f with held := f.held.filter fun r => r.src != me }
    else s) s
  s.modFab fun f => { f with
    naked := f.naked.filter fun n => match n.body with
      | .ramo r => !r.det
      | _ => true
    ramos := f.ramos.filter fun o => !o.det }

/-- Does the work half of a pair hold a poisoned word (R438 step 4)? The work half is the logical port side. -/
def Buf.workFoul (b : Buf) (p : Pair) : Bool :=
  let lo := BufId.base .a p.f + p.off
  b.poison.any fun e => e.2 && decide (lo ≤ 8 * e.1 ∧ 8 * e.1 < lo + p.size)

/-- The head of a command with no waits and no signal. -/
def plainHead : WHead := { wsem := 0, wth := 0, ssem := 0, sinc := 0, q := 0, ord := false }

/-- Reissue a refill record into the work half (05_tile_buffers.md R150): the recorded destination, the SIDE of its codes and of
an HB4 box's scale bytes now the port side. -/
def State.refillPair (s : State) (r : Refill) : State :=
  let port (l : Word) : Word := setBits 59 1 l 0
  let dst := match r.dst with
    | [base, e, s0, s2, attr, sbase] => [port base, e, s0, s2, attr, if (boxOf r.dst).hb4 then port sbase else sbase]
    | d => d
  s.modWinch fun w =>
    { w with
      nextId := w.nextId + 1
      running := w.running ++ [freshRun
        { id := w.nextId, q := 0, op := .wcopy plainHead 0 0 noOpts none false 0, vals := [0, 0, 0], src := r.src, dst := dst
          inPhase := false, packet := none, refill := true }] }

/-- Step 5 of R438: the snapshot, the semaphores and the restart. A WID delivered to a bundle that has not issued stays for the next ACCEPT
(13_control_slice.md R369). -/
def State.restoreSnap (s : State) : State :=
  match s.t.sync.snap with
  | none => s
  | some p =>
    let s := s.rotate p.rb p.depth
    let s := s.modCtl fun c =>
      { c with
        x := p.x, ret := p.ret, cpc := p.restart, off := p.off, xbad := 0, xpois := 0, waits := []
        granted := c.granted.filter fun g => g.1 == .accept }
    let s := s.modLane fun l => { l with q := p.q, p := p.p, pmark := p.pmark, st := p.st, seed := p.seed, rn := p.rn }
    let s := s.modMx fun m =>
      { m with srow := p.srow, drow := p.drow, mrow := p.mrow, af := p.af, bf := p.bf, spm := p.spm, sat := p.sat }
    s.modSync fun y =>
      { y with
        sem := y.shadow, run := 0, cnc := inc16 y.cnc, esc := false, canceling := false, refilling := false }

/-- Step 4 of R438: refill what is poisoned, once; a pair that cannot be refilled is region error 0x14. -/
def State.refillAll (s : State) : State :=
  let foul := s.t.buf.pairs.filter fun p => s.t.buf.workFoul p
  if foul.isEmpty then s.restoreSnap
  else if foul.any fun p => p.refill.isNone then
    (s.modSync fun y => { y with canceling := false }).escalate
      { code := 0x14, arg := 0, slot := 15, async := false, lane := false, val := 0 }
  else
    (foul.foldl (fun s p => match p.refill with
      | some r => s.refillPair r
      | none => s) s).modSync fun y => { y with refilling := true }

/-- PHASE_CANCEL (R438): its steps in order, waiting for started commands and then for the refills. -/
def execPhaseCancel (s : State) : Out :=
  if !s.t.sync.canceling then .next s
  else if s.t.sync.refilling then
    if s.t.winch.running.any fun r => r.cmd.refill then .next s else .next s.restoreSnap
  else
    let s := s.cancelLanes.cancelQueued
    if s.t.winch.running.any fun r => r.cmd.inPhase then .next s else .next s.withdraw.refillAll

/-! ### IFENCE (13_control_slice.md R373) -/

/-- Does a command write the I-store of its own tile? -/
def State.writesI (s : State) (c : WCmd) : Bool :=
  match c.dest with
  | none => false
  | some d => s.isLocal d.loc && locBuf d.loc == .i

/-- Have the earlier I-store writes completed? -/
def State.iStoreQuiet (s : State) : Bool :=
  !(s.t.winch.queued.any s.writesI) && !(s.t.winch.running.any fun r => s.writesI r.cmd)

/-- Is a started command writing into an I-store bank? -/
def State.bankWriting (s : State) (upper : Bool) : Bool :=
  s.t.winch.running.any fun r => s.writesI r.cmd && (match r.cmd.dest with
    | none => false
    | some d => d.any fun o => decide (32768 ≤ o) == upper)

/-- Set the FV bit of every bank into which no Winch write is running. -/
def State.showBanks (s : State) : State :=
  s.modCtl fun c => { c with fv0 := c.fv0 || !s.bankWriting false, fv1 := c.fv1 || !s.bankWriting true }

/-- IFENCE (13_control_slice.md R373). -/
def execIfence (s : State) : Out :=
  .next (if s.granted .ifence then s.useGrant .ifence
    else if s.iStoreQuiet then s.showBanks else s.stall .ifence .ifence)

/-- IFENCE_COMPLETE (13_control_slice.md R373). -/
def execIfenceComplete (s : State) : Out :=
  match s.onlyWait .ifence with
  | none => .next s
  | some _ => if s.iStoreQuiet then .next (s.showBanks.grant .ifence .ifence 0) else .next s

end Sys2Proof.Machine
end

