-- ==== Sys2Proof/Machine/Optical.lean ====
section
/-!
DEFINITION. The optical ports: flits, acknowledgement and replay, records, reefing and unreefing, training and loss
(12_leaving_module.md R333-R344).
-/

namespace Sys2Proof.Machine

open Sys2Proof

/-! ### Flits (R334) -/

/-- One bit of the CRC-24. -/
def crc24Bit (c : BitVec 24) (b : Bool) : BitVec 24 :=
  if c.getLsbD 23 != b then (c <<< 1) ^^^ 0x5D6DCB else c <<< 1

/-- The n bits of a value, the highest first. -/
def bitsDown (n : Nat) (v : Nat) : List Bool := (upto n).map fun i => v.testBit (n - 1 - i)

/-- The CRC-24 of header bits [63:24] and the payload bytes, each taken from its highest bit. -/
def crc24 (hdr : BitVec 64) (payload : BitVec 512) : BitVec 24 :=
  (bitsDown 40 (hdr.toNat / 2 ^ 24) ++ (upto 64).flatMap fun j => bitsDown 8 (nbits (8 * j) 8 payload.toNat)).foldl crc24Bit 0xFFFFFF

/-- TYPE. -/
def optTyp (f : OptFlit) : Nat := (bits 60 4 f.hdr).toNat
/-- SEQ. -/
def optSeq (f : OptFlit) : Nat := (bits 44 16 f.hdr).toNat
/-- ACK. -/
def optAck (f : OptFlit) : Nat := (bits 28 16 f.hdr).toNat
/-- Byte j of the payload. -/
def optByte (f : OptFlit) (j : Nat) : Byte := bits (8 * j) 8 f.payload

/-- A flit to act on: its CRC is good, its TYPE is defined and bits [27:24] are zero. -/
def optGood (f : OptFlit) : Bool :=
  bits 0 24 f.hdr == crc24 f.hdr f.payload && decide (optTyp f ≤ 6) && bits 24 4 f.hdr == 0

/-- A flit with its CRC. -/
def mkOpt (typ seq ack : Nat) (payload : BitVec 512) : OptFlit :=
  let h : BitVec 64 := BitVec.ofNat 64 (2 ^ 60 * typ + 2 ^ 44 * seq + 2 ^ 28 * ack)
  { hdr := h ||| (crc24 h payload).setWidth 64, payload := payload }

/-! ### Beats (R335) -/

/-- The 576 bits of a flit, its header above its payload (R334). -/
def optBits (f : OptFlit) : BitVec 576 := f.hdr ++ f.payload

/-- The 16 beats of a flit, 36 bits each. -/
def optBeats (f : OptFlit) : List (BitVec 36) := (upto 16).map fun k => bits (36 * k) 36 (optBits f)

/-- The flit that 16 beats make. -/
def joinBeats (bs : List (BitVec 36)) : OptFlit :=
  let v : BitVec 576 := (bs.zip (upto bs.length)).foldl (fun v (b, k) => v ||| (b.setWidth 576 <<< (36 * k))) 0
  { hdr := bits 512 64 v, payload := bits 0 512 v }

/-- The wavelengths of a set of laser groups in increasing index (R333): group g feeds 4g to 4g + 3. -/
def lambdaList (g : BitVec 4) : List Nat := (upto 16).filter fun l => g.getLsbD (l / 4)

/-- The wavelength of a beat: position B mod n of the lit wavelengths. -/
def beatLambda (g : BitVec 4) (b : Nat) : Nat := (lambdaList g).getD (b % (lambdaList g).length) 0

/-- A flit on its wavelengths, as the first of its beats stands in the count. -/
def onWire (g : BitVec 4) (b : Nat) (f : OptFlit) : List (Nat × BitVec 36) :=
  ((optBeats f).zip (upto 16)).map fun x => (beatLambda g (b + x.2), x.1)

/-! ### The port (R337, R338) -/

/-- A port that has just trained: it has sent its own module and port number, all groups are lit, and numbers start from 0 (R333). -/
def Port.fresh (own peer : BitVec 12 × Nat) (now : Nat) : Port :=
  { peer := some peer, up := true, training := false, trainDue := 0, announced := some own, groupsOut := 15, groupsIn := 15, light := 15
    litSince := (upto 4).map fun g => (g, now), beat := 0, rxBeat := 0, wire := [], nextSeq := 0, oldest := 0, expect := 0, replay := []
    restarts := 0, discard := false, hold := 0, idleDue := now + 240, reef := none, reefDue := none, reefEnd := none, reefGroups := 0
    reefNamed := 0, unreef := false, unreefGroups := 0, stream := [], out := [], records := [], sent := [], turn := 1 }

/-- Replace a port. -/
def State.putPort (s : State) (n : Nat) (p : Port) : State := { s with ports := SMap.put s.ports n p }

/-- Act on a port that has been paired. -/
def State.onPort (s : State) (n : Nat) (k : Port → State) : State :=
  match SMap.find? s.ports n with
  | none => s
  | some p => k p

/-- Send a flit: every flit carries ACK, the last number received in order, and its 16 beats go on the lit wavelengths (R335). An IDLE
puts off the next one (R337). -/
def Port.emit (p : Port) (now typ seq : Nat) (payload : BitVec 512) : Port :=
  let f := mkOpt typ seq ((p.expect + 65535) % 65536) payload
  { p with
    out := p.out ++ [f], wire := onWire p.groupsOut p.beat f, beat := p.beat + 16
    idleDue := if typ = 0 then now + 240 else p.idleDue }

/-- Send DATA again or for the first time. -/
def Port.emitData (p : Port) (now seq : Nat) (payload : BitVec 512) : Port := p.emit now 1 seq payload

/-- Take an ACK (R337, R338): what it covers leaves the replay buffer, and the records of three flits each that are covered whole. -/
def Port.takeAck (p : Port) (a : Nat) : Port :=
  let n := (a + 1 + 65536 - p.oldest) % 65536
  if 1 ≤ n ∧ n ≤ p.replay.length then
    { p with
      oldest := (a + 1) % 65536, replay := p.replay.drop n, restarts := 0
      sent := p.sent.drop (p.sent.length - (p.replay.length - n + 2) / 3) }
  else p

/-- Restart the stream from a number, never from below ACK (R338): every DATA flit from there on is sent again. -/
def Port.restart (p : Port) (now n : Nat) : Port :=
  let k := (n + 65536 - p.oldest) % 65536
  let k := if k ≤ p.replay.length then k else 0
  let again := p.replay.drop k
  let p := again.foldl (fun p x => p.emitData now (optSeq x.1) x.1.payload) p
  { p with replay := p.replay.take k ++ again.map fun x => (x.1, now) }

/-- 64 bytes of a payload, zero beyond the bytes given. -/
def optPayload (b : Bytes) : BitVec 512 := BitVec.ofNat 512 (ofBytes (b.take 64))

/-- One new DATA flit. -/
def Port.sendData (p : Port) (now : Nat) (b : Bytes) : Port :=
  let q := p.emitData now p.nextSeq (optPayload b)
  { q with nextSeq := (p.nextSeq + 1) % 65536, replay := p.replay ++ [(mkOpt 1 p.nextSeq 0 (optPayload b), now)] }

/-- The class of a record. -/
def PortRec.cls (r : PortRec) : Nat := (r.bytes.getD 1 0).toNat % 16

/-- Of the records that wait, the one a port sends next (R340; 10_fabric.md R278): the oldest that has waited 256 cycles, else one of the
highest class, and of those the first that came by the tile that did not have the last turn (R336). -/
def nextRecord (now turn : Nat) (rs : List PortRec) : Option PortRec :=
  match rs.find? fun r => decide (r.since + 256 ≤ now) with
  | some r => some r
  | none =>
    let best := rs.foldl (fun m r => min m r.cls) 16
    match rs.find? fun r => r.cls == best && r.lane != turn with
    | some r => some r
    | none => rs.find? fun r => r.cls == best

/-- One record in three flits of its own. -/
def Port.sendRecord (p : Port) (now : Nat) (r : PortRec) : Port :=
  let q := { p with records := p.records.erase r, sent := p.sent ++ [r], turn := r.lane }
  ((q.sendData now r.bytes).sendData now (r.bytes.drop 64)).sendData now (r.bytes.drop 128)

/-- Send the records that wait, as far as the limit of 16384 unacknowledged flits allows (R337, R340). -/
def Port.drain (p : Port) (now : Nat) : Nat → Port
  | 0 => p
  | n + 1 =>
    if !p.up || p.training || decide (p.replay.length + 3 > 16384) then p
    else match nextRecord now p.turn p.records with
      | none => p
      | some r => (p.sendRecord now r).drain now n

/-- Ask once for the expected number (R337). -/
def Port.askReplay (p : Port) (now : Nat) : Port :=
  if now < p.hold then p
  else { p.emit now 2 0 (BitVec.ofNat 512 p.expect) with hold := now + 2400 }

/-- Wavelengths lit in a set of groups. -/
def lambdas (g : BitVec 4) : Nat := 4 * popcN 4 g.toNat

/-- An event of a port (R349, R351). -/
def State.portEvent (s : State) (n : Nat) (code : Byte) (a0 a1 : Nat) : State :=
  s.moduleEvent code 1 (BitVec.ofNat 16 n) (BitVec.ofNat 64 a0) (BitVec.ofNat 64 a1)

/-! ### Records (R339) -/

/-- The sideband of a channel flit (10_fabric.md R279). -/
def flitWord (f : Flit) : Word :=
  BitVec.ofNat 64 (2 ^ 60 * f.typ.toNat + 2 ^ 53 * f.dx.toNat + 2 ^ 46 * f.dy.toNat + 2 ^ 38 * f.gen.toNat + 2 ^ 22 * f.seq.toNat
    + 2 ^ 14 * f.dch.toNat + 2 ^ 10 * f.psn.toNat + 2 ^ 8 * f.wid.toNat + f.sem.toNat)

/-- A channel flit from its sideband and payload (10_fabric.md R279). -/
def flitOf (w : Word) (pl : BitVec 1024) : Flit :=
  { typ := bits 60 4 w, dx := bits 53 7 w, dy := bits 46 7 w, gen := bits 38 8 w, seq := bits 22 16 w, dch := bits 14 8 w
    psn := bits 10 4 w, wid := bits 8 2 w, sem := bits 0 8 w, payload := pl }

/-- The 144 bytes of a record. -/
def recordBytes (cls : Nat) (orig dest : BitVec 12) (sb : Word) (pl : BitVec 1024) : Bytes :=
  toBytes 8 (1 + 2 ^ 8 * cls + 2 ^ 12 * orig.toNat + 2 ^ 24 * dest.toNat) ++ toBytes 8 sb.toNat ++ toBytes 128 pl.toNat

/-! ### Ports down (R341, R343) -/

/-- Break the channels whose peer has no live port left (R341). -/
def State.breakPeers (s : State) (m : BitVec 12) : State :=
  if !(s.portsTo m).isEmpty then s
  else
    (s.ctrl.regions.flatMap fun r => if r.live then r.tiles else []).foldl (fun s t =>
      s.atTile t fun s =>
        (s.t.fab.route.filter fun e => chV e.2 && chGw e.2 && chMod e.2 == m).foldl (fun s e => s.breakChan (BitVec.ofNat 8 e.1)) s) s

/-- End a command of the present tile that waits for a response: code 0xC5 (R343). -/
def State.failAccess (s : State) (r : WRun) : State := s.failRun { r with hold := .free } (plainFault 0xC5 0)

/-- A record is dropped with its port (R343): the Winch command whose request it holds ends. -/
def State.recordLost (s : State) (src : Nat) : Body → State
  | .winch q =>
    s.atTile src fun s =>
      match s.t.winch.running.find? fun r => r.cmd.id == q.cmd && r.hold == .resp && 8 * r.idx + r.sub == q.elem with
      | some r => s.failAccess r
      | none => s
  | _ => s

/-- A response that the peer's end of a port held is dropped with it: which commands waited for one is the peer's, a free choice for each
command of the present tile that waits for that module (R343; DEDUCED, notes/assumptions/141.md). -/
def State.responsesLost (s : State) (m : BitVec 12) : State :=
  s.t.winch.running.foldl (fun s r =>
    match r.hold, s.accessOf r with
    | .resp, some (p, _) =>
      match p.home with
      | .gate ch =>
        if chMod (s.chEnt ch) == m then
          let (lost, s) := s.coin
          if lost then s.failAccess r else s
        else s
      | _ => s
    | _, _ => s) s

/-- A port out of service, its records and its numbers with it. -/
def Port.closed (p : Port) : Port :=
  { p with
    up := false, training := false, discard := false, reef := none, reefDue := none, reefEnd := none, reefGroups := 0, reefNamed := 0
    unreef := false, unreefGroups := 0, stream := [], replay := [], records := [], sent := [], restarts := 0 }

/-- A port leaves service (R343): the commands whose records it held end, an UNREEF of it ends in error, and the channels of a peer with no
other port are broken. -/
def State.closePort (s : State) (n : Nat) (p : Port) : State :=
  let s := (s.putPort n p.closed).finish (fun d => d.opc == 0x04 && d.id == n) true 0
  let s := (p.sent ++ p.records).foldl (fun s r => s.recordLost r.src r.body) s
  match p.peer with
  | none => s
  | some (m, _) => (s.tiles.foldl (fun s x => s.atTile x.1 fun s => s.responsesLost m) s).breakPeers m

/-- A port goes down (R343), with event 0xC1 and the count of the records dropped. -/
def State.portDown (s : State) (n : Nat) (cause : Byte) : State :=
  s.onPort n fun p =>
    if !p.up && !p.training then s
    else (s.closePort n p).portEvent n 0xC1 (n + 256 * cause.toNat) (p.records.length + p.sent.length)

/-! ### Records in and out (R339, R340) -/

/-- A packet reaches its port by a tile of the port and takes its place in the stream (R340); at a port that is down its record is
dropped, as those the port held were (R343). -/
def State.toPort (s : State) (n t cls src : Nat) (b : Body) : State :=
  match SMap.find? s.ports n with
  | none => s.recordLost src b
  | some p =>
    match p.peer, p.up || p.training with
    | some (m, _), true =>
      let (sb, pl) : Word × BitVec 1024 := match b with
        | .flit f => (flitWord f, f.payload)
        | _ => Config.encodeRecord src cls b
      let lane := if (portTiles n).getD 1 0 == s.home t then 1 else 0
      let r : PortRec := { bytes := recordBytes cls s.ctrl.modno m sb pl, lane := lane, since := s.cycle, src := src, body := b }
      let q := { p with records := p.records ++ [r] }
      s.putPort n (q.drain s.cycle q.records.length)
    | _, _ => s.recordLost src b

/-- The tile of this module that a gateway flit from a module is for (10_fabric.md R280, R282): in a region of a launch with that
module, the position it names, where the channel it names is a gateway from there. -/
def State.gatewayTile (s : State) (m : BitVec 12) (f : Flit) : Option Nat :=
  s.ctrl.regions.findSome? fun r =>
    let t := 84 * (r.py + f.dy.toNat) + (r.px + f.dx.toNat)
    let e := SMap.get 0 (s.tile t).fab.route f.dch.toNat
    if r.live && r.mods.contains m && decide (f.dx.toNat < r.wd ∧ f.dy.toNat < r.ht) && chV e && chGw e && chRecv e && chMod e == m
    then some t else none

/-- A packet enters the fabric at a port's tile. -/
def State.inject (s : State) (n t : Nat) (b : Body) : State := s.atTile (s.portTile n) fun s => s.send t b

/-- A complete record (R339): checked, and delivered to the receiving switch. -/
def State.recordIn (s : State) (n : Nat) (r : Bytes) : State :=
  let w : Word := BitVec.ofNat 64 (leAt 0 8 r)
  let sb : Word := BitVec.ofNat 64 (leAt 8 8 r)
  let pl : BitVec 1024 := BitVec.ofNat 1024 (leAt 16 128 r)
  let cls := (bits 8 4 w).toNat
  if cls < 2 || 9 < cls || bits 24 12 w != s.ctrl.modno || bits 36 28 w != 0 then s.portEvent n 0xC2 n w.toNat
  else if cls ≥ 8 then
    let f := flitOf sb pl
    match s.gatewayTile (bits 12 12 w) f with
    | some t => s.inject n t (.flit f)
    | none => s
  else match Config.decodeRecord sb pl with
    | some (t, b) => if t < tileCount then s.inject n t b else s
    | none => s

/-- The bytes of an accepted DATA flit join the stream (R339): complete records are delivered; a KIND of 0 pads the rest of the
flit, another one discards it with event 0xC2. -/
def State.streamIn (s : State) (n : Nat) : Nat → Bytes → State
  | 0, _ => s
  | k + 1, b =>
    s.onPort n fun p =>
      match b with
      | [] => s
      | x :: _ =>
        if p.stream.isEmpty && x == 0 then s
        else if p.stream.isEmpty && x != 1 then s.portEvent n 0xC2 n (leAt 0 8 b)
        else
          let need := 144 - p.stream.length
          let got := p.stream ++ b.take need
          if got.length < 144 then s.putPort n { p with stream := got }
          else ((s.putPort n { p with stream := [] }).recordIn n got).streamIn n k (b.drop need)

/-! ### Arrivals (R337, R338) -/

/-- An arriving flit that must be discarded as a CRC error: one REPLAY asks again. -/
def State.badFlit (s : State) (n : Nat) (p : Port) : State :=
  s.putPort n (if p.discard then p else p.askReplay s.cycle)

/-- Act on a flit of a type, whose beats the receiver counts (R335): a bad one is a CRC error, and every good one carries an ACK, which
frees room for the records that wait. -/
def State.optical (s : State) (n : Nat) (f : OptFlit) (typ : Nat) (k : Port → State → State) : State :=
  s.onPort n fun p =>
    let p := { p with rxBeat := p.rxBeat + 16 }
    if !p.up then s
    else if !optGood f then s.badFlit n p
    else if optTyp f != typ then s
    else
      let q := p.takeAck (optAck f)
      let q := q.drain s.cycle q.records.length
      k q (s.putPort n q)

/-- OPTICAL_DATA_FLIT (R337, R339). -/
def execOpticalDataFlit (port : Nat) (f : OptFlit) (s : State) : Out :=
  .next (s.optical port f 1 fun p s =>
    let d := (optSeq f + 65536 - p.expect) % 65536
    if p.discard then s
    else if d = 0 then
      (s.putPort port { p with expect := (p.expect + 1) % 65536, hold := 0 }).streamIn port 3
        ((upto 64).map fun j => optByte f j)
    else if 32768 ≤ d then s
    else s.putPort port (p.askReplay s.cycle))

/-- OPTICAL_IDLE_FLIT (R337): it delivers its ACK. -/
def execOpticalIdleFlit (port : Nat) (f : OptFlit) (s : State) : Out := .next (s.optical port f 0 fun _ s => s)

/-- IDLE_SEND_TIMER (R337). -/
def execIdleSendTimer (port : Nat) (s : State) : Out :=
  .next (s.onPort port fun p =>
    if p.up && decide (p.idleDue ≤ s.cycle) then s.putPort port (p.emit s.cycle 0 0 0) else s)

/-- OPTICAL_REPLAY_FLIT (R338). -/
def execOpticalReplayFlit (port : Nat) (f : OptFlit) (s : State) : Out :=
  .next (s.optical port f 2 fun p s => s.putPort port (p.restart s.cycle (nbits 0 16 f.payload.toNat)))

/-- REPLAY_AGE_TIMEOUT (R338): the oldest unacknowledged flit is 20 µs old; the third restart without progress retrains the port
with event 0xC4. -/
def execReplayAgeTimeout (port : Nat) (s : State) : Out :=
  .next (s.onPort port fun p =>
    match p.replay with
    | [] => s
    | x :: _ =>
      if !p.up || p.training || decide (s.cycle < x.2 + 24000) then s
      else
        let q := { p.restart s.cycle p.oldest with restarts := p.restarts + 1 }
        if q.restarts < 3 then s.putPort port q
        else (s.putPort port { q with training := true, trainDue := s.cycle + 1200000 }).portEvent port 0xC4 port q.restarts)

/-- RETRAIN_TIMEOUT (R338): a port that has not trained within 1 ms goes down. -/
def execRetrainTimeout (port : Nat) (s : State) : Out :=
  .next (s.onPort port fun p => if p.training && decide (p.trainDue ≤ s.cycle) then s.portDown port 0xC4 else s)

/-- May a port train with a peer's port: one of its tiles is live (01_module.md R22), and no other port that is up has that peer (R333)? -/
def State.mayTrain (s : State) (port : Nat) (peer : BitVec 12 × Nat) : Bool :=
  decide (port < 24) && (portTiles port).any s.tileLive
    && !(s.ports.any fun e => e.1 != port && (e.2.up || e.2.training) && e.2.peer == some peer)

/-- PORT_TRAINING (R333): the port sends its module and port number, and the controller records its peer. A retrained port keeps its
numbers and its replay buffer (R338); one that is paired anew leaves its old peer (R341, R343). -/
def execPortTraining (port : Nat) (pmod : BitVec 12) (pport : Nat) (s : State) : Out :=
  if !s.mayTrain port (pmod, pport) then .next s
  else
    let fresh := Port.fresh (s.ctrl.modno, port) (pmod, pport) s.cycle
    match SMap.find? s.ports port with
    | none => .next (s.putPort port fresh)
    | some p =>
      if p.training && p.peer == some (pmod, pport) then
        .next (s.putPort port ({ p with training := false, up := true, restarts := 0 }.restart s.cycle p.oldest))
      else
        let s := if p.up || p.training then s.closePort port p else s
        .next (s.putPort port fresh)

/-! ### Reefing (R342) -/

/-- The payload of a REEF: the groups lost and the expected number. -/
def reefPayload (g : BitVec 4) (expect : Nat) : BitVec 512 := BitVec.ofNat 512 (g.toNat + 65536 * expect)

/-- LIGHT_LOSS (R342): the receiver discards DATA and sends REEF; a further group joins a reef under way; with the last group the
port goes down. -/
def execLightLoss (port : Nat) (group : BitVec 2) (s : State) : Out :=
  .next (s.onPort port fun p =>
    let g : BitVec 4 := 1 <<< group.toNat
    let p := { p with light := p.light &&& ~~~g, litSince := p.litSince.filter fun x => x.1 != group.toNat }
    let s := s.putPort port p
    if !p.up || p.groupsIn &&& g == 0 then s
    else
      let lost := p.reefGroups ||| g
      if p.groupsIn &&& ~~~lost == 0 then s.portDown port 0xC0
      else match p.reef with
        | some _ => s.putPort port { p with reefGroups := lost }
        | none =>
          s.putPort port
            { p.emit s.cycle 3 0 (reefPayload lost p.expect) with
              discard := true, reef := some p.expect, reefGroups := lost, reefNamed := lost, reefDue := some (s.cycle + 1200)
              reefEnd := some (s.cycle + 12000) })

/-- LIGHT_RESTORE (R344): light returns on a group. -/
def execLightRestore (port : Nat) (group : BitVec 2) (s : State) : Out :=
  .next (s.onPort port fun p =>
    if p.light.getLsbD group.toNat then s
    else s.putPort port { p with light := p.light ||| (1 <<< group.toNat), litSince := p.litSince ++ [(group.toNat, s.cycle)] })

/-- REEF_FLIT (R342 step 2): the sender removes the groups, counts its beats from 0, sends REEFACK and restarts from the number
named. A REEF that names only removed groups is answered in the same way. -/
def execReefFlit (port : Nat) (f : OptFlit) (s : State) : Out :=
  .next (s.optical port f 3 fun p s =>
    let g : BitVec 4 := bits 0 4 f.payload
    let first := nbits 16 16 f.payload.toNat
    let new := p.groupsOut &&& g
    let left := p.groupsOut &&& ~~~g
    if left == 0 then s.portDown port 0xC0
    else
      let q := { p with groupsOut := left, beat := 0 }.emit s.cycle 4 0 0
      let r := q.restart s.cycle first
      let s := s.putPort port r
      if new == 0 then s
      else s.portEvent port 0xC0 (port + 4096 * new.toNat + 65536 * lambdas left) (first + 65536 * (r.out.length - q.out.length)))

/-! ### Unreefing (R344) -/

/-- The groups an UNREEF can restore: their light has been present for 1 s here, and at the peer, which a free choice says. -/
def State.unreefable (s : State) (p : Port) : BitVec 4 × State :=
  (upto 4).foldl (fun (acc : BitVec 4 × State) g =>
    let m : BitVec 4 := 1 <<< g
    let lit := match p.litSince.find? fun x => x.1 == g with
      | some x => decide (x.2 + 1200000000 ≤ s.cycle)
      | none => false
    if p.groupsIn &&& p.groupsOut &&& m != 0 then acc
    else
      let (there, s) := acc.2.coin
      let here := p.groupsIn &&& m != 0 || lit
      (if here && (p.groupsOut &&& m != 0 || there) then acc.1 ||| m else acc.1, s)) (0, s)

/-- Begin the UNREEF of a port: with no group to restore the command ends in error. -/
def State.startUnreef (s : State) (port : Nat) : State :=
  s.onPort port fun p =>
    let (g, s) := s.unreefable p
    if g == 0 || !p.up then
      (s.putPort port { p with unreef := false }).finish (fun d => d.opc == 0x04 && d.id == port) true 0
    else s.putPort port { p.emit s.cycle 5 0 (reefPayload g 0) with unreef := false, unreefGroups := g }

/-- UNREEF (R344, R348): OPC 0x04, the port in byte 8. During a reef it waits. -/
def execUnreef (fn : BitVec 2) (slot : BitVec 4) (s : State) : Out :=
  .next (s.mailbox fn slot 0x04 fun s =>
    let port := (s.slotByte fn slot 8).toNat
    if 24 ≤ port then s.refuse fn slot 0xC9
    else
      let s := s.defer fn slot 0xFFFF port
      match SMap.find? s.ports port with
      | none => s.finish (fun d => d.opc == 0x04 && d.id == port) true 0
      | some p => if p.reef.isSome then s.putPort port { p with unreef := true } else s.startUnreef port)

/-- Restripe the direction sent with the larger active set, as R342 step 2 does (R344): the beats count from 0, REEFACK is the first flit of
the new striping, and the stream restarts. The direction received has its larger set too. -/
def Port.widen (p : Port) (now : Nat) (g : BitVec 4) : Port :=
  ({ p with groupsOut := p.groupsOut ||| g, groupsIn := p.groupsIn ||| g, beat := 0, unreefGroups := 0 }.emit now 4 0 0).restart now
    p.oldest

/-- The groups whose loss a REEFACK does not answer, having been named in no REEF, start a new reef (R342; DEDUCED). -/
def Port.reefOn (p : Port) (now : Nat) (rest : BitVec 4) : Port :=
  let q := { p with reef := none, reefDue := none, reefEnd := none, reefGroups := rest, reefNamed := rest, discard := rest != 0 }
  if rest == 0 then q
  else
    { q.emit now 3 0 (reefPayload rest p.expect) with
      reef := some p.expect, reefDue := some (now + 1200), reefEnd := some (now + 12000) }

/-- REEFACK_FLIT (R342 step 3): the receiver aligns its beats to B = 0, which every REEFACK does; in a reef it decodes without the groups it
named and accepts DATA again; an UNREEF that waited begins. -/
def execReefackFlit (port : Nat) (f : OptFlit) (s : State) : Out :=
  .next (s.optical port f 4 fun p s =>
    let p := { p with rxBeat := 16 }
    match p.reef with
    | none => s.putPort port p
    | some _ =>
      let left := p.groupsIn &&& ~~~p.reefNamed
      let rest := p.reefGroups &&& ~~~p.reefNamed
      let s := s.putPort port ({ p with groupsIn := left }.reefOn s.cycle rest)
      let s := s.portEvent port 0xC0 (port + 256 + 4096 * p.reefNamed.toNat + 65536 * lambdas left) 0
      if p.unreef && rest == 0 then s.startUnreef port else s)

/-- REEF_REPEAT_TIMER (R342 step 1). -/
def execReefRepeatTimer (port : Nat) (s : State) : Out :=
  .next (s.onPort port fun p =>
    if p.up && p.reef.isSome && dueBy p.reefDue s.cycle then
      s.putPort port { p.emit s.cycle 3 0 (reefPayload p.reefGroups p.expect) with
          reefNamed := p.reefGroups, reefDue := some (s.cycle + 1200) }
    else s)

/-- REEFACK_TIMEOUT (R342): no REEFACK within 10 µs takes the port down. -/
def execReefackTimeout (port : Nat) (s : State) : Out :=
  .next (s.onPort port fun p => if p.reef.isSome && dueBy p.reefEnd s.cycle then s.portDown port 0xC0 else s)

/-- The events that end an unreef at one end (R351: as 0xC0): one for each direction that has regained groups. -/
def State.unreefDone (s : State) (port : Nat) (old : Port) (g : BitVec 4) : State :=
  let sent := g &&& ~~~old.groupsOut
  let got := g &&& ~~~old.groupsIn
  let s := if sent == 0 then s
    else s.portEvent port 0xC3 (port + 4096 * sent.toNat + 65536 * lambdas (old.groupsOut ||| g)) 0
  if got == 0 then s else s.portEvent port 0xC3 (port + 256 + 4096 * got.toNat + 65536 * lambdas (old.groupsIn ||| g)) 0

/-- UNREEF_FLIT (R344): answered with UNREEFACK, and both directions restripe. -/
def execUnreefFlit (port : Nat) (f : OptFlit) (s : State) : Out :=
  .next (s.optical port f 5 fun p s =>
    let g : BitVec 4 := bits 0 4 f.payload
    (s.putPort port ((p.emit s.cycle 6 0 (reefPayload g 0)).widen s.cycle g)).unreefDone port p g)

/-- UNREEFACK_FLIT (R344): the restripe is complete, and so is the command. -/
def execUnreefackFlit (port : Nat) (f : OptFlit) (s : State) : Out :=
  .next (s.optical port f 6 fun p s =>
    let g := p.unreefGroups
    if g == 0 then s
    else ((s.putPort port (p.widen s.cycle g)).unreefDone port p g).finish (fun d => d.opc == 0x04 && d.id == port) false 0)

end Sys2Proof.Machine
end

