-- ==== Sys2Proof/Machine/FabricEvents.lean ====
section
/-!
DEFINITION. The fabric at work: routing and links, arrivals on channels, acknowledgements, resends, stale generations and routing
tables (10_fabric.md R274-R293), and the delivery of every kind of packet.
-/

namespace Sys2Proof.Machine

open Sys2Proof

/-! ### Routes and links (R275-R277) -/

/-- The port the default tables give (R276): the shorter way round, a tie E or S; 0 is the local port. -/
def defaultCol (x dx : Nat) : Nat := if (dx + 84 - x) % 84 ≤ 42 then 2 else 4
/-- See `defaultCol`. -/
def defaultRow (y dy : Nat) : Nat := if (dy + 66 - y) % 66 = 0 then 0 else if (dy + 66 - y) % 66 ≤ 33 then 3 else 1

/-- The table entry at a switch for a destination (R276): V and the port. -/
def routeEntry (cols rows : List (Nat × BitVec 4)) (t dest : Nat) : BitVec 4 :=
  if tileX t != tileX dest then (SMap.find? cols (tileX dest)).getD (BitVec.ofNat 4 (8 + defaultCol (tileX t) (tileX dest)))
  else (SMap.find? rows (tileY dest)).getD (BitVec.ofNat 4 (8 + defaultRow (tileY t) (tileY dest)))

/-- Distance of two numbers. -/
def absDiff (a b : Nat) : Nat := (a - b) + (b - a)

/-- Physical hops between the homes of two logical tiles (R277; 01_module.md R17). -/
def State.hops (s : State) (a b : Nat) : Nat :=
  absDiff (s.home a / 72) (s.home b / 72) + absDiff (s.home a % 72) (s.home b % 72)

/-- λ of the logical link at a port, 0 N, 1 E, 2 S, 3 W (R275). -/
def State.latency (s : State) (t port : Nat) : Nat := 2 + s.hops t (neighbour t port)

/-- Event 0x6A of a switch (R291; 17_faults_repair.md R494). -/
def State.linkEvent (s : State) (t port retries : Nat) : State :=
  s.moduleEvent 0x6A 0 (BitVec.ofNat 16 (s.home t)) (BitVec.ofNat 64 port) (BitVec.ofNat 64 retries)

/-- A link leaves service, at both its ends; the LLT version advances (R277, R291). -/
def State.linkOut (s : State) (t port : Nat) : State :=
  let down (s : State) (t port : Nat) : State := s.atTile t fun s => s.modFab fun f => { f with linkDown := f.linkDown ||| (1 <<< port) }
  ((down (down s t port) (neighbour t port) ((port + 2) % 4))).modCtrl fun c => { c with lltVersion := c.lltVersion + 1 }

/-! ### Stale generations (R292) -/

/-- The send channel of the present tile that a flit left on. -/
def State.sendChannelOf (s : State) (dest : Nat) (f : Flit) : Option Byte :=
  (s.t.fab.route.find? fun e =>
    chV e.2 && !chRecv e.2 && chPch e.2 == f.dch && !chGw e.2 && s.relTile (chX e.2) (chY e.2) == some dest).map fun e =>
      BitVec.ofNat 8 e.1

/-- May a switch trap this packet for a stale generation (R292; 11_exact_reduction.md R322)? -/
def bodyTraps : Body → Bool
  | .flit _ | .winch _ | .ramo _ | .coll _ _ | .detour _ _ => true
  | _ => false

/-- The module a port is paired with. -/
def State.peerOf (s : State) (n : Nat) : Option (BitVec 12) :=
  match SMap.find? s.ports n with
  | some p => p.peer.map fun x => x.1
  | none => none

/-- The negative acknowledgement of a packet: what leaves by a port counts on the channel it goes by, a flit on its own. -/
def State.nakOf (s : State) (p : Packet) : Nak :=
  match p.via, p.body with
  | some (n, cls, ch), b => { dest := p.dest, ch := some ch, via := (s.peerOf n).map fun m => (m, cls), body := b }
  | none, .flit f => { dest := p.dest, ch := s.sendChannelOf p.dest f, via := none, body := p.body }
  | none, b => { dest := p.dest, ch := none, via := none, body := b }

/-- A static flit (R288). -/
def staticBody : Body → Bool
  | .flit f => f.typ == 0
  | _ => false

/-- A trapped packet (R292): a static flit is dropped, any other is answered with a negative acknowledgement. -/
def State.trapPacket (s : State) (p : Packet) : State :=
  if staticBody p.body then s else s.atTile p.src fun s => s.auto (.nak (s.nakOf p))

/-- NAK_ARRIVE (R292): counted on its channel, and kept until the routing state holds the new generation. A channel whose destination
is retired with no successor is broken. -/
def execNakArrive (n : Nak) (s : State) : Out :=
  let s := match n.ch with
    | some ch => s.modChan ch fun c => { c with nak := if c.nak == 63 then 63 else c.nak + 1 }
    | none => s
  if n.via.isNone && s.ctrl.deadTiles.contains (s.home n.dest) then
    .next (match n.ch with
      | some ch => s.breakChan ch
      | none => s)
  else .next ((s.modFab fun f => { f with naked := f.naked ++ [n] }).auto (.gen n))

/-- Send every flit of a channel from ACK to NXT - 1 again, in order (R284, R292). -/
def State.resendAll (s : State) (ch : Byte) : State :=
  (s.t.fab.sendStore.filter fun x => x.ch == ch).foldl (fun s x => s.launchFlit ch x.flit) s

/-- The edge of the present tile that a tree flit for a neighbour left by: the flit names the port it comes in by there. -/
def backPort (port : BitVec 3) : Nat := (port.toNat + 2) % 4

/-- The kind and id of the tree flit that a detour half carries (11_exact_reduction.md R322). -/
def detourKey (f : DetourFlit) (port : BitVec 3) : Nat :=
  let w : Word := bits 512 64 f.payload
  treeKey (bits 60 4 w) (bits 53 7 w) (backPort port)

/-- What a negative acknowledgement has sent again (R292; 11_exact_reduction.md R322, R326): a channel's flits or an edge's window from the
first that is not acknowledged, or the trapped request, to where it now goes. -/
def State.resendNak (s : State) (n : Nak) : State :=
  match n.body, n.via with
  | .flit _, _ =>
    match n.ch with
    | some ch => s.resendAll ch
    | none => s
  | .coll port f, _ => s.resendTree (treeKey f.typ f.idx (backPort port))
  | .detour port f, _ => s.resendTree (detourKey f port)
  | b, some (m, cls) => s.sendOut m (n.ch.getD 0) cls b
  | b, none => s.send n.dest b

/-- Do two negative acknowledgements have the same flits sent again? -/
def nakSame (a b : Nak) : Bool :=
  match a.body, b.body with
  | .flit _, .flit _ => a.ch == b.ch
  | .coll p f, .coll q g => treeKey f.typ f.idx (backPort p) == treeKey g.typ g.idx (backPort q)
  | .detour p f, .detour q g => detourKey f p == detourKey g q
  | _, _ => a == b

/-- Is a tile moving to a spare: its home answers what comes for it with a negative acknowledgement (17_faults_repair.md R482 step 2)? -/
def State.moving (s : State) (t : Nat) : Bool :=
  match s.ctrl.splices with
  | [] => false
  | p :: _ => p.stage == 2 && p.tile == t

/-- GENERATION_RESEND (R292): the routing state holds the new generation; the channel's or the edge's flits, or the trapped request, are
sent again. -/
def execGenerationResend (n : Nak) (s : State) : Out :=
  if !s.t.fab.naked.contains n || s.moving n.dest then .next s
  else .next ((s.modFab fun f => { f with naked := f.naked.filter fun m => !nakSame n m }).resendNak n)

/-! ### Channels (R283-R285, R288) -/

/-- The ring id whose receive channel a channel is (11_exact_reduction.md R307). -/
def State.ringOf? (s : State) (ch : Byte) : Option (BitVec 6) :=
  (s.t.red.table.find? fun x => reV x.2 && reRing x.2 && reRch x.2 + 1 == ch).map fun x => BitVec.ofNat 6 x.1

/-- A copy that is behind EXP is answered with the last acknowledgement again (R283). -/
def State.ackAgain (s : State) (ch : Byte) (q : BitVec 16) : State :=
  let d := ((s.chan ch).exp - q).toNat
  if 1 ≤ d ∧ d ≤ 32768 then s.auto (.ack ch) else s

/-- A flit of a ring channel: the switch consumes it as it is accepted (11_exact_reduction.md R323). -/
def State.ringArrive (s : State) (id : BitVec 6) (f : Flit) : State :=
  if f.seq != (s.chan f.dch).exp then s.ackAgain f.dch f.seq
  else
    let s := (s.modChan f.dch fun c => { c with exp := c.exp + 1, con := c.con + 1 }).auto (.ack f.dch)
    match (if ringKind f.payload = 1 then execRingAbortArrive id f s else execRingPartialArrive id f s) with
    | .next s => s
    | _ => s

/-- The semaphores of the FSENDS arrivals of a cycle are counted at their place in it (15_sync_time_phases.md R423, R433). -/
def State.takeFsends (s : State) : State :=
  s.t.sync.semIn.foldl (fun s n => s.semAdd n 1 true) (s.modSync fun y => { y with semIn := [] })

/-- CHANNEL_FLIT_ARRIVE (R283): the expected flit is stored and counted, and then its semaphore, after the lanes and the control slice of
the cycle have had theirs (15_sync_time_phases.md R423); any other is dropped. -/
def execChannelFlitArrive (f : Flit) (s : State) : Out :=
  match s.ringOf? f.dch with
  | some id => .next (if chRecvWin (s.chEnt f.dch) then s.ringArrive id f else s)
  | none =>
    if !chRecvWin (s.chEnt f.dch) then .next s
    else if f.seq != (s.chan f.dch).exp then .next (s.ackAgain f.dch f.seq)
    else
      let s := s.modFab fun b => { b with recvStore := b.recvStore ++ [{ ch := f.dch, seq := f.seq, flit := f, bad := false }] }
      let s := s.modChan f.dch fun c => { c with exp := c.exp + 1, avl := c.avl + 1 }
      .next (if f.typ == 2 then s.modSync fun y => { y with semIn := y.semIn ++ [f.sem] } else s)

/-- STATIC_FLIT_ARRIVE (R288): while WIN flits are stored the flit is dropped and OVR set. -/
def execStaticFlitArrive (f : Flit) (s : State) : Out :=
  let e := s.chEnt f.dch
  if !chRecvStat e then .next s
  else if (s.stored f.dch).length ≥ chWin e then .next (s.modChan f.dch fun c => { c with ovr := true })
  else
    .next (s.modFab fun b => { b with recvStore := b.recvStore ++ [{ ch := f.dch, seq := 0, flit := f, bad := false }] })

/-- CHANNEL_ACK_SEND (R284): ACK CON - 1 goes to the sender. -/
def execChannelAckSend (ch : Byte) (s : State) : Out :=
  let e := s.chEnt ch
  if !chRecvWin e then .next s
  else
    let b : Body := .ack (chPch e) ((s.chan ch).con - 1)
    if chGw e then .next (s.sendOut (chMod e) ch 3 b)
    else match s.relTile (chX e) (chY e) with
      | some t => .next (s.send t b)
      | none => .next s

/-- CHANNEL_ACK_ARRIVE (R283): ACK a frees the flits up to a; a ring root's waiting flits follow. -/
def execChannelAckArrive (ch : Byte) (a : BitVec 16) (s : State) : Out :=
  let c := s.chan ch
  let n := (a + 1 - c.ack).toNat
  if !chSendWin (s.chEnt ch) || n > c.inf || n = 0 then .next s
  else
    let s := s.modFab fun b =>
      { b with sendStore := b.sendStore.filter fun x => !(x.ch == ch && decide ((x.seq - c.ack).toNat < n)) }
    let s := s.modChan ch fun c => { c with ack := a + 1, moved := s.cycle }
    .next ((s.t.red.table.filter fun x => reV x.2 && reRing x.2 && reRch x.2 == ch).foldl
      (fun s x => s.ringDrain (BitVec.ofNat 6 x.1)) s)

/-- CHANNEL_RESEND_TIMEOUT (R284): INF above zero and no movement of ACK for 2^14 cycles. -/
def execChannelResendTimeout (ch : Byte) (s : State) : Out :=
  let c := s.chan ch
  if !chSendWin (s.chEnt ch) || c.inf = 0 || decide (s.cycle < c.moved + 16384) then .next s
  else .next ((s.modChan ch fun c => { c with moved := s.cycle }).resendAll ch)

/-! ### Delivery -/

/-- The state of an outcome; no meaning stops here. -/
def Out.state (o : Out) (s : State) : State :=
  match o with
  | .next t => t
  | _ => s

/-- A packet reaches the local port of its destination. Flits for a tile in no running region are dropped (16_launch.md R461). -/
def State.deliver (s : State) (p : Packet) : State :=
  match p.via with
  | some (n, cls, _) => s.toPort n p.at_ cls p.src p.body
  | none =>
    s.atTile p.dest fun s =>
      if s.region.isNone && (match p.body with
        | .winch _ | .winchResp _ | .xmiss _ | .xfill _ => false
        | _ => true)
      then s
      else
        Out.state (match p.body with
          | .flit f => if f.typ == 0 then execStaticFlitArrive f s else execChannelFlitArrive f s
          | .ack ch a => execChannelAckArrive ch a s
          | .coll port f => .next (s.treeFlit port.toNat f)
          | .treeAck port typ idx rnd seq => .next (s.treeAcked port.toNat typ idx rnd seq)
          | .detour port f => execDetourFlitArrive port f s
          | .ramo r => execRamoHomePerform r s
          | .ramoResp r => execRamoResponse r s
          | .winch r => execRemoteWinchRequest r s
          | .winchResp r => execWinchResponse r s
          | .xmiss m => execXlatMissArrive m s
          | .xfill f => execXlatFillArrive f s) s

/-- A packet leaves the network. -/
def State.dropPacket (s : State) (id : Nat) : State := { s with net := s.net.filter fun p => p.id != id }

/-- Replace a packet. -/
def State.putPacket (s : State) (p : Packet) : State := { s with net := s.net.map fun q => if q.id == p.id then p else q }

/-- The output, 0 N, 1 E, 2 S, 3 W, that the tables of its switch give a packet, if any (R276). -/
def State.outputOf (s : State) (p : Packet) : Option Nat :=
  let f := (s.tile p.at_).fab
  let e := routeEntry f.cols f.rows p.at_ p.dest
  let port := (bits 0 3 e).toNat
  if e.getLsbD 3 && decide (1 ≤ port ∧ port ≤ 4) then some (port - 1) else none

/-! ### Links (R275, R276, R279, R291) -/

/-- One bit of the link CRC: polynomial 0x8BB7, not reflected (R279). -/
def crc16Bit (c : BitVec 16) (b : Bool) : BitVec 16 :=
  if c.getLsbD 15 != b then (c <<< 1) ^^^ 0x8BB7 else c <<< 1

/-- The CRC a sender appends on each link (R279), from 0: over the payload and then the sideband, bytes in order and each from its highest
bit (DEDUCED, notes/assumptions/142.md: the order is not stated). -/
def linkCrc (sb : Word) (pl : BitVec 1024) : BitVec 16 :=
  ((upto 128).flatMap (fun j => bitsDown 8 (nbits (8 * j) 8 pl.toNat)) ++ (upto 8).flatMap fun j => bitsDown 8 (nbits (8 * j) 8 sb.toNat)).foldl
    crc16Bit 0

/-- Sideband and payload of a packet on a link (R279; 11_exact_reduction.md R322); the owners' layouts are as on an optical record. -/
def packetImage (p : Packet) : Word × BitVec 1024 :=
  match p.body with
  | .flit f => (flitWord f, f.payload)
  | .coll _ f => (treeWord f, f.payload)
  | b => Config.encodeRecord p.src 0 b

/-- A link that changes nothing. -/
def noNoise : LinkNoise := { sb := 0, pl := 0, crc := 0 }

/-- Does a flit cross a link with a CRC that agrees? -/
def linkGood (p : Packet) (e : LinkNoise) : Bool :=
  e == noNoise ||
    (let (sb, pl) := packetImage p
     linkCrc (sb ^^^ e.sb) (pl ^^^ e.pl) == linkCrc sb pl ^^^ e.crc)

/-- What its receiver takes a channel flit to be. -/
def noisyBody (e : LinkNoise) : Body → Body
  | .flit f => .flit (flitOf (flitWord f ^^^ e.sb) (f.payload ^^^ e.pl))
  | b => b

/-- The last 8 flits a switch sent on an output (R291). -/
def Fab.lastSent (f : Fab) (port : Nat) : List Nat := SMap.get [] f.retry port

/-- A flit is sent on an output, for the first time or again. -/
def State.noteSent (s : State) (t port id : Nat) : State :=
  s.atTile t fun s => s.modFab fun f =>
    let l := (f.lastSent port).filter (fun x => x != id) ++ [id]
    { f with retry := SMap.set [] f.retry port (l.drop (l.length - 8)) }

/-- Is a flit that its receiver asks for again no longer among the last 8 of its output (R291)? DEDUCED, notes/assumptions/142.md: it is lost there. -/
def State.overrun (s : State) (p : Packet) (port : Nat) : Bool :=
  decide (0 < p.fails) && !((s.tile p.at_).fab.lastSent port).contains p.id

/-- The flits in the retry buffer of an output are dropped (R291); of those that their receiver has taken nothing is lost. -/
def State.dropRetries (s : State) (t port : Nat) : State :=
  let l := (s.tile t).fab.lastSent port
  { s with net := s.net.filter fun p => !(p.at_ == t && decide (0 < p.fails) && l.contains p.id && s.outputOf p == some port) }

/-- The optical port at a tile, for a flit that a table sends out by port P. -/
def State.portAt (s : State) (t : Nat) : Option Nat := (upto 24).find? fun n => (portTiles n).contains (s.home t)

/-- A flit whose table entry is V = 1 with PORT 0, the local port, or 5, the perimeter port of the tile (R276; no accepted set has a route
that meets one away from its end). -/
def State.leave (s : State) (p : Packet) (port : Nat) : State :=
  if port = 0 then s.deliver { p with dest := p.at_ }
  else match s.portAt p.at_ with
    | some n => s.toPort n p.at_ (match p.via with
      | some (_, cls, _) => cls
      | none => 9) p.src p.body
    | none => s.linkEvent p.at_ port 0

/-- A packet is sent over the link at an output and received (R275, R291): a CRC error costs 2λ + 2 cycles, and the fourth in a row takes
the link out of service and drops what its retry buffer holds. -/
def State.crossLink (s : State) (p : Packet) (port : Nat) (e : LinkNoise) : State :=
  let l := s.latency p.at_ port
  if s.overrun p port then s.dropPacket p.id
  else if linkGood p e then
    (s.noteSent p.at_ port p.id).putPacket
      { p with at_ := neighbour p.at_ port, due := s.cycle + l + 2, fails := 0, body := if e == noNoise then p.body else noisyBody e p.body }
  else if p.fails + 1 ≥ 4 then
    (((s.dropPacket p.id).dropRetries p.at_ port).linkOut p.at_ port).linkEvent p.at_ (port + 1) (p.fails + 1)
  else (s.noteSent p.at_ port p.id).putPacket { p with fails := p.fails + 1, due := s.cycle + 2 * l + 2 }

/-- LINK_FLIT_RECEIVE (R275, R276, R291): a packet whose cycle has come is delivered, trapped, or crosses one more link. -/
def execLinkFlitReceive (id : Nat) (noise : LinkNoise) (s : State) : Out :=
  match s.net.find? fun p => p.id == id with
  | none => .next s
  | some p =>
    if s.cycle < p.due then .next s
    else if bodyTraps p.body && (p.gen != s.genOf p.dest || (p.at_ == p.dest && p.src != p.dest && s.moving p.dest)) then .next ((s.dropPacket id).trapPacket p)
    else if p.at_ == p.dest then .next ((s.dropPacket id).deliver p)
    else
      let f := (s.tile p.at_).fab
      let e := routeEntry f.cols f.rows p.at_ p.dest
      let port := (bits 0 3 e).toNat
      if !e.getLsbD 3 || 5 < port then .next ((s.dropPacket id).linkEvent p.at_ port 0)
      else if port = 0 || port = 5 then .next ((s.dropPacket id).leave p port)
      else if f.linkDown.getLsbD (port - 1) then .next s
      else .next (s.crossLink p (port - 1) noise)

/-! ### Routing tables (R276) -/

/-- The two tables of a switch in a set. -/
def tableOf (tabs : RouteSet) (t : Nat) : List (Nat × BitVec 4) × List (Nat × BitVec 4) :=
  match tabs.find? fun r => r.tile == t with
  | some r => ((upto r.cols.length).zip r.cols, (upto r.rows.length).zip r.rows)
  | none => ([], [])

/-- Does a route reach its destination within `n` links, over links in service, visiting no switch twice? -/
def routeReaches (s : State) (tabs : RouteSet) (dest : Nat) : Nat → Nat → List Nat → Bool
  | 0, t, _ => t == dest
  | n + 1, t, seen =>
    if t == dest then true
    else
      let (cols, rows) := tableOf tabs t
      let e := routeEntry cols rows t dest
      let port := (bits 0 3 e).toNat
      let u := neighbour t (port - 1)
      e.getLsbD 3 && decide (1 ≤ port ∧ port ≤ 4) && !(s.tile t).fab.linkDown.getLsbD (port - 1) && !seen.contains u
        && routeReaches s tabs dest n u (u :: seen)

/-- Is a set acceptable (R276): whole tables, no port 6 or 7, and every route from every live tile reaches its end? -/
def State.routesOk (s : State) (tabs : RouteSet) : Bool :=
  let live := (upto tileCount).filter fun t => s.tileLive (s.home t)
  tabs.all (fun r => r.cols.length == 84 && r.rows.length == 66 && decide (r.tile < tileCount)
    && (r.cols ++ r.rows).all fun e => decide ((bits 0 3 e).toNat < 6))
    && live.all fun a => live.all fun b => routeReaches s tabs b 200 a [a]

/-- ROUTE_TABLE_LOAD (R276): a switch that the set does not name keeps the default table; a refused set changes nothing. -/
def execRouteTableLoad (tabs : RouteSet) (s : State) : Out :=
  if !s.routesOk tabs then .next s
  else
    .next ((upto tileCount).foldl (fun s t =>
      let (cols, rows) := tableOf tabs t
      if cols == (s.tile t).fab.cols && rows == (s.tile t).fab.rows then s
      else s.atTile t fun s => s.modFab fun f => { f with cols := cols, rows := rows }) s)

end Sys2Proof.Machine
end

