-- ==== Sys2Proof/Machine/Host.lean ====
section
/-!
DEFINITION. The host's side (12_leaving_module.md R345-R354; 03_far_memory.md R87-R90): the windows, the registers of BAR 0, event
rings, the mailbox commands of R348, and module time.
-/

namespace Sys2Proof.Machine

open Sys2Proof

/-! ### Windows (R345, R346; 03_far_memory.md R90) -/

/-- Rate and width of a host link, as events 0xC6 and 0xC7 report them (R351): trained at Gen 7 x16 until a change says otherwise. -/
def State.linkRate (s : State) (k : Nat) : Word :=
  BitVec.ofNat 64 ((SMap.get 7 s.host.rate k).toNat + 256 * (SMap.get 16 s.host.width k).toNat)

/-- An error of the link that AER holds (R345; PRESUMED, notes/assumptions/137.md: the bits of PCI Express): 12 a poisoned request, 18 a malformed one, 19
an ECRC that does not agree, 20 an Unsupported Request. -/
def State.aerNote (s : State) (fn : BitVec 2) (bit : Nat) : State :=
  s.modHost fun h =>
    { h with aer := SMap.put h.aer fn.toNat ((SMap.get 0 h.aer fn.toNat) ||| ((1 : BitVec 32) <<< bit)) }

/-- The completion of a host request: 0 success, 1 Unsupported Request, 2 poisoned (EP) data. -/
def State.complete (s : State) (fn : BitVec 2) (status : Byte) (d : Bytes) : State :=
  let s := s.modHost fun h => { h with replies := h.replies ++ [(fn, status, d)] }
  if status == 1 then s.aerNote fn 20 else s

/-- Why a request is dropped before it acts (R345): its ECRC does not agree, or it is longer than Max_Payload_Size or
Max_Read_Request_Size allows. -/
def reqDropped (r : HostReq) : Option Nat :=
  if !r.ecrcOk then some 19 else if r.data.length > 512 || r.len > 4096 then some 18 else none

/-- What AER notes of a request that acts. -/
def State.noteEp (s : State) (r : HostReq) : State := if r.write && r.ep then s.aerNote r.fn 12 else s

/-- The completion of a read (17_faults_repair.md R476): with the EP attribute and unspecified data where a byte is poisoned. -/
def State.completeRead (s : State) (fn : BitVec 2) (bs : List (Byte × Bool)) : State :=
  if anyPoison bs then
    { s.complete fn 2 ((upto bs.length).map fun i => Config.hostPoisonData (s.free + i)) with free := s.free + bs.length }
  else s.complete fn 0 (bs.map fun x => x.1)

/-- Is the host link of a function up? -/
def State.linkUp (s : State) (fn : BitVec 2) : Bool := s.host.linkUp.getLsbD fn.toNat

/-- What an offset of the tile window names (R346): the tile, the buffer, the side and the offset. -/
def windowPlace (a : Nat) : Nat × Option (BufId × Bool × Nat) :=
  let o := a % 2 ^ 22
  (a / 2 ^ 22,
    if o < 0xC0000 then some (.a, false, o)
    else if 0x100000 ≤ o ∧ o < 0x1C0000 then some (.a, true, o - 0x100000)
    else if 0x200000 ≤ o ∧ o < 0x260000 then some (.c, false, o - 0x200000)
    else none)

/-- The place of n bytes in the tile window; `none` is Unsupported Request (R346). -/
def State.windowAt (s : State) (a n : Nat) : Option (Nat × BufId × Bool × Nat) :=
  match windowPlace a with
  | (t, some (b, side, o)) => if t < tileCount ∧ o + n ≤ b.size ∧ (s.regionAt t).isSome then some (t, b, side, o) else none
  | _ => none

/-- TILE_WINDOW_ACCESS (R346): a remote Winch operation at the tile. -/
def execTileWindowAccess (r : HostReq) (s : State) : Out :=
  if !s.linkUp r.fn then .next s
  else if let some bit := reqDropped r then .next (s.aerNote r.fn bit)
  else match s.windowAt r.addr (if r.write then r.data.length else r.len) with
    | none => .next (s.complete r.fn 1 [])
    | some (t, b, side, o) =>
      if r.write then .next ((s.noteEp r).atTile t fun s => s.bufWrite b side o (r.data.map fun x => (x, r.ep)) false)
      else
        let at_ := { s with here := t }
        let (bs, s') := at_.readAt (at_.bufRun b side false o r.len)
        .next ({ s' with here := s.here }.completeRead r.fn bs)

/-- Are n bytes of far memory populated, and their stacks available (03_far_memory.md R70, R90)? -/
def State.farOk (s : State) (a n : Nat) : Bool :=
  decide (a + n ≤ farLimit) && (dedup ((run a n).map fun x => x / 512)).all fun g => (s.servingPort (512 * g)).isSome

/-- FAR_WINDOW_ACCESS (03_far_memory.md R90): untranslated. -/
def execFarWindowAccess (r : HostReq) (s : State) : Out :=
  if !s.linkUp r.fn then .next s
  else if let some bit := reqDropped r then .next (s.aerNote r.fn bit)
  else if !s.farOk r.addr (if r.write then r.data.length else r.len) then .next (s.complete r.fn 1 [])
  else if r.write then .next ((s.noteEp r).farWrite r.addr (r.data.map fun x => (x, r.ep)))
  else
    let (bs, s) := s.farRead r.addr r.len
    .next (s.completeRead r.fn bs)

/-- HOST_ATOMICOP (R345): FetchAdd, Swap or CAS (compare a, swap b) of 32 or 64 bits, at the tile or at the memory port. -/
def execHostAtomicop (r : HostAtomic) (s : State) : Out :=
  if !s.linkUp r.fn then .next s
  else if !r.ecrcOk then .next (s.aerNote r.fn 19)
  else
    let n := r.bits / 8
    let op : AOp := if r.op == 0 then .add else if r.op == 1 then .swap else .cas
    let (x, cmp) : Word × Word := if r.op == 2 then (r.b, r.a) else (r.a, 0)
    if (r.bits != 32 && r.bits != 64) || r.op == 3 || r.addr % n != 0 then .next (s.complete r.fn 1 [])
    else if r.bar == 2 then
      match s.windowAt r.addr n with
      | none => .next (s.complete r.fn 1 [])
      | some (t, b, side, o) =>
        let at_ := { s with here := t }
        let (old, bad, s') := at_.atomicAt (at_.bufAddr b side false o) op (r.bits == 64) x cmp false
        .next ({ s' with here := s.here }.completeRead r.fn ((toBytes n old.toNat).map fun y => (y, bad)))
    else if r.bar == 4 && s.farOk r.addr n then
      let (bs, s) := s.farAtomic r.addr op (r.bits == 64) x cmp
      .next (s.completeRead r.fn bs)
    else .next (s.complete r.fn 1 [])

/-- May a link that trained reach L0 (R345)? At Gen 1 to Gen 7, at x16, x8 or x4, and only with a partner that has flit mode. -/
def linkTrains (mode : LinkMode) (rate width : Byte) : Bool :=
  mode == .flit && decide (1 ≤ rate.toNat ∧ rate.toNat ≤ 7) && (width == 16 || width == 8 || width == 4)

/-- HOST_LINK_STATE_CHANGE (R345, R351): event 0xC6 for a link that goes down, 0xC7 for one below Gen 7 x16. A link without a live
tile cannot come up (01_module.md R22), nor any but link 0 in recovery (17_faults_repair.md R489). -/
def execHostLinkStateChange (link : BitVec 2) (mode : LinkMode) (rate width : Byte) (s : State) : Out :=
  let k := link.toNat
  let ok := linkTrains mode rate width && (linkTiles k).any s.tileLive && (k == 0 || !s.ctrl.recovery)
  let s := s.modHost fun h =>
    { h with
      linkUp := setBits k 1 h.linkUp (BitVec.ofBool ok), rate := SMap.put h.rate k rate, width := SMap.put h.width k width }
  let arg : Word := BitVec.ofNat 64 (rate.toNat + 256 * width.toNat)
  if !ok then .next (s.moduleEvent 0xC6 2 (BitVec.ofNat 16 k) (link.setWidth 64) arg)
  else if rate.toNat < 7 || width.toNat < 16 then .next (s.moduleEvent 0xC7 2 (BitVec.ofNat 16 k) (link.setWidth 64) arg)
  else .next s

/-! ### Event rings (R349, R350) -/

/-- Key of a ring. -/
def ringKey (fn : BitVec 2) (n : Nat) : Nat := 2048 * fn.toNat + n

/-- A ring that its function has enabled. -/
def State.ring? (s : State) (fn : BitVec 2) (n : Nat) : Option Ring := (SMap.find? s.host.rings (ringKey fn n)).filter fun r => r.en

/-- Replace a ring. -/
def State.putRing (s : State) (fn : BitVec 2) (n : Nat) (r : Ring) : State :=
  s.modHost fun h => { h with rings := SMap.put h.rings (ringKey fn n) r }

/-- EVHEAD_WRITE (R350): a HEAD ahead of WP acts as a write of WP. -/
def execEvheadWrite (fn : BitVec 2) (ring : Nat) (v : Word) (s : State) : Out :=
  match s.ring? fn ring with
  | none => .next s
  | some r =>
    let h := (bits 0 32 v).toNat
    let d := (h + 2 ^ 32 - r.wp) % 2 ^ 32
    .next (s.putRing fn ring { r with head := if 1 ≤ d ∧ d ≤ 2 ^ 31 then r.wp else h })

/-- The 32 bytes of an entry (R349): PH is 1 on the first pass and every second one after it. -/
def eventBytes (e : EvRec) (r : Ring) : Bytes :=
  toBytes 8 e.time.toNat
    ++ toBytes 8 ((if r.wp / 2 ^ r.lg % 2 = 0 then 2 ^ 63 else 0) + 2 ^ 48 * (r.wp % 2 ^ 15) + 2 ^ 32 * e.srcix.toNat
      + 2 ^ 16 * e.region.toNat + 2 ^ 8 * e.src.toNat + e.code.toNat)
    ++ toBytes 8 e.arg0.toNat ++ toBytes 8 e.arg1.toNat

/-- Remove the first element that satisfies a test. -/
def takeFirst {α : Type} (p : α → Bool) : List α → Option (α × List α)
  | [] => none
  | a :: rest => if p a then some (a, rest) else (takeFirst p rest).map fun x => (x.1, a :: x.2)

/-- A ring raises its vector at most once per microsecond (R349): otherwise it is owed. -/
def State.ringVector (s : State) (fn : BitVec 2) (n : Nat) (r : Ring) : State :=
  if r.holdUntil ≤ s.cycle then
    (s.putRing fn n { r with holdUntil := s.cycle + 1200, owed := false }).raiseVector fn (BitVec.ofNat 11 (n + 1))
  else s.putRing fn n { r with owed := true }

/-- EVENT_RING_WRITE (R349, R350): the oldest pending event of a ring is written while the ring has room; then, if events were
dropped, event 0xC8 says how many. -/
def execEventRingWrite (fn : BitVec 2) (ring : Nat) (s : State) : Out :=
  match s.ring? fn ring, takeFirst (fun e : EvRec => e.fn == fn && e.ring == ring) s.host.pend with
  | some r, some (e, rest) =>
    if !s.linkUp fn || (r.wp + 2 ^ 32 - r.head) % 2 ^ 32 ≥ 2 ^ r.lg then .next s
    else
      let s := s.putHost (r.base.toNat + 32 * (r.wp % 2 ^ r.lg)) (clean (eventBytes e r))
      let s := s.modHost fun h => { h with pend := rest }
      let s := s.ringVector fn ring { r with wp := (r.wp + 1) % 2 ^ 32, seq := (r.wp + 1) % 2 ^ 15 }
      let n := SMap.get 0 s.host.dropped fn.toNat
      if n = 0 then .next s
      else
        .next ((s.modHost fun h => { h with dropped := SMap.set 0 h.dropped fn.toNat 0 }).pendEvent
          { code := 0xC8, fn := fn, ring := 0, region := 0xFFFF, src := 3, srcix := 0, arg0 := BitVec.ofNat 64 n, arg1 := 0
            time := s.clock.mtime })
  | _, _ => .next s

/-- EVENT_VECTOR_HOLDOFF (R349): the hold-off ends, and a vector that is owed is raised. -/
def execEventVectorHoldoff (fn : BitVec 2) (ring : Nat) (s : State) : Out :=
  match s.ring? fn ring with
  | none => .next s
  | some r => if r.owed && decide (r.holdUntil ≤ s.cycle) then .next (s.ringVector fn ring r) else .next s

/-! ### Registers of BAR 0 (R346, R347) -/

/-- A vector that its host unmasks is sent if it waits (R345; PRESUMED, notes/assumptions/137.md). -/
def State.unmasked (s : State) (fn : BitVec 2) (v : BitVec 11) : State :=
  if s.pendingVector fn v && !s.masked fn v then (s.setPba fn v false).raiseVector fn v else s

/-- One byte of a host write to BAR 0: the MSI-X table, or a slot, where STATUS and CODE are the controller's. -/
def State.putReg (s : State) (fn : BitVec 2) (a : Nat) (b : Byte) : State :=
  if a < 0x8000 then
    (s.modHost fun h => { h with msix := SMap.set (msixReset a) h.msix (0x8000 * fn.toNat + a) b }).unmasked fn
      (BitVec.ofNat 11 (a / 16))
  else if 0xA000 ≤ a ∧ a < 0xB000 then
    let i := a % 256
    if i = 1 ∨ i = 4 then s else s.putSlot fn (BitVec.ofNat 4 (a / 256 % 16)) i [b]
  else s

/-- The EVHEAD register of a ring (R350): WP above HEAD; zero for a ring that is not enabled. -/
def State.evhead (s : State) (fn : BitVec 2) (n : Nat) : Nat :=
  match s.ring? fn n with
  | none => 0
  | some r => r.head + 2 ^ 32 * r.wp

/-- Is an offset of BAR 0 an EVHEAD register's (R346)? -/
def evheadAt (a : Nat) : Bool := decide (0xC000 ≤ a ∧ a < 0xFFF8)

/-- One byte of BAR 0 as a host reads it (R346): the MSI-X table, the pending array, a slot, an EVHEAD register, and zero elsewhere. What
the doorbell MBDB reads as is not stated: a free value (DESIGN CHOICE, notes/assumptions/137.md). -/
def State.getReg (s : State) (fn : BitVec 2) (a : Nat) : Byte :=
  if a < 0x8000 then s.msixByte fn a
  else if a < 0x8100 then
    BitVec.ofNat 8 ((upto 8).foldl (fun b i => if s.pendingVector fn (BitVec.ofNat 11 (8 * (a - 0x8000) + i)) then b + 2 ^ i else b) 0)
  else if 0xA000 ≤ a ∧ a < 0xB000 then s.slotByte fn (BitVec.ofNat 4 (a / 256 % 16)) (a % 256)
  else if 0xB000 ≤ a ∧ a < 0xB008 then (Config.freeWord (s.free + a % 8)).setWidth 8
  else if evheadAt a then BitVec.ofNat 8 (s.evhead fn ((a - 0xC000) / 8) / 2 ^ (8 * (a % 8)))
  else 0

/-- A host read of BAR 0 (R346). -/
def State.readRegs (s : State) (r : HostReq) : State :=
  { s.complete r.fn 0 ((upto r.len).map fun i => s.getReg r.fn (r.addr + i)) with free := s.free + 8 }

/-- What a write to an EVHEAD register makes of its 64 bits: the bytes written, over those it holds. -/
def State.evheadValue (s : State) (fn : BitVec 2) (off : Nat) (data : Bytes) : Word :=
  let old := toBytes 8 (s.evhead fn ((off - 0xC000) / 8))
  BitVec.ofNat 64 (ofBytes ((upto 8).map fun i =>
    if off % 8 ≤ i ∧ i < off % 8 + data.length then data.getD (i - off % 8) 0 else old.getD i 0))

/-- REGISTER_WRITE (R346): a write to the MSI-X table or a mailbox slot is kept, one to MBDB rings a doorbell, one to an EVHEAD
register moves HEAD, and any other is ignored; a read completes with the registers' bytes. -/
def execRegisterWrite (fn : BitVec 2) (off : Nat) (x : RegAccess) (s : State) : Out :=
  let r := x.req fn off
  if !s.linkUp r.fn then .next s
  else if let some bit := reqDropped r then .next (s.aerNote r.fn bit)
  else if !r.write then .next (s.readRegs r)
  else if r.addr = 0xB000 then
    let n := ofBytes r.data
    .next (if n < 16 then (s.noteEp r).auto (.mail r.fn (BitVec.ofNat 4 n)) else s.noteEp r)
  else if evheadAt r.addr then
    execEvheadWrite r.fn ((r.addr - 0xC000) / 8) (s.evheadValue r.fn r.addr r.data) (s.noteEp r)
  else .next ((r.data.zip (upto r.data.length)).foldl (fun s x => s.putReg r.fn (r.addr + x.2) x.1) (s.noteEp r))

/-! ### Mailbox commands of R348 -/

/-- An argument word of a command: they stand from byte 8 on, eight bytes each, in the order of R348. -/
def State.argWord (s : State) (fn : BitVec 2) (slot : BitVec 4) (i : Nat) : Nat := s.slotWord fn slot (8 + 8 * i)

/-- The limits of R87. -/
def invalOk (kind base pages : Nat) : Bool :=
  decide (kind < 3)
    && (kind != 0 || (base % 65536 == 0 && decide (base < 2 ^ 57 ∧ 1 ≤ pages ∧ pages ≤ 2 ^ 24 ∧ base + 65536 * pages ≤ 2 ^ 57)))

/-- INVAL (03_far_memory.md R87, R88): KIND and ASID in the first word, the VA base and the page count in the next; its tag is TAG. -/
def execInval (fn : BitVec 2) (slot : BitVec 4) (s : State) : Out :=
  .next (s.mailbox fn slot 0x01 fun s =>
    let w := s.argWord fn slot 0
    let base := s.argWord fn slot 1
    let pages := s.argWord fn slot 2
    let kind := w % 256
    if !invalOk kind base pages then s.refuse fn slot 0xC9
    else if s.far.invals.length ≥ 16 then s.answer fn slot 3 0
    else
      (s.beginInval
        { kind := BitVec.ofNat 2 kind, asid := BitVec.ofNat 16 (w / 65536), base := base, pages := pages
          tag := s.slotTag fn slot, fn := fn, slot := some slot }).accepted fn slot)

/-- One entry of the link latency table (10_fabric.md R277): d = 0 is E, 1 is S. -/
def State.lltEntry (s : State) (t d : Nat) : Nat :=
  let port := d + 1
  let h := s.hops t (neighbour t port)
  4096 * (h % 16) + (if (s.tile t).fab.linkDown.getLsbD port then 0xFF else 2 + h)

/-- The link latency table as LLTGET writes it: the version, then the entries. -/
def State.lltBytes (s : State) : Bytes :=
  toBytes 8 s.ctrl.lltVersion.toNat ++ (upto (2 * tileCount)).flatMap fun i => toBytes 2 (s.lltEntry (i / 2) (i % 2))

/-- LLTGET (R348). -/
def execLltget (fn : BitVec 2) (slot : BitVec 4) (s : State) : Out :=
  .next (s.mailbox fn slot 0x02 fun s =>
    let a := s.argWord fn slot 0
    if a % 4096 != 0 then s.refuse fn slot 0xC9
    else
      let tag := s.slotTag fn slot
      (((s.accepted fn slot).putHost a (clean s.lltBytes)).completed fn slot 0x02 tag false 0))

/-- HCOPY (R348): direction, host address, far PA and length. -/
def execHcopy (fn : BitVec 2) (slot : BitVec 4) (s : State) : Out :=
  .next (s.mailbox fn slot 0x03 fun s =>
    let dir := s.argWord fn slot 0
    let host := s.argWord fn slot 1
    let far := s.argWord fn slot 2
    let len := s.argWord fn slot 3
    if 1 < dir || host % 64 != 0 || far % 64 != 0 || len % 64 != 0 || decide (2 ^ 30 < len) then s.refuse fn slot 0xC9
    else if s.host.hcopies.length ≥ 64 then s.answer fn slot 3 0
    else
      let id := s.host.nextCopy
      (s.modHost fun h =>
        { h with
          nextCopy := id + 1
          hcopies := h.hcopies ++
            [{ id := id, fn := fn, tag := s.slotTag fn slot, host := BitVec.ofNat 64 host, far := BitVec.ofNat 64 far
               len := len, toHost := dir == 1 }] }).defer fn slot 0xFFFF id)

/-- HCOPY_COMPLETE (R348): the bytes have moved, with their poison; an unpopulated or unavailable range ends in error. -/
def execHcopyComplete (id : Nat) (s : State) : Out :=
  match s.host.hcopies.find? fun c => c.id == id with
  | none => .next s
  | some c =>
    let ok := s.farOk c.far.toNat c.len
    let s :=
      if !ok then s
      else if c.toHost then
        let (bs, s) := s.farRead c.far.toNat c.len
        s.putHost c.host.toNat bs
      else s.farWrite c.far.toNat (s.hostBytes c.host.toNat c.len)
    .next ((s.modHost fun h => { h with hcopies := h.hcopies.filter fun x => x.id != id }).finish
      (fun d => d.opc == 0x03 && d.id == id) (!ok) 0)

/-- EVRING (R348, R350): ring, host base, LG and enable; the counts of the ring return to zero. -/
def execEvring (fn : BitVec 2) (slot : BitVec 4) (s : State) : Out :=
  .next (s.mailbox fn slot 0x05 fun s =>
    let n := s.argWord fn slot 0
    let base := s.argWord fn slot 1
    let lg := s.argWord fn slot 2
    let en := s.argWord fn slot 3
    if 2047 ≤ n || base % 4096 != 0 || decide (lg < 6 ∨ 16 < lg) || 1 < en then s.refuse fn slot 0xC9
    else
      (s.putRing fn n
        { base := BitVec.ofNat 64 base, lg := lg, en := en == 1, vector := BitVec.ofNat 11 (n + 1), wp := 0, head := 0, seq := 0
          holdUntil := 0, owed := false }).done fn slot [])

/-- The time state of R354. -/
def TimeState.code : TimeState → Nat
  | .free => 0
  | .locked => 1
  | .lost => 2

/-- TIMERD (R348). -/
def execTimerd (fn : BitVec 2) (slot : BitVec 4) (s : State) : Out :=
  .next (s.mailbox fn slot 0x06 fun s =>
    s.done fn slot (toBytes 8 s.clock.mtime.toNat ++ toBytes 8 s.clock.state.code
      ++ toBytes 8 (BitVec.ofInt 64 s.clock.offset).toNat))

/-- XLSTAT (R348; 03_far_memory.md R80). -/
def execXlstat (fn : BitVec 2) (slot : BitVec 4) (s : State) : Out :=
  .next (s.mailbox fn slot 0x07 fun s =>
    s.done fn slot ((upto 4).flatMap fun k =>
      toBytes 8 (s.side k).count.toNat
        ++ toBytes 8 ((if (s.side k).live then 1 else 0) + 2 * ((s.servingSide k).getD 0))))

/-- The opcodes that name a command (R348; 16_launch.md R454; 17_faults_repair.md R490). -/
def knownOpc (o : Nat) : Bool := decide ((1 ≤ o ∧ o ≤ 7) ∨ (0x10 ≤ o ∧ o ≤ 0x14) ∨ (0x20 ≤ o ∧ o ≤ 0x27))

/-- MAILBOX_UNKNOWN (R348): refused with code 0xC9. -/
def execMailboxUnknown (fn : BitVec 2) (slot : BitVec 4) (s : State) : Out :=
  let o := s.slotOpc fn slot
  if knownOpc o.toNat then .next s else .next (s.mailbox fn slot o fun s => s.refuse fn slot 0xC9)

/-! ### Module time (R352-R354) -/

/-- A PTP time in units of 2^-8 ns (R352). -/
def ptpTime (sec nsec : Nat) : Int := Int.ofNat ((sec * 10 ^ 9 + nsec) * 256)

/-- The module's time on the scale of its grandmaster: MTIME is this modulo 2^64. -/
def Clock.now (c : Clock) : Int := Int.ofNat (c.era * 2 ^ 64 + c.mtime.toNat)

/-- Move MTIME forward, counting its wraps. -/
def Clock.forward (c : Clock) (n : Nat) : Clock :=
  { c with mtime := c.mtime + BitVec.ofNat 64 n, era := c.era + (c.mtime.toNat + n) / 2 ^ 64 }

/-- A Sync as it was sent and as it arrived gives the offset from the grandmaster (R352). Before the first launch of a boot MTIME may step
forward; after that the offset is slewed, and in holdover the rate stays as it was (R354). -/
def Clock.synced (c : Clock) (mayStep : Bool) (sent came : Int) : Clock :=
  let off := sent + c.delay - came
  let c := { c with sync := some (sent, came), syncAt := Option.none, offset := off }
  if c.state == .lost then c
  else if mayStep && decide (0 < off) then { c.forward off.toNat with slew := 0, sync := Option.none, askedAt := Option.none }
  else { c with slew := 3 * off }

/-- One message of the timing port (R352), by IEEE 1588: the delay of the path is half of what a Sync and a Delay_Req take together, or
half of what a Pdelay_Req and its answer take without the peer's own turnaround (PRESUMED, notes/assumptions/138.md). -/
def Clock.message (c : Clock) (mayStep : Bool) : PtpMsg → Clock
  | .sync sec nsec corr => c.synced mayStep (ptpTime sec nsec + corr) c.now
  | .syncTwoStep => { c with syncAt := some c.now }
  | .followUp sec nsec corr =>
    match c.syncAt with
    | none => c
    | some came => c.synced mayStep (ptpTime sec nsec + corr) came
  | .delayReq | .pdelayReq => { c with askedAt := some c.now }
  | .delayResp sec nsec corr =>
    match c.sync, c.askedAt with
    | some (sent, came), some asked =>
      { c with delay := (came - sent + (ptpTime sec nsec - corr - asked)) / 2, askedAt := Option.none }
    | _, _ => c
  | .pdelayResp turn =>
    match c.askedAt with
    | none => c
    | some asked => { c with delay := (c.now - asked - turn) / 2, askedAt := Option.none }

/-- PTP_MESSAGE (R352, R354): MTIME is disciplined, and the controller may find that the clock is locked. -/
def execPtpMessage (m : PtpMsg) (locked : Bool) (s : State) : Out :=
  let c := s.clock.message (!s.ctrl.launched) m
  .next { s with clock := { c with state := if locked && c.state == .free then .locked else c.state } }

/-- TIME_LOCK_LOSS (R354): holdover, with event 0xCA; MTIME holds the frequency it runs at. -/
def execTimeLockLoss (s : State) : Out :=
  if s.clock.state != .locked then .next s
  else
    .next ({ s with clock := { s.clock with state := .lost, slew := 0 } }.moduleEvent 0xCA 4 0 (BitVec.ofInt 64 s.clock.offset) 0)

/-- TIME_LOCK_REGAIN (R354): event 0xCB, and slewing resumes. -/
def execTimeLockRegain (offset : Int) (s : State) : Out :=
  if s.clock.state != .lost then .next s
  else
    .next ({ s with clock := { s.clock with state := .locked, offset := offset, slew := 3 * offset } }.moduleEvent 0xCB 4 0
      (BitVec.ofInt 64 offset) 0)

/-- The frequency of the next four cycles, in thirds of a unit over nominal (R354): a correction slews by one third, below 500 ppm, and
holdover keeps the last. -/
def Clock.rate (c : Clock) : Int :=
  if c.state == .lost then c.freq else if c.slew == 0 then 0 else if 0 < c.slew then 1 else -1

/-- Module time at the end of a cycle: a cycle is 640/3 units. The 1PPS output gives a pulse as a second begins (R352). -/
def Clock.tick (c : Clock) (cycle : Nat) : Clock :=
  let adj : Int := if cycle % 4 != 0 then 0 else c.rate
  let n := (c.frac + 640 + adj).toNat
  let d :=
    { c.forward (n / 3) with
      frac := n % 3, freq := c.rate, slew := if c.state == TimeState.lost then c.slew else c.slew - adj }
  { d with pulses := d.pulses + (if d.now / (256 * 10 ^ 9) = c.now / (256 * 10 ^ 9) then 0 else 1) }

end Sys2Proof.Machine
end

