-- ==== Sys2Proof/Machine/Image.lean ====
section
/-!
DEFINITION. The image of a program in far memory, how it is read and every check a launch makes of it (16_launch.md R444-R447,
R450, R455 step 1; 05_tile_buffers.md R147, R151; 10_fabric.md R280, R282; 11_exact_reduction.md R305-R310, R329).
-/

namespace Sys2Proof.Machine

open Sys2Proof

/-! ### Far memory through an ASID (R444, R459) -/

/-- The bytes at a far virtual address, page by page: `none` where a translation faults or no port serves them. -/
def State.readVa (asid : BitVec 16) (kind : BitVec 2) : Nat → Nat → Nat → State → Option (List (Byte × Bool)) × State
  | 0, _, _, s => (some [], s)
  | f + 1, va, n, s =>
    if n = 0 then (some [], s)
    else if 2 ^ 57 < va + n then (none, s)
    else
      let m := min n (65536 - va % 65536)
      match s.walk asid va with
      | (.leaf l, s) =>
        (match s.hitOutcome l va kind with
         | .ok pa =>
           if !s.farOk pa m then (none, s)
           else
             let (bs, s) := s.farRead pa m
             match State.readVa asid kind f (va + m) (n - m) s with
             | (some r, s) => (some (bs ++ r), s)
             | (none, s) => (none, s)
         | .error _ => (none, s))
      | (_, s) => (none, s)

/-- `n` bytes through an ASID. -/
def State.readFar (s : State) (asid : BitVec 16) (kind : BitVec 2) (va n : Nat) : Option (List (Byte × Bool)) × State :=
  State.readVa asid kind (n / 65536 + 2) va n s

/-- Write bytes through an ASID, which needs W (R459): false at the first translation fault. -/
def State.writeVa (asid : BitVec 16) : Nat → Nat → List (Byte × Bool) → State → Bool × State
  | 0, _, _, s => (true, s)
  | f + 1, va, d, s =>
    if d.isEmpty then (true, s)
    else if 2 ^ 57 < va + d.length then (false, s)
    else
      let m := min d.length (65536 - va % 65536)
      match s.walk asid va with
      | (.leaf l, s) =>
        (match s.hitOutcome l va 1 with
         | .ok pa => if !s.farOk pa m then (false, s) else State.writeVa asid f (va + m) (d.drop m) (s.farWrite pa (d.take m))
         | .error _ => (false, s))
      | (_, s) => (false, s)

/-- Write bytes through an ASID. -/
def State.writeFar (s : State) (asid : BitVec 16) (va : Nat) (d : List (Byte × Bool)) : Bool × State :=
  State.writeVa asid (d.length / 65536 + 2) va d s

/-- A clean byte string, or `none` where a byte is poisoned or unreadable. -/
def cleanBytes : Option (List (Byte × Bool)) → Option Bytes
  | none => none
  | some bs => if anyPoison bs then none else some (bs.map fun x => x.1)

/-- The image at an address: its header, then as many bytes as LEN says. -/
def State.readImage (s : State) (asid : BitVec 16) (va : Nat) : Option Bytes × State :=
  let (h, s) := s.readFar asid 0 va 560
  match cleanBytes h with
  | none => (none, s)
  | some h =>
    let (b, s) := s.readFar asid 0 va (max 560 (leAt 24 8 h))
    (cleanBytes b, s)

/-! ### The headers (R444-R446) -/

/-- WD of an image. -/
def imgWd (b : Bytes) : Nat := leAt 40 2 b
/-- HT. -/
def imgHt (b : Bytes) : Nat := leAt 42 2 b
/-- FLAGS. -/
def imgFlags (b : Bytes) : Nat := leAt 44 2 b
/-- STAT. -/
def imgStat (b : Bytes) : Bool := imgFlags b / 16 % 2 == 1
/-- DET. -/
def imgDet (b : Bytes) : Bool := imgFlags b % 2 == 1
/-- WIDW. -/
def imgWidw (b : Bytes) : BitVec 42 := BitVec.ofNat 42 (leAt 48 8 b)
/-- NSEC. -/
def imgNsec (b : Bytes) : Nat := leAt 6 2 b
/-- IMGID. -/
def imgId (b : Bytes) : Word := BitVec.ofNat 64 (leAt 8 8 b)
/-- BASEID. -/
def imgBase (b : Bytes) : Word := BitVec.ofNat 64 (leAt 16 8 b)
/-- LEN. -/
def imgLen (b : Bytes) : Nat := leAt 24 8 b
/-- LLTV. -/
def imgLltv (b : Bytes) : Word := BitVec.ofNat 64 (leAt 56 8 b)

/-- The image header is well formed (R444). -/
def headerOk (b : Bytes) : Bool :=
  leAt 0 4 b == 0x4D494E47 && leAt 4 2 b == 1 && decide (1 ≤ imgNsec b ∧ imgNsec b ≤ tileCount ∧ imgNsec b ≤ imgWd b * imgHt b)
    && imgId b != 0 && leAt 36 4 b == 0 && leAt 552 8 b == 0

/-- The CRC holds (R444). -/
def crcOk (b : Bytes) : Bool := leAt 32 4 b == (crc32c ((b.take (imgLen b)).drop 36)).toNat

/-- Do the intervals of a list keep apart? -/
def disjoint : List (Nat × Nat) → Bool
  | [] => true
  | (o, n) :: rest => (rest.all fun x => decide (o + n ≤ x.1 ∨ x.1 + x.2 ≤ o)) && disjoint rest

/-- The phase pairs of the launch header (R445; 05_tile_buffers.md R147). -/
def imgPairs (b : Bytes) : List (Nat × Nat) :=
  (upto (leAt 47 1 b)).map fun i => (leAt (80 + 8 * i) 8 b % 2 ^ 20, leAt (80 + 8 * i) 8 b / 2 ^ 20)

/-- A legal phase pair (05_tile_buffers.md R147); bits above its size field make the size illegal. -/
def pairOk (p : Nat × Nat) : Bool :=
  p.1 % 128 == 0 && p.2 % 128 == 0 && decide (128 ≤ p.2 ∧ p.2 ≤ 0x60000 ∧ p.1 + p.2 ≤ 0xC0000)

/-- The weight regions (R445; 05_tile_buffers.md R151). -/
def imgRegions (b : Bytes) : List (Nat × Nat) :=
  (upto (leAt 77 1 b)).map fun i => (leAt (144 + 8 * i) 8 b % 2 ^ 20, leAt (144 + 8 * i) 8 b / 2 ^ 20)

/-- A legal weight region: both generations lie in W. -/
def wregOk (p : Nat × Nat) : Bool := p.1 % 256 == 0 && p.2 % 256 == 0 && decide (p.1 + 2 * p.2 ≤ 0x100000)

/-- The save ranges (R446). -/
def imgRanges (b : Bytes) : List Word := (upto (leAt 78 1 b)).map fun i => BitVec.ofNat 64 (leAt (176 + 8 * i) 8 b)

/-- BUF of a save range. -/
def srBuf (w : Word) : BufId := bufOf (bits 62 2 w)
/-- SIDE. -/
def srSide (w : Word) : Bool := bit 61 w
/-- SS. -/
def srSoft (w : Word) : Bool := bit 60 w
/-- FS. -/
def srForced (w : Word) : Bool := bit 59 w
/-- LEN. -/
def srLen (w : Word) : Nat := (bits 20 21 w).toNat
/-- OFF. -/
def srOff (w : Word) : Nat := (bits 0 20 w).toNat

/-- A legal save range (R446). -/
def rangeOk (w : Word) : Bool :=
  bits 62 2 w != 3 && (!srSide w || srBuf w == .a) && (srSoft w || srForced w) && bits 41 18 w == 0
    && srLen w % 128 == 0 && decide (128 ≤ srLen w) && srOff w % 128 == 0 && decide (srOff w + srLen w ≤ (srBuf w).size)

/-- The launch header is legal (R445, R446). -/
def launchHeaderOk (b : Bytes) : Bool :=
  let f := imgFlags b
  decide (1 ≤ imgWd b ∧ imgWd b ≤ 84 ∧ 1 ≤ imgHt b ∧ imgHt b ≤ 66) && decide (f < 32) && (f / 2 % 2 == 0 || imgDet b)
    && (!imgStat b || decide (2 ≤ leAt 46 1 b)) && decide (leAt 47 1 b ≤ 8 ∧ leAt 77 1 b ≤ 4 ∧ leAt 78 1 b ≤ 16)
    && decide (((upto 6).map fun j => widthOfField (imgWidw b) j).foldl (fun a c => a + c) 0 ≤ 64)
    && (imgPairs b).all pairOk && disjoint (imgPairs b)
    && (imgRegions b).all wregOk && disjoint ((imgRegions b).map fun p => (p.1, 2 * p.2))
    && (imgRanges b).all rangeOk
    && ((slice (80 + 8 * leAt 47 1 b) (64 - 8 * leAt 47 1 b) b).all fun x => x == 0)
    && ((slice (144 + 8 * leAt 77 1 b) (32 - 8 * leAt 77 1 b) b).all fun x => x == 0)
    && ((slice (176 + 8 * leAt 78 1 b) (128 - 8 * leAt 78 1 b) b).all fun x => x == 0)
    && (slice 304 248 b).all fun x => x == 0

/-- COUNT of a launch (R450). -/
def extCount (ext : List Nat) : Nat := ext.foldl (fun a c => a * c) 1

/-- The extents are legal (R450). -/
def extentsOk (b : Bytes) (ext : List Nat) : Bool :=
  ((upto 6).all fun j => decide (1 ≤ ext.getD j 0 ∧ ext.getD j 0 ≤ 2 ^ min (widthOfField (imgWidw b) j) 32))
    && decide (extCount ext ≤ 2 ^ 48)

/-- The bytes of the fixed part of a frame (R459). -/
abbrev frameFixed : Nat := 0x3B000

/-- The size of a save frame (R459). -/
def frameSize (ranges : List Word) : Nat := ranges.foldl (fun n w => n + 128 * ceilDiv (srLen w) 128) frameFixed

/-! ### Tile sections (R447) -/

/-- A tile section: the rectangle it covers, ENTRY, the offset and length of each present bank in the image, and its records. -/
structure TileSection where
  x0 : Nat
  x1 : Nat
  y0 : Nat
  y1 : Nat
  entry : BitVec 16
  bank0 : Option (Nat × Nat)
  bank1 : Option (Nat × Nat)
  chans : List (Nat × Word)
  reds : List (Nat × Word)
  bars : List (Nat × BitVec 32)
  streams : List (Nat × List (BitVec 32))
  data : List (BufId × Bool × Nat × Bytes)
deriving DecidableEq, Repr

/-- Round up to the padding of the image's parts (R444). -/
def pad16 (n : Nat) : Nat := 16 * ceilDiv n 16

/-- Records of a fixed size: a number in byte 0, zero bytes up to the entry, and the entry. -/
def tableRecs (b : Bytes) (pos size n : Nat) : List (Nat × Nat) :=
  (upto n).map fun i => (leAt (pos + size * i) (size / 2) b, leAt (pos + size * i + size / 2) (size / 2) b)

/-- The data records of a section: `none` where one is malformed. -/
def dataRecs (b : Bytes) : Nat → Nat → Nat → Option (List (BufId × Bool × Nat × Bytes))
  | 0, _, n => if n = 0 then some [] else none
  | f + 1, pos, n =>
    if n = 0 then some []
    else
      let len := leAt (pos + 8) 4 b
      let buf := bufOf (BitVec.ofNat 2 (leAt pos 1 b))
      let used := 16 + pad16 len
      if n < used ∨ 2 < leAt pos 1 b ∨ 1 < leAt (pos + 1) 1 b ∨ (leAt (pos + 1) 1 b = 1 ∧ buf ≠ .a) ∨ leAt (pos + 2) 2 b ≠ 0
          ∨ leAt (pos + 12) 4 b ≠ 0 ∨ buf.size < leAt (pos + 4) 4 b + len then none
      else
        (dataRecs b f (pos + used) (n - used)).map fun r =>
          (buf, leAt (pos + 1) 1 b == 1, leAt (pos + 4) 4 b, slice (pos + 16) len b) :: r

/-- The section at a position and the position after it: `none` where its layout is malformed (R447). -/
def sectionAt (b : Bytes) (wd ht pos : Nat) : Option (TileSection × Nat) :=
  let at_ (i n : Nat) : Nat := leAt (pos + i) n b
  let len := imgLen b
  let banks := at_ 6 1
  let l0 := at_ 8 4
  let l1 := at_ 12 4
  let has0 := banks % 2 == 1
  let has1 := banks / 2 % 2 == 1
  let entry := at_ 4 2
  let p0 := pos + 32
  let p1 := p0 + pad16 l0
  let pc := p1 + pad16 l1
  let pr := pc + 16 * at_ 16 2
  let pb := pr + 16 * at_ 18 1
  let ps := pb + pad16 (8 * at_ 19 1)
  let pd := ps + 32 * at_ 20 1
  let pe := pd + pad16 (at_ 24 4)
  let chans := (tableRecs b pc 16 (at_ 16 2))
  let reds := (tableRecs b pr 16 (at_ 18 1))
  let bars := (tableRecs b pb 8 (at_ 19 1))
  let strs := (upto (at_ 20 1)).map fun i => (leAt (ps + 32 * i) 8 b, (upto 6).map fun j => BitVec.ofNat 32 (leAt (ps + 32 * i + 8 + 4 * j) 4 b))
  if len < pos + 32 ∨ at_ 1 1 < at_ 0 1 ∨ wd ≤ at_ 1 1 ∨ at_ 3 1 < at_ 2 1 ∨ ht ≤ at_ 3 1 ∨ at_ 7 1 ≠ 0 ∨ at_ 21 3 ≠ 0 ∨ at_ 28 4 ≠ 0
      ∨ 3 < banks ∨ 32768 < l0 ∨ 32768 < l1 ∨ (!has0 ∧ l0 ≠ 0) ∨ (!has1 ∧ l1 ≠ 0) ∨ entry % 2 ≠ 0
      ∨ !(if entry < 32768 then has0 else has1) ∨ len < pe then none
  else if !(chans.all (fun r => decide (r.1 < 256)) && reds.all (fun r => decide (r.1 < 64)) && bars.all (fun r => decide (r.1 < 128))
      && strs.all fun r => decide (r.1 < 16)) then none
  else
    (dataRecs b (at_ 24 4) pd (at_ 24 4)).map fun d =>
      ({ x0 := at_ 0 1, x1 := at_ 1 1, y0 := at_ 2 1, y1 := at_ 3 1, entry := BitVec.ofNat 16 entry
         bank0 := if has0 then some (p0, l0) else none, bank1 := if has1 then some (p1, l1) else none
         chans := chans.map fun r => (r.1, BitVec.ofNat 64 r.2), reds := reds.map fun r => (r.1, BitVec.ofNat 64 r.2)
         bars := bars.map fun r => (r.1, BitVec.ofNat 32 r.2), streams := strs, data := d }, pe)

/-- Does a section cover a region-relative tile? -/
def TileSection.covers (t : TileSection) (x y : Nat) : Bool := decide (t.x0 ≤ x ∧ x ≤ t.x1 ∧ t.y0 ≤ y ∧ y ≤ t.y1)

/-- Do two sections cover a common tile? -/
def TileSection.meets (t u : TileSection) : Bool := decide (t.x0 ≤ u.x1 ∧ u.x0 ≤ t.x1 ∧ t.y0 ≤ u.y1 ∧ u.y0 ≤ t.y1)

/-! ### Table entries -/

/-- A list names no number twice. -/
def noDup : List Nat → Bool
  | [] => true
  | a :: r => !r.contains a && noDup r

/-- A route-table entry is legal by itself (10_fabric.md R280, R282; 12_leaving_module.md R341). -/
def State.chanOk (s : State) (wd ht : Nat) (mods : List (BitVec 12)) (e : Word) : Bool :=
  !chV e || (!(chStatic e && chGw e) && decide (1 ≤ chWin e ∧ chWin e ≤ 64 ∧ chSlot e + chWin e ≤ 512) && bits 0 9 e == 0
    && (if chGw e then mods.contains (chMod e) && !(s.portsTo (chMod e)).isEmpty else decide (chX e < wd ∧ chY e < ht)))

/-- The slots of entries of one direction keep apart (10_fabric.md R280). -/
def slotsOk (es : List Word) : Bool :=
  let of (d : Bool) : List (Nat × Nat) := (es.filter fun e => chV e && chRecv e == d).map fun e => (chSlot e, chWin e)
  disjoint (of false) && disjoint (of true)

/-- The formats an operation accepts (11_exact_reduction.md R308). -/
def redFormats (op i o : Nat) : Bool :=
  match fmtOf (BitVec.ofNat 4 i), fmtOf (BitVec.ofNat 4 o) with
  | some f, some g =>
    let fl := [Fmt.f32, .bf16, .f16, .e4m3, .e5m2]
    let ints := [Fmt.i8, .i16, .i32, .i64]
    (match op with
     | 0 => (Fmt.scl :: fl).contains f && (Fmt.scl :: fl).contains g
     | 1 => ints.contains f && [Fmt.i32, .i64, .scl].contains g
     | 2 | 3 => ints.contains f && f == g
     | 4 | 5 => (ints ++ fl).contains f && f == g
     | _ => false)
  | _, _ => false

/-- A reduction entry is legal by itself (11_exact_reduction.md R305, R308). -/
def redOk (e : Word) : Bool :=
  !reV e || (decide (rePar e ≤ 4) && bits 55 5 e != 0 && decide (1 ≤ reCount e ∧ reCount e ≤ 2 ^ 20)
    && redFormats (reOp e) (reIn e) (reOut e) && bits 0 3 e == 0
    && (if reRing e then rePar e == 0 && reRch e != 255 && decide (2 ≤ reRmod e ∧ reRmod e ≤ 64) else reRch e == 0 && reRmod e == 0))

/-- A barrier entry is legal by itself (11_exact_reduction.md R329). -/
def barOk (e : BitVec 32) : Bool :=
  !bit 31 e || (decide ((bits 28 3 e).toNat ≤ 4) && !(bits 8 16 e == 0 && bits 24 4 e == 0) && bits 0 8 e == 0)

/-- The entries of a section are legal one by one. -/
def State.entriesOk (s : State) (wd ht : Nat) (mods : List (BitVec 12)) (t : TileSection) : Bool :=
  noDup (t.chans.map fun r => r.1) && noDup (t.reds.map fun r => r.1) && noDup (t.bars.map fun r => r.1)
    && t.chans.all (fun r => s.chanOk wd ht mods r.2) && slotsOk (t.chans.map fun r => r.2)
    && t.reds.all (fun r => redOk r.2) && t.bars.all fun r => barOk r.2

/-- The sections in turn (R455): the layout of each (reason 1), which covers no tile of an earlier one and follows it, before its
table entries (reason 5). -/
def State.sections (s : State) (b : Bytes) (wd ht : Nat) (mods : List (BitVec 12)) : Nat → Nat → List TileSection →
    Except Nat (List TileSection)
  | 0, _, acc => .ok acc.reverse
  | n + 1, pos, acc =>
    match sectionAt b wd ht pos with
    | none => .error 1
    | some (t, p) =>
      let after := match acc with
        | [] => true
        | u :: _ => decide (u.y0 * wd + u.x0 < t.y0 * wd + t.x0)
      if !after || acc.any (fun u => u.meets t) then .error 1
      else if !s.entriesOk wd ht mods t then .error 5
      else State.sections s b wd ht mods n p (t :: acc)

/-- The section of a region-relative tile. -/
def sectionOf (ts : List TileSection) (x y : Nat) : Option TileSection := ts.find? fun t => t.covers x y

/-- Is every tile covered (R447)? -/
def coverOk (ts : List TileSection) (wd ht : Nat) : Bool :=
  (upto ht).all fun y => (upto wd).all fun x => (sectionOf ts x y).isSome

/-! ### Trees (11_exact_reduction.md R307, R310, R329) -/

/-- One entry of a tree as the checks see it: its parent port, child ports 0 N to 3 W, the tile's own part, and COUNT. -/
structure TreeEntry where
  par : Nat
  kids : List Nat
  own : Nat
  count : Nat
deriving DecidableEq, Repr

/-- A reduction entry as a tree entry. -/
def redNode (e : Word) : Option TreeEntry :=
  if reV e then some { par := rePar e, kids := reKids e, own := if reL e then 1 else 0, count := reCount e } else none

/-- A barrier entry as a tree entry: COUNT is of local arrivals only, so nothing is added up (11_exact_reduction.md R329). -/
def barNode (e : BitVec 32) : Option TreeEntry :=
  if bit 31 e then
    some { par := (bits 28 3 e).toNat, kids := (upto 4).filter fun p => bit (27 - p) e, own := 0, count := 0 }
  else none

/-- A path of parents from a tile ends at the root within `n` edges. -/
def reachesRoot (ent : Nat → Option TreeEntry) : Nat → Nat → Bool
  | 0, _ => false
  | n + 1, t =>
    match ent t with
    | none => false
    | some e => if e.par = 0 then true else reachesRoot ent n (neighbour t (e.par - 1))

/-- The entries of an id form one tree within the region (11_exact_reduction.md R307); `sums` also checks the COUNTs. -/
def treeOk (tiles : List Nat) (ent : Nat → Option TreeEntry) (sums : Bool) : Bool :=
  let here := tiles.filter fun t => (ent t).isSome
  let edge (t : Nat) (e : TreeEntry) : Bool :=
    (e.kids.all fun p => (match ent (neighbour t p) with
      | some c => c.par == (p + 2) % 4 + 1
      | none => false))
      && (e.par == 0 || (match ent (neighbour t (e.par - 1)) with
        | some q => q.kids.contains ((e.par + 1) % 4)
        | none => false))
  let total (t : Nat) (e : TreeEntry) : Nat :=
    e.kids.foldl (fun n p => n + (match ent (neighbour t p) with
      | some c => c.count
      | none => 0)) e.own
  here.isEmpty || ((here.filter fun t => match ent t with
      | some e => e.par == 0
      | none => false).length == 1
    && here.all fun t => match ent t with
      | none => true
      | some e => edge t e && (!sums || total t e == e.count) && reachesRoot ent here.length t)

/-- The ring channels of a root (11_exact_reduction.md R307). -/
def ringOk (t : TileSection) (e : Word) : Bool :=
  let n := (reRch e).toNat
  let a := SMap.get 0 t.chans n
  let c := SMap.get 0 t.chans (n + 1)
  !(reV e && reRing e) || (chSendWin a && chGw a && (chPch a).toNat == n + 1 && chRecvWin c && chGw c)

/-- The section of an absolute tile of a region placed at (px, py). -/
def placedSection (ts : List TileSection) (px py wd ht t : Nat) : Option TileSection :=
  if px ≤ tileX t ∧ tileX t < px + wd ∧ py ≤ tileY t ∧ tileY t < py + ht then sectionOf ts (tileX t - px) (tileY t - py) else none

/-- The tables of the whole region are consistent (11_exact_reduction.md R307, R310, R329). -/
def tablesOk (ts : List TileSection) (px py wd ht : Nat) (det : Bool) : Bool :=
  let tiles := (upto ht).flatMap fun y => (upto wd).map fun x => 84 * (py + y) + (px + x)
  let red (id : Nat) (t : Nat) : Option Word :=
    (placedSection ts px py wd ht t).bind fun u => (SMap.find? u.reds id).filter fun e => reV e
  let bar (nb : Nat) (t : Nat) : Option (BitVec 32) :=
    (placedSection ts px py wd ht t).bind fun u => (SMap.find? u.bars nb).filter fun e => bit 31 e
  ((upto 64).all fun id => treeOk tiles (fun t => (red id t).bind redNode) true)
    && ((upto 128).all fun nb => treeOk tiles (fun t => (bar nb t).bind barNode) false)
    && (ts.all fun t => t.reds.all fun r => ringOk t r.2)
    && (!det || tiles.all fun t => match red 63 t with
      | some e => reOp e == 3 && fmtOf (BitVec.ofNat 4 (reIn e)) == some .i32 && fmtOf (BitVec.ofNat 4 (reOut e)) == some .i32
      | none => false)

/-- The gateway entries of an image (R509). -/
def gateways (ts : List TileSection) (wd ht : Nat) : List GwEntry :=
  ((upto ht).flatMap fun y => (upto wd).map fun x => (x, y)).flatMap fun (x, y) =>
    match sectionOf ts x y with
    | none => []
    | some t => (t.chans.filter fun r => chV r.2 && chGw r.2).map fun r => { x := x, y := y, ch := BitVec.ofNat 8 r.1, ent := r.2 }

/-- Does an entry of module `a` match one of module `b` in the opposite direction (10_fabric.md R282)? -/
def gwMatch (a b : BitVec 12) (e f : GwEntry) : Bool :=
  chMod e.ent == b && chMod f.ent == a && (chRecv e.ent != chRecv f.ent) && chPch e.ent == f.ch && chPch f.ent == e.ch
    && chX e.ent == f.x && chY e.ent == f.y && chX f.ent == e.x && chY f.ent == e.y

end Sys2Proof.Machine
end

