-- ==== Sys2Proof/Machine/Frames.lean ====
section
/-!
DEFINITION. Save frames (16_launch.md R459-R461; 09_matrix.md R272; 15_sync_time_phases.md R433): what one tile writes, and how a
restore writes it back. Items stand in the order R459 lists them, each in its natural width.
-/

namespace Sys2Proof.Machine

open Sys2Proof

/-! ### Layout helpers -/

/-- Exactly `n` bytes: cut, or padded with zero. -/
def fit (n : Nat) (d : Bytes) : Bytes := d.take n ++ List.replicate (n - d.length) 0

/-- A truth value as a byte. -/
def flagByte (b : Bool) : Bytes := [if b then 1 else 0]

/-- A 64-bit word as bytes. -/
def wordBytes (w : Word) : Bytes := toBytes 8 w.toNat

/-- A 64-bit word of a byte string. -/
def wordAt (b : Bytes) (i : Nat) : Word := BitVec.ofNat 64 (leAt i 8 b)

/-- A flag of a byte string. -/
def flagAt (b : Bytes) (i : Nat) : Bool := leAt i 1 b != 0

/-- A map of `n` entries of `w` bytes at a position, keys 0 to n - 1, listing nothing for zero. -/
def mapAt {m : Nat} (b : Bytes) (pos w n : Nat) : List (Nat × BitVec m) :=
  (upto n).foldl (fun acc k => SMap.set 0 acc k (BitVec.ofNat m (leAt (pos + w * k) w b))) []

/-- A list of numbers, `w` bytes each. -/
def numBytes (w n : Nat) (f : Nat → Nat) : Bytes := (upto n).flatMap fun k => toBytes w (f k)

/-! ### What a tile writes (R459) -/

/-- The value of an instruction's own slot, its first parcel the most significant (02_bundles.md R30). -/
def slotValue (i : Instr) : Nat := ((encode i).getD []).tail.foldl (fun n p => 65536 * n + p.toNat) 0

/-- An HY slot and what it captured: 24 bytes, the slot a little-endian value (00_scope.md R5). -/
def tokenBytes (t : Token) : Bytes :=
  toBytes 6 (slotValue t.instr) ++ fit 16 (t.vals.flatMap wordBytes) ++ flagByte t.bad
    ++ [BitVec.ofNat 8 t.vals.length]

/-- A WN slot and the first of what it captured: 64 bytes. -/
def cmdBytes (c : WCmd) : Bytes :=
  fit 64 (toBytes 12 (slotValue c.op) ++ c.vals.flatMap wordBytes)

/-- The control section: CPC, return stack, visibility, the running block, RB, L, flip state, token count; then, in the rest of the
slot, what the tile needs to stand where it stood: marks of scalar registers, a sequencer past its bank, END, a snapshot due. -/
def State.ctlBytes (s : State) : Bytes :=
  let c := s.t.ctl
  let (lpc, trip, blk, rot, se, sem, loff) := match c.blk with
    | none => (c.lpc.toNat, 0, 0, false, false, (0 : Byte), false)
    | some b => (b.lpc.toNat, b.trip, b.blk.toNat, b.rot, b.se, b.sem, b.off)
  let lat := match s.t.mx.latched with
    | none => 0
    | some l => 2 + l.foldl (fun n e => if e.2 then n + 2 ^ (2 + e.1) else n) 0
  toBytes 2 c.cpc.toNat ++ fit 32 (c.ret.flatMap fun a => toBytes 2 a.toNat) ++ toBytes 1 c.ret.length ++ flagByte c.fv0
    ++ flagByte c.fv1 ++ toBytes 2 lpc ++ toBytes 3 trip ++ toBytes 2 blk ++ flagByte rot ++ flagByte se ++ [sem]
    ++ flagByte c.blk.isSome ++ toBytes 1 c.rb ++ toBytes 1 c.depth ++ toBytes 1 ((if s.t.mx.active then 1 else 0) + lat)
    ++ toBytes 1 c.hq.length ++ toBytes 4 c.xpois.toNat ++ toBytes 4 c.xbad.toNat ++ flagByte c.off ++ flagByte loff
    ++ flagByte (c.fetch == .ended) ++ flagByte (c.after == some .phbegin)

/-- Is a vector register named k written into the frame? -/
def State.vecSaved (s : State) (r : Region) (soft : Bool) (k : Nat) : Bool :=
  liveName s.t.ctl.depth k && (!soft || r.livev.getLsbD k)

/-- The marks of vectors and predicates, by name, and the mask of vector slots saved. -/
def State.markBytes (s : State) (r : Region) (soft : Bool) : Bytes :=
  let l := s.t.lane
  let vm (k : Nat) : Nat :=
    let f := physV s.t.ctl.rb k
    if s.vecSaved r soft k then (SMap.get 0 l.vmark f ||| SMap.get 0 l.vbad f).toNat else 0
  let pm := (upto 16).foldl (fun n k => if SMap.get false l.pmark (physP s.t.ctl.rb k) then n + 2 ^ k else n) 0
  let saved := (upto 96).foldl (fun n k => if s.vecSaved r soft k then n + 2 ^ k else n) 0
  toBytes 48 ((upto 96).foldl (fun n k => n + vm k * 2 ^ (4 * k)) 0) ++ toBytes 2 pm ++ toBytes 12 saved

/-- The predicates of a map, by name under a rotation base. -/
def predBytes (p : List (Nat × BitVec 128)) (rb : Nat) : Bytes := numBytes 16 16 fun k => (SMap.get 0 p (physP rb k)).toNat

/-- Stream registers, 32 bytes each. -/
def streamBytes (st : List (Nat × BitVec 32)) : Bytes :=
  (upto 16).flatMap fun k => fit 32 (numBytes 4 6 fun j => (SMap.get 0 st (streamKey k j)).toNat)

/-- A result queue: its rows, their marks, how many there are, and whether half of the first is popped. -/
def Mx.queueBytes (m : Mx) (q : Nat) : Bytes :=
  let rows := m.queue q
  fit 2048 (rows.flatMap fun r => toBytes 256 r.data.toNat) ++ fit 8 (rows.map fun r => r.marks) ++ toBytes 1 rows.length
    ++ fit 55 (flagByte (SMap.get false m.half q))

/-- Request-queue and ring configurations, with their positions: the words of WRQCFG, and in their zero bits the write position of
a ring, and of a queue's 64-bit read position bits [35:0], [59:36] and [63:60]. -/
def Winch.configBytes (w : Winch) : Bytes :=
  ((upto 4).flatMap fun n =>
      let q := w.rqOf n
      toBytes 8 ((if q.en then 2 ^ 63 else 0) + 2 ^ 61 * q.wq.toNat + 2 ^ 57 * q.lg + (if q.side then 2 ^ 56 else 0)
          + 2 ^ 20 * (q.rd % 2 ^ 36) + q.base)
        ++ toBytes 8 (2 ^ 40 * (q.rd / 2 ^ 36 % 2 ^ 24) + 2 ^ 20 * q.wix + q.rix))
    ++ (upto 4).flatMap fun n =>
      let q := w.crOf n
      wordBytes q.loc ++ toBytes 8 (2 ^ 44 * ((w.rqOf n).rd / 2 ^ 60 % 16) + 2 ^ 4 * q.wp + q.lg)

/-- A shard entry (04_winch.md R119): 16 bytes. -/
def shardBytes (e : Shard) : Bytes :=
  toBytes 8 ((match e.state with
    | .invalid => 0
    | .valid => 1
    | .bad => 2) + 4 * e.off + 2 ^ 32 * e.len) ++ wordBytes e.digest

/-- The shard table. -/
def Winch.shardTable (w : Winch) : Bytes :=
  (upto 64).flatMap fun i => match SMap.find? w.shards i with
    | none => fit 16 []
    | some e => shardBytes e

/-- The refill record of a pair, with its F: 128 bytes. -/
def pairBytes (p : Pair) : Bytes :=
  fit 128 (flagByte p.f ++ fit 7 (flagByte p.refill.isSome) ++ (match p.refill with
    | none => []
    | some r => r.src.flatMap wordBytes ++ r.dst.flatMap wordBytes))

/-- A round (11_exact_reduction.md R326): 16 bytes. -/
def roundBytes (c : Coll) : Bytes :=
  fit 16 (toBytes 1 (match c.state with
    | .idle => 0
    | .opened => 1
    | .aborted => 2) ++ flagByte c.lv ++ toBytes 2 c.rnd.toNat ++ toBytes 2 c.last.toNat ++ [c.lastCode] ++ flagByte c.src
    ++ toBytes 2 c.len ++ toBytes 2 c.cur)

/-- The counters of a channel: 16 bytes. -/
def chanBytes (c : Chan) : Bytes :=
  fit 16 (toBytes 2 c.nxt.toNat ++ toBytes 2 c.ack.toNat ++ toBytes 2 c.exp.toNat ++ toBytes 2 c.con.toNat ++ toBytes 1 c.rsv
    ++ toBytes 1 c.avl ++ toBytes 1 c.clm ++ toBytes 1 c.nak.toNat ++ flagByte c.brk ++ flagByte c.ovr)

/-- The slot of a store that holds a flit (10_fabric.md R280, R283); a static flit takes the position it has in its channel's list. -/
def State.slotOf (s : State) (store : List Slot) (x : Slot) : Nat :=
  let e := s.chEnt x.ch
  if chStatic e then chSlot e + ((findIdx (fun y => y == x) (store.filter fun y => y.ch == x.ch) 0).map fun p => p.1).getD 0
  else chSlot e + x.seq.toNat % max 1 (chWin e)

/-- The payloads of a store, 128 bytes a slot. -/
def State.storeBytes (s : State) (store : List Slot) : Bytes :=
  (upto 512).flatMap fun k => match store.find? fun x => s.slotOf store x == k with
    | none => fit 128 []
    | some x => toBytes 128 x.flit.payload.toNat

/-- The phase snapshot slot (15_sync_time_phases.md R433). -/
def State.snapBytes (s : State) : Bytes :=
  let y := s.t.sync
  match y.snap with
  | none => fit 3072 []
  | some p =>
    let m : Mx := { Mx.reset with srow := p.srow, drow := p.drow, mrow := p.mrow, af := p.af, bf := p.bf, spm := p.spm, sat := p.sat }
    let mask := ((s.t.winch.queued.zip (upto 64)).foldl (fun n x => if x.1.inPhase then n + 2 ^ x.2 else n) 0)
    fit 3072 (numBytes 8 32 (fun k => (SMap.get 0 p.x k).toNat)
      ++ fit 64 (toBytes 2 p.restart.toNat ++ fit 32 (p.ret.flatMap fun a => toBytes 2 a.toNat) ++ toBytes 1 p.ret.length
        ++ toBytes 1 p.rb ++ toBytes 1 p.depth ++ wordBytes m.cfgWord ++ wordBytes p.seed ++ wordBytes p.rn ++ flagByte p.off)
      ++ numBytes 8 16 (fun k => (SMap.get 0 p.q k).toNat)
      ++ predBytes p.p p.rb ++ toBytes 8 ((upto 16).foldl (fun n k => if SMap.get false p.pmark (physP p.rb k) then n + 2 ^ k else n) 0)
      ++ streamBytes p.st ++ numBytes 2 256 (fun k => (SMap.get 0 y.shadow k).toNat) ++ toBytes 8 mask)

/-- The fixed part from offset 0x40 up to the accumulator frames. -/
def State.fixedBytes (s : State) (r : Region) (soft : Bool) : Bytes :=
  let t := s.t
  fit 256 (numBytes 8 32 fun k => (SMap.get 0 t.ctl.x k).toNat)
    ++ fit 128 s.ctlBytes
    ++ fit 64 (wordBytes s.lfpsr ++ wordBytes t.winch.errWord ++ wordBytes t.buf.eccWord ++ wordBytes t.mx.cfgWord
      ++ wordBytes t.mx.sr.word ++ wordBytes t.sync.phst ++ wordBytes t.sync.semst ++ toBytes 8 t.ctl.widw.toNat)
    ++ fit 64 (wordBytes t.sync.dig ++ wordBytes t.sync.run ++ wordBytes t.sync.expd ++ wordBytes t.lane.seed ++ wordBytes t.lane.rn)
    ++ fit 1536 (t.ctl.hq.flatMap tokenBytes)
    ++ numBytes 8 16 (fun k => (SMap.get 0 t.lane.q k).toNat)
    ++ streamBytes t.lane.st
    ++ predBytes t.lane.p t.ctl.rb
    ++ fit 64 (s.markBytes r soft)
    ++ numBytes 128 96 (fun k => if s.vecSaved r soft k then (SMap.get 0 t.lane.v (physV t.ctl.rb k)).toNat else 0)
    ++ (upto 4).flatMap (fun q => t.mx.queueBytes q)
    ++ (upto 256).flatMap (fun k => fit 16 (wordBytes (SMap.get 0 t.mx.desc k)))
    ++ numBytes 8 48 (fun k => (SMap.get 0 t.winch.sh (8 * (k / 6) + k % 6)).toNat)
    ++ fit 128 t.winch.configBytes
    ++ t.winch.shardTable
    ++ fit 4096 (t.winch.queued.flatMap cmdBytes)
    ++ fit 1024 (t.buf.pairs.flatMap pairBytes)
    ++ fit 64 (fit 4 (t.buf.wregs.map fun w => BitVec.ofNat 8 ((if w.gc then 1 else 0) + (if w.ready then 2 else 0)))
      ++ toBytes 4 t.winch.scrubInt.toNat)
    ++ numBytes 2 256 (fun k => (SMap.get 0 t.sync.sem k).toNat)
    ++ numBytes 2 128 (fun k => (SMap.get 0 t.sync.wt k).toNat)
    ++ (upto 128).flatMap (fun k =>
      let b := SMap.get Barrier.zero t.red.bars k
      toBytes 4 b.pend ++ toBytes 4 b.done.toNat)
    ++ (upto 64).flatMap (fun k => roundBytes (SMap.get Coll.zero t.red.colls k))
    ++ (upto 256).flatMap (fun k => chanBytes (SMap.get Chan.zero t.fab.chans k))
    ++ fit 0x1C0 []
    ++ s.storeBytes t.fab.sendStore
    ++ s.storeBytes t.fab.recvStore

/-- The bytes of a save range as they stand, with their poison; A through its logical side (R446). -/
def State.rangeAddrs (s : State) (w : Word) : List Nat :=
  match srBuf w with
  | .a => (run (srOff w) (srLen w)).map fun o => s.t.buf.aAddr (srSide w) o
  | b => run (BufId.base b false + srOff w) (srLen w)

/-- Is a range saved under a kind of save? -/
def rangeSaved (soft : Bool) (w : Word) : Bool := if soft then srSoft w else srForced w

/-- The accumulator frames: all under a forced save, those in LIVEF under a soft one. -/
def State.frameBytes (s : State) (r : Region) (soft : Bool) : List (Byte × Bool) :=
  (upto 4).flatMap fun f =>
    if !soft || r.livef.getLsbD f then
      (run (0x300000 + 0x4000 * f) 0x4000).map fun a => (s.t.buf.byte a, s.t.buf.poisoned a)
    else clean (List.replicate 0x4000 0)

/-- A whole save frame of the present tile (R459). -/
def State.frame (s : State) (r : Region) (kind : Nat) : List (Byte × Bool) × State :=
  let soft := kind == 1
  let (b, ev) := s.t.buf.touch (run 0x300000 0x10000)
  let s := (s.modBuf fun _ => b).rowEvents ev
  let (ranges, s) := r.ranges.foldl (fun (acc : List (Byte × Bool) × State) w =>
    if rangeSaved soft w then
      let (bs, s) := acc.2.readAt (acc.2.rangeAddrs w)
      (acc.1 ++ bs, s)
    else (acc.1 ++ clean (List.replicate (srLen w) 0), acc.2)) ([], s)
  let body := clean (s.fixedBytes r soft) ++ s.frameBytes r soft ++ clean s.snapBytes ++ ranges
  let head := toBytes 4 0x46534E47 ++ toBytes 4 kind ++ toBytes 4 (r.index s.here) ++ toBytes 4 0 ++ wordBytes r.imgid
    ++ wordBytes r.lltv ++ toBytes 8 (64 + body.length) ++ toBytes 4 (crc32c (body.map fun x => x.1)).toNat
  (clean (fit 64 head) ++ body, s)

/-- The far virtual address of the frame of the present tile. -/
def Region.frameVa (r : Region) (i : Nat) : Nat := r.sfbase + i * r.sfstr * 4096

/-- Key of what is kept beside a frame. -/
def Region.frameKey (r : Region) (i : Nat) : Nat := r.asid.toNat * 2 ^ 64 + r.frameVa i

/-- What the layout has no room for; tiles are named by their index in the region, since the origin may move. -/
def State.frameRest (s : State) (r : Region) : FrameRest :=
  { cmds := s.t.winch.queued, sendStore := s.t.fab.sendStore, recvStore := s.t.fab.recvStore
    fills := s.t.buf.pairs.map fun p => (p.writes, p.only)
    ramos := s.t.fab.ramos, held := s.t.fab.held.map fun q => (r.index q.src, q)
    granted := s.t.ctl.granted.filter fun g => g.1 == .accept || g.1 == .arrived || g.1 == .sm, commit := s.t.sync.commit
    closing := s.t.sync.closing, codes := s.t.winch.shards.map fun e => (e.1, e.2.code) }

/-! ### The checks of a restore (R460) -/

/-- A frame as its header and contents give it: MAGIC, the CRC and the image it belongs to. -/
def frameOk (imgid baseid : Word) (b : Bytes) : Bool :=
  leAt 0 4 b == 0x46534E47 && (wordAt b 16 == imgid || wordAt b 16 == baseid) && leAt 32 8 b == b.length
    && leAt 40 4 b == (crc32c (b.drop 64)).toNat

/-! ### Writing a frame back (R460, R461) -/

/-- MXCFG (09_matrix.md R268) written back. -/
def Mx.putCfg (m : Mx) (w : Word) : Mx :=
  { m with
    srow := bits 25 7 w, drow := bits 19 6 w, mrow := bits 13 6 w, af := (fmtOf (bits 9 4 w)).getD .bf16
    bf := (fmtOf (bits 5 4 w)).getD .bf16, spm := bits 3 2 w, sat := bit 2 w }

/-- MXSR (09_matrix.md R269) written back. -/
def mxsrOf (w : Word) : Mxsr :=
  { mis := bits 48 16 w, fk := bits 42 6 w, fn := bits 36 6 w, fv := bit 35 w, ck := bits 29 6 w, nv := bit 3 w, ovf := bit 2 w
    unf := bit 1 w, nx := bit 0 w }

/-- Predicates written back by name. -/
def predsAt (b : Bytes) (pos rb : Nat) : List (Nat × BitVec 128) :=
  (upto 16).foldl (fun acc k => SMap.set 0 acc (physP rb k) (BitVec.ofNat 128 (leAt (pos + 16 * k) 16 b))) []

/-- Predicate marks written back by name. -/
def pmarksAt (n rb : Nat) : List (Nat × Bool) := (upto 16).foldl (fun acc k => SMap.set false acc (physP rb k) (n.testBit k)) []

/-- Stream registers written back. -/
def streamsAt (b : Bytes) (pos : Nat) : List (Nat × BitVec 32) :=
  (upto 96).foldl (fun acc k =>
    SMap.set 0 acc (streamKey (k / 6) (k % 6)) (BitVec.ofNat 32 (leAt (pos + 32 * (k / 6) + 4 * (k % 6)) 4 b))) []

/-- A return stack of a depth. -/
def stackAt (b : Bytes) (pos n : Nat) : List (BitVec 16) := (upto n).map fun i => BitVec.ofNat 16 (leAt (pos + 2 * i) 2 b)

/-- A token written back. -/
def tokenAt (b : Bytes) (pos now : Nat) : Option Token :=
  let x : BitVec 48 := BitVec.ofNat 48 (leAt pos 6 b)
  let vals := (upto (leAt (pos + 23) 1 b)).map fun i => wordAt b (pos + 6 + 8 * i)
  (parseHy x (vals.headD 0)).map fun i => { instr := i, vals := vals, enq := now, bad := flagAt b (pos + 22) }

/-- The control section written back. -/
def Ctl.putFrame (c : Ctl) (b : Bytes) (now : Nat) : Ctl :=
  let p := 0x140
  let run := flagAt b (p + 47)
  { c with
    x := (upto 31).foldl (fun acc k => SMap.set 0 acc (k + 1) (wordAt b (0x48 + 8 * k))) []
    cpc := BitVec.ofNat 16 (leAt p 2 b), ret := stackAt b (p + 2) (leAt (p + 34) 1 b)
    fv0 := flagAt b (p + 35), fv1 := flagAt b (p + 36)
    blk :=
      if run then
        some
          { lpc := BitVec.ofNat 16 (leAt (p + 37) 2 b), trip := leAt (p + 39) 3 b, blk := BitVec.ofNat 15 (leAt (p + 42) 2 b)
            rot := flagAt b (p + 44), se := flagAt b (p + 45), sem := BitVec.ofNat 8 (leAt (p + 46) 1 b), off := flagAt b (p + 61)
            since := now }
      else none
    lpc := if run then c.lpc else BitVec.ofNat 16 (leAt (p + 37) 2 b)
    rb := leAt (p + 48) 1 b, depth := leAt (p + 49) 1 b
    hq := (upto (leAt (p + 51) 1 b)).filterMap fun k => tokenAt b (0x240 + 24 * k) now
    xpois := BitVec.ofNat 32 (leAt (p + 52) 4 b), xbad := BitVec.ofNat 32 (leAt (p + 56) 4 b), off := flagAt b (p + 60)
    fetch := if flagAt b (p + 62) then .ended else .notStarted
    after := if flagAt b (p + 63) then some .phbegin else none
    widw := BitVec.ofNat 42 (leAt (0x1C0 + 56) 8 b) }

/-- The lane registers written back. -/
def Lane.putFrame (l : Lane) (b : Bytes) (rb : Nat) : Lane :=
  let lf := wordAt b 0x1C0
  let mask := leAt (0xBC0 + 50) 12 b
  let names := (upto 96).filter fun k => mask.testBit k
  { l with
    v := names.foldl (fun acc k => SMap.set 0 acc (physV rb k) (BitVec.ofNat 1024 (leAt (0xC00 + 128 * k) 128 b))) []
    vmark := names.foldl (fun acc k => SMap.set 0 acc (physV rb k) (BitVec.ofNat 4 (leAt 0xBC0 48 b / 2 ^ (4 * k)))) []
    vbad := [], p := predsAt b 0xAC0 rb, pmark := pmarksAt (leAt (0xBC0 + 48) 2 b) rb, q := mapAt b 0x840 8 16
    st := streamsAt b 0x8C0, seed := wordAt b (0x200 + 24), rn := wordAt b (0x200 + 32), drm := bits 32 3 lf, flags := bits 0 20 lf }

/-- A result queue written back. -/
def rqAt (b : Bytes) (pos : Nat) : List RqRow :=
  (upto (leAt (pos + 2056) 1 b)).map fun i =>
    { data := BitVec.ofNat 2048 (leAt (pos + 256 * i) 256 b), marks := BitVec.ofNat 8 (leAt (pos + 2048 + i) 1 b) }

/-- The matrix array written back, its planes still empty. -/
def Mx.putFrame (m : Mx) (b : Bytes) : Mx :=
  let flip := leAt (0x140 + 50) 1 b
  let m := m.putCfg (wordAt b (0x1C0 + 24))
  { m with
    sr := mxsrOf (wordAt b (0x1C0 + 32)), active := flip % 2 == 1
    latched := if flip.testBit 1 then some ((upto 4).map fun i => (i, flip.testBit (2 + i))) else none
    rq := (upto 4).foldl (fun acc q => SMap.set [] acc q (rqAt b (0x3C00 + 2112 * q))) []
    half := (upto 4).foldl (fun acc q => SMap.set false acc q (flagAt b (0x3C00 + 2112 * q + 2057))) [] }

/-- The Winch written back, but for its commands. -/
def Winch.putFrame (w : Winch) (b : Bytes) (codes : List (Nat × Word)) (now : Nat) : Winch :=
  let err := wordAt b (0x1C0 + 8)
  let int := BitVec.ofNat 32 (leAt (0x8700 + 4) 4 b)
  { w with
    sh := (upto 48).foldl (fun acc k => SMap.set 0 acc (8 * (k / 6) + k % 6) (wordAt b (0x6D00 + 8 * k))) []
    errEn := bits 32 4 err, errSem := bits 0 32 err
    rq := (upto 4).foldl (fun acc n =>
      let x := wordAt b (0x6E80 + 16 * n)
      let y := wordAt b (0x6E80 + 16 * n + 8)
      let z := wordAt b (0x6EC0 + 16 * n + 8)
      SMap.set ReqQueue.zero acc n
        { en := bit 63 x, wq := bits 61 2 x, lg := (bits 57 4 x).toNat, side := bit 56 x, base := (bits 0 20 x).toNat
          wix := (bits 20 20 y).toNat, rix := (bits 0 20 y).toNat
          rd := (bits 20 36 x).toNat + 2 ^ 36 * (bits 40 24 y).toNat + 2 ^ 60 * (bits 44 4 z).toNat }) []
    cr := (upto 4).foldl (fun acc n =>
      let y := wordAt b (0x6EC0 + 16 * n + 8)
      SMap.set ComplRing.zero acc n
        { loc := wordAt b (0x6EC0 + 16 * n), lg := (bits 0 4 y).toNat, wp := (bits 4 12 y).toNat }) []
    shards := (upto 64).foldl (fun acc n =>
      let x := wordAt b (0x6F00 + 16 * n)
      let st : ShardState := if bits 0 2 x == 1 then .valid else if bits 0 2 x == 2 then .bad else .invalid
      if x == 0 then acc
      else
        SMap.put acc n
          { state := st, off := (bits 2 30 x).toNat, len := (bits 32 32 x).toNat, digest := wordAt b (0x6F00 + 16 * n + 8)
            code := SMap.get 0 codes n }) []
    scrubInt := int, scrubDue := now + int.toNat, checking := none }

/-- The pairs and weight regions written back. -/
def Buf.putFrame (u : Buf) (b : Bytes) (fills : List (Nat × Option Refill)) : Buf :=
  let ecc := wordAt b (0x1C0 + 16)
  { u with
    iparc := bits 48 16 ecc, frfix := bits 32 16 ecc, unc := bits 16 16 ecc, cor := bits 0 16 ecc
    pairs := (u.pairs.zip (upto 8)).map fun (p, i) =>
      let q := 0x8300 + 128 * i
      let words (k : Nat) : List Word := (upto 6).map fun j => wordAt b (q + 8 + 48 * k + 8 * j)
      let (n, only) := fills.getD i (0, none)
      { p with
        f := flagAt b q, writes := n, only := only
        refill := if flagAt b (q + 1) then some { src := words 0, dst := words 1 } else none }
    wregs := (u.wregs.zip (upto 4)).map fun (w, i) =>
      { w with gc := leAt (0x8700 + i) 1 b % 2 == 1, ready := leAt (0x8700 + i) 1 b / 2 % 2 == 1 } }

/-- The channels and stores written back: payloads from the frame, what else a flit carries from beside it. -/
def State.putFabric (s : State) (b : Bytes) (x : FrameRest) : State :=
  let chan (k : Nat) : Chan :=
    let p := 0x9240 + 16 * k
    { nxt := BitVec.ofNat 16 (leAt p 2 b), ack := BitVec.ofNat 16 (leAt (p + 2) 2 b), exp := BitVec.ofNat 16 (leAt (p + 4) 2 b)
      con := BitVec.ofNat 16 (leAt (p + 6) 2 b), rsv := leAt (p + 8) 1 b, avl := leAt (p + 9) 1 b, clm := leAt (p + 10) 1 b
      nak := BitVec.ofNat 6 (leAt (p + 11) 1 b), brk := flagAt b (p + 12), ovr := flagAt b (p + 13), moved := 0 }
  let fill (pos : Nat) (store : List Slot) : List Slot :=
    store.map fun y =>
      { y with flit := { y.flit with payload := BitVec.ofNat 1024 (leAt (pos + 128 * s.slotOf store y) 128 b) } }
  s.modFab fun f =>
    { f with
      chans := (upto 256).foldl (fun acc k =>
        let c := chan k
        SMap.set Chan.zero acc k (if c == Chan.zero then c else { c with moved := s.cycle })) []
      sendStore := fill 0xA400 x.sendStore, recvStore := fill 0x1A400 x.recvStore }

/-- Rounds and barriers written back: the reports of a barrier's children start again from DONE. -/
def Red.putFrame (r : Red) (b : Bytes) : Red :=
  { r with
    colls := (upto 64).foldl (fun acc k =>
      let p := 0x8E40 + 16 * k
      SMap.set Coll.zero acc k
        { Coll.zero with
          state := if leAt p 1 b == 1 then .opened else if leAt p 1 b == 2 then .aborted else .idle
          lv := flagAt b (p + 1), rnd := BitVec.ofNat 16 (leAt (p + 2) 2 b), last := BitVec.ofNat 16 (leAt (p + 4) 2 b)
          lastCode := BitVec.ofNat 8 (leAt (p + 6) 1 b), src := flagAt b (p + 7), len := leAt (p + 8) 2 b, cur := leAt (p + 10) 2 b }) []
    bars := r.bars.map fun (k, e) =>
      let done := BitVec.ofNat 16 (leAt (0x8A40 + 8 * k + 4) 4 b)
      (k, { e with
            pend := leAt (0x8A40 + 8 * k) 4 b, done := done, sent := done
            kids := e.children.foldl (fun m p => SMap.set 0 m p done) [] }) }

/-- The snapshot written back (15_sync_time_phases.md R433). -/
def snapAt (b : Bytes) : Snap :=
  let p := 0x3A400
  let q := p + 256
  let m := Mx.reset.putCfg (wordAt b (q + 37))
  let rb := leAt (q + 35) 1 b
  { x := (upto 31).foldl (fun acc k => SMap.set 0 acc (k + 1) (wordAt b (p + 8 + 8 * k))) []
    ret := stackAt b (q + 2) (leAt (q + 34) 1 b), restart := BitVec.ofNat 16 (leAt q 2 b), off := flagAt b (q + 61)
    q := mapAt b (p + 320) 8 16, p := predsAt b (p + 448) rb, pmark := pmarksAt (leAt (p + 704) 8 b) rb, st := streamsAt b (p + 712)
    rb := rb, depth := leAt (q + 36) 1 b, seed := wordAt b (q + 45), rn := wordAt b (q + 53), srow := m.srow, drow := m.drow
    mrow := m.mrow, af := m.af, bf := m.bf, spm := m.spm, sat := m.sat }

/-- Semaphores, tickets, phase and digests written back. -/
def Sync.putFrame (y : Sync) (b : Bytes) : Sync :=
  let ph := wordAt b (0x1C0 + 40)
  let se := wordAt b (0x1C0 + 48)
  let inph := bit 61 ph
  { y with
    sem := mapAt b 0x8740 2 256, wt := mapAt b 0x8940 2 128, ov := bit 63 se, ovSem := bits 0 8 se, inph := inph, esc := bit 60 ph
    cnc := bits 32 16 ph, phn := bits 0 32 ph, dig := wordAt b 0x200, run := wordAt b 0x208, expd := wordAt b 0x210
    snap := if inph then some (snapAt b) else none, shadow := if inph then mapAt b (0x3A400 + 1224) 2 256 else [] }

/-- Load a row of either plane (09_matrix.md R272). -/
def Mx.loadPlaneOf (m : Mx) (p : Bool) (l : Nat) (cells : List Nat) (scales : Option (List Nat)) (foul bad : Bool) (desc : Word) : Mx :=
  { { m with active := !p }.loadPlane l cells scales foul bad desc with active := m.active }

/-- Rebuild one plane row from its source descriptor (09_matrix.md R272): bytes that have changed load poisoned, with event 0x32. -/
def State.rebuildRow (s : State) (p : Bool) (l : Nat) (d : Word) : State :=
  let poisoned (s : State) : State :=
    s.modMx fun m => m.loadPlaneOf p l [] (if m.bf == .hb4 && l % 8 == 0 then some [] else none) true true (planeDesc 3 0 0 0)
  match (bits 62 2 d).toNat with
  | 1 =>
    s.modMx fun m => m.loadPlaneOf p l [] (if m.bf == .hb4 && l % 8 == 0 then some [] else none) false false d
  | 2 =>
    let off := (bits 42 20 d).toNat
    let len := (bits 32 10 d).toNat
    let (bs, s) := s.readAt (run (BufId.base .w false + off) (16 * len))
    if anyPoison bs || crc32c (bs.map fun x => x.1) != bits 0 32 d then
      (poisoned s).tileEvent 0x32 (BitVec.ofNat 64 (l + if p then 128 else 0)) 0
    else
      let (mask, sc, _) := recordHead (valueOf bs) (s.t.mx.bf == .hb4) l
      let (cells, scales) := recordCells (valueOf bs) mask sc
      s.modMx fun m => m.loadPlaneOf p l cells scales false false d
  | 3 => poisoned s
  | _ => s

/-- Rebuild both planes, and what the spare row mirrors (09_matrix.md R270). -/
def State.rebuildPlanes (s : State) (b : Bytes) : State :=
  ((upto 256).foldl (fun s k => s.rebuildRow (decide (128 ≤ k)) (k % 128) (wordAt b (0x5D00 + 16 * k))) s).modMx Mx.mirror

/-- Saved ranges and accumulator frames written back. -/
def State.putRanges (s : State) (r : Region) (soft : Bool) (d : List (Byte × Bool)) : State :=
  let s := s.modBuf fun u => u.write (cellsOf 0x300000 ((d.drop 0x2A400).take 0x10000))
  (r.ranges.foldl (fun (acc : Nat × State) w =>
    let bs := (d.drop acc.1).take (srLen w)
    let s := acc.2
    (acc.1 + srLen w,
      if rangeSaved soft w then s.modBuf fun u => u.write (((s.rangeAddrs w).zip bs).map fun (a, x) => (a, x.1, x.2)) else s))
    (frameFixed, s)).2

/-- The commands of a frame re-enter their queues in their former order (04_winch.md R127). -/
def State.putCommands (s : State) (b : Bytes) (cmds : List WCmd) : State :=
  let mask := leAt (0x3A400 + 1736) 8 b
  s.modWinch fun w =>
    { w with
      nextId := w.nextId + cmds.length
      queued := (cmds.zip (upto cmds.length)).map fun (c, i) => { c with id := w.nextId + i, inPhase := mask.testBit i } }

/-- Write a frame back to the present tile. -/
def State.putFrame (s : State) (r : Region) (d : List (Byte × Bool)) (x : FrameRest) : State :=
  let b := d.map fun e => e.1
  let now := s.cycle
  let s := s.modT fun t =>
    { t with
      ctl := { t.ctl.putFrame b now with granted := x.granted }, mx := t.mx.putFrame b, winch := t.winch.putFrame b x.codes now
      buf := t.buf.putFrame b x.fills, red := t.red.putFrame b
      sync :=
        { t.sync.putFrame b with
          commit := x.commit, closing := x.closing, pcp := x.closing + (x.cmds.filter fun c => c.info.pc).length } }
  let rb := s.t.ctl.rb
  let s := s.modLane fun l => l.putFrame b rb
  let s := (s.putFabric b x).modFab fun f =>
    { f with
      ramos := x.ramos, nextRid := max f.nextRid (x.ramos.foldl (fun n o => max n (o.rid + 1)) 0)
      held := x.held.map fun (i, q) => { q with src := r.tiles.getD i q.src } }
  ((s.putRanges r (leAt 4 4 b == 1) d).rebuildPlanes b).putCommands b x.cmds

end Sys2Proof.Machine
end

