-- ==== Sys2Proof/Machine/Launch.lean ====
section
/-!
DEFINITION. Launches: records, the distributor, binding and start, release, pre-emption and teardown (16_launch.md R448-R462).
-/

namespace Sys2Proof.Machine

open Sys2Proof

/-! ### Launch records (R449, R454) -/

/-- A launch record: slot bytes 8 to 255. -/
def recAt (b : Bytes) (i n : Nat) : Nat := leAt (i - 8) n b
/-- IMGVA. -/
def recVa (b : Bytes) : Nat := recAt b 8 8
/-- ASID. -/
def recAsid (b : Bytes) : BitVec 16 := BitVec.ofNat 16 (recAt b 16 2)
/-- PX. -/
def recPx (b : Bytes) : Nat := recAt b 18 1
/-- PY. -/
def recPy (b : Bytes) : Nat := recAt b 19 1
/-- DQ. -/
def recDq (b : Bytes) : Nat := recAt b 20 1
/-- RST. -/
def recRst (b : Bytes) : Bool := recAt b 21 1 % 2 == 1
/-- PRE. -/
def recPre (b : Bytes) : Bool := recAt b 21 1 / 2 % 2 == 1
/-- MM. -/
def recMm (b : Bytes) : Bool := recAt b 21 1 / 4 % 2 == 1
/-- EXT0 to EXT5. -/
def recExt (b : Bytes) : List Nat := (upto 6).map fun j => recAt b (24 + 4 * j) 4
/-- SFBASE. -/
def recSfbase (b : Bytes) : Nat := recAt b 48 8
/-- SFSTR. -/
def recSfstr (b : Bytes) : Nat := recAt b 56 4
/-- NMOD. -/
def recNmod (b : Bytes) : Nat := recAt b 60 2
/-- MODS. -/
def recMods (b : Bytes) : List Nat := (upto (recNmod b)).map fun i => recAt b (72 + 2 * i) 2

/-- Numbers in increasing order. -/
def increasing : List Nat → Bool
  | a :: c :: r => decide (a < c) && increasing (c :: r)
  | _ => true

/-- The checks of a record at its arrival (R449). -/
def recordOk (modno : Nat) (b : Bytes) : Bool :=
  recVa b % 4096 == 0 && recAsid b != 0 && ((recPx b == 0xFF) == (recPy b == 0xFF)) && decide (recDq b < 16)
    && decide (recAt b 21 1 < 8) && decide (10 ≤ recAt b 23 1 ∧ recAt b 23 1 ≤ 30) && recSfbase b % 4096 == 0
    && decide (1 ≤ recNmod b ∧ recNmod b ≤ 64) && (recMm b || recNmod b == 1) && recAt b 62 2 == 0
    && increasing (recMods b) && (recMods b).contains modno && ((recMods b).all fun m => decide (m < 4096))
    && ((slice (64 + 2 * recNmod b) (128 - 2 * recNmod b) b).all fun x => x == 0) && (slice 192 56 b).all fun x => x == 0

/-- Update the distributor. -/
def State.modDist (s : State) (f : Dist → Dist) : State := s.modCtrl fun c => { c with dist := f c.dist }

/-- LREC (R449, R454): the record joins its queue of 256, and the command completes when the launch ends. -/
def execLrec (fn : BitVec 2) (slot : BitVec 4) (s : State) : Out :=
  .next (s.mailbox fn slot 0x10 fun s =>
    let b := s.slotBytes fn slot 8 248
    if !recordOk s.ctrl.modno.toNat b then s.refuse fn slot 0xC9
    else
      let q := recDq b
      let tag := s.slotTag fn slot
      if (SMap.get [] s.ctrl.dist.queues q).length ≥ 256 then s.answer fn slot 3 0
      else
        (s.modDist fun d =>
          { d with
            queues := SMap.set [] d.queues q (SMap.get [] d.queues q ++ [b])
            fns := SMap.set [] d.fns q (SMap.get [] d.fns q ++ [(fn, slot, tag)]) }).accepted fn slot)

/-- QPRIO (R452, R454): PRIO and EFF of a queue at once, its aging restarted. -/
def execQprio (fn : BitVec 2) (slot : BitVec 4) (s : State) : Out :=
  .next (s.mailbox fn slot 0x11 fun s =>
    let q := (s.slotByte fn slot 8).toNat
    let p := (s.slotByte fn slot 9).toNat
    if 16 ≤ q ∨ 16 ≤ p then s.refuse fn slot 0xC9
    else
      (s.modDist fun d =>
        { d with prio := SMap.set 0 d.prio q p, eff := SMap.set 0 d.eff q p, waitc := SMap.set 0 d.waitc q 0 }).done fn slot [])

/-! ### The end of a region (R456, R462; 03_far_memory.md R89) -/

/-- The completion event of a region's LREC (R454, R456, R462). -/
def State.lrecDone (s : State) (r : Region) (err : Bool) : State := s.completed r.fn r.slot 0x10 r.tag err (r.id.setWidth 64)

/-- The present tile stands idle until its next launch; its I-store and residency tags stay. Nothing of its region goes out again. -/
def State.vacate (s : State) : State :=
  ((((s.modCtl fun c =>
    { c with
      fetch := .notStarted, frozen := false, waits := [], granted := [], hq := [], blk := none, after := none, softStop := false
      wshp := [] }).modLane fun l => { l with pending := [], sigs := [], held := [], stop := false }).modWinch fun w =>
    { w with queued := [], running := [], rq := [], scrubInt := 0 }).modFab fun f => { f with naked := [] }).modRed fun x =>
    { x with outs := [] }

/-- Is a turn a negative acknowledgement on its way to a tile of a region? -/
def nakTurn (r : Region) : Turn → Bool
  | .auto t (.nak _) => r.has t
  | _ => false

/-- What is on its way within a region leaves the fabric: no access of the region is performed after the controller's writes that follow
(14_memory_model.md R420; DEDUCED, notes/assumptions/143.md). -/
def State.clearTraffic (s : State) (r : Region) : State :=
  { s with
    net := s.net.filter fun p => p.via.isSome || !(r.has p.src || r.has p.dest)
    agenda := s.agenda.filter fun x => !nakTurn r x }

/-- A region leaves: its tiles are free, its traffic goes, and its ASID is invalidated unless another live region holds it
(03_far_memory.md R89). -/
def State.dropRegion (s : State) (r : Region) : State :=
  let s := if r.live then (r.tiles.foldl (fun s t => s.atTile t State.vacate) s).clearTraffic r else s
  let s := s.modCtrl fun c =>
    { c with
      regions := c.regions.filter fun x => x.id != r.id
      launches := if r.mm then c.launches.filter fun l => l.lid != r.lid else c.launches }
  if s.ctrl.regions.any fun x => x.live && x.asid == r.asid then s
  else s.beginInval { kind := 1, asid := r.asid, base := 0, pages := 0, tag := 0, fn := 0, slot := none }

/-- Is an ASID still being invalidated for a region that has left (03_far_memory.md R89)? -/
def State.asidBusy (s : State) (a : BitVec 16) : Bool := (s.far.invals ++ s.far.invalWait).any fun v => v.slot.isNone && v.asid == a

/-- Teardown (R462): started commands end with 0x4C, unstarted ones are discarded (04_winch.md R127), rounds end with 0xA6
(11_exact_reduction.md R326), the tiles are released, and event 0xE4 carries the cause. -/
def State.teardown (s : State) (id : BitVec 16) (cause : Byte) : State :=
  match s.regionOf id with
  | none => s
  | some r =>
    let s := if r.live then r.tiles.foldl (fun s t => s.atTile t fun s => s.abortWinch.endRounds) s else s
    let s := s.dropRegion r
    let s := s.regionEvent r 0xE4 3 0 (cause.setWidth 64) 0
    let s := if r.state == .saved && r.err then s else s.lrecDone r true
    (s.finish (fun d => d.opc == 0x13 && d.region == id) false 0).finish (fun d => d.opc == 0x12 && d.region == id) true 0

/-- A launch ends when every tile of its region is released (R456). -/
def State.launchEnd (s : State) (r : Region) : State :=
  let s := s.dropRegion r
  let s := s.lrecDone r false
  (s.finish (fun d => d.opc == 0x13 && d.region == r.id) false 0).finish (fun d => d.opc == 0x12 && d.region == r.id) false 0

/-! ### Saving (R457, R458) -/

/-- Write the frame of the present tile (R459); a translation fault tears the region down with event 0xE3. -/
def State.saveTile (s : State) (r : Region) (kind : Nat) : State :=
  let i := r.index s.here
  let rest := s.frameRest r
  let (d, s) := s.frame r kind
  let (ok, s) := s.writeFar r.asid (r.frameVa i) d
  if ok then s.modCtrl fun c => { c with saves := SMap.put c.saves (r.frameKey i) rest }
  else (s.regionEvent r 0xE3 3 0 (BitVec.ofNat 64 i) 0).teardown r.id 0xE3

/-- Is something of the region a barrier flit in flight (11_exact_reduction.md R331)? -/
def State.barrierFlying (s : State) (r : Region) : Bool :=
  (s.net.any fun p => r.has p.src && (match p.body with
    | .coll _ f => f.typ == 6 || f.typ == 7
    | .detour .. => true
    | _ => false)) || r.tiles.any fun t => (s.tile t).red.outs.any fun e => decide (512 ≤ e.1)

/-- Has the present tile nothing left to wait for by itself (R127, R458 step 3): no command runs, and every RAMO that returns before
the phase barrier has its response? -/
def State.tileQuiet (s : State) : Bool := s.t.winch.running.isEmpty && s.t.fab.ramos.all fun o => o.det || o.resp.isSome

/-- Is no flit of the region on a link or in a switch queue (R458 step 4)? -/
def State.regionQuiet (s : State) (r : Region) : Bool :=
  !(s.net.any fun p => r.has p.src || (p.via.isNone && r.has p.dest))

/-- The save of a region is complete (R459, R474): event 0xE1, the completions, and a request that waited. -/
def State.saveDone (s : State) (id : BitVec 16) : State :=
  match s.regionOf id with
  | none => s
  | some r =>
    let s := (r.tiles.foldl (fun s t => s.atTile t State.vacate) s).clearTraffic r
    let s := s.modRegion id fun x => { x with state := .saved, deadline := none }
    let s := s.regionEvent r 0xE1 3 0 (r.kind.setWidth 64) 0
    let s := s.finish (fun d => d.opc == 0x12 && d.region == id) false 0
    let s := if r.err then s.lrecDone r true else s
    if r.want == 3 then s.teardown id 0 else s

/-- The frames of a region's tiles are written, as many as can be before one fails: soft for a tile that reached its point, else forced
(R457). -/
def State.saveAll (s : State) (id : BitVec 16) : List Nat → State
  | [] => s.saveDone id
  | t :: rest =>
    match s.regionOf id with
    | none => s
    | some r => (s.atTile t fun s => s.saveTile r (if r.savedTiles.contains t then 1 else 2)).saveAll id rest

/-- Steps 1 and 2 of R458 at the present tile, with its rounds ended; a handler finishes first (17_faults_repair.md R473),
and so does a phase cancellation. -/
def State.forceTile (s : State) : State :=
  if s.t.ctl.trap.hnd || s.t.sync.canceling then s
  else
    let s := if s.t.ctl.frozen then s else s.freeze.endRounds
    s.modCtl fun c => { c with softStop := false }

/-- FORCED_PREEMPTION (R458): one attempt of its steps. The frames are written when every tile has finished step 4. -/
def execForcedPreemption (region : BitVec 16) (s : State) : Out :=
  match s.regionOf region with
  | none => .next s
  | some r =>
    if r.state != .forcedSaving then .next s
    else
      let left := r.tiles.filter fun t => !r.savedTiles.contains t
      let s := left.foldl (fun s t => s.atTile t State.forceTile) s
      let ready := left.all fun t => (s.tile t).ctl.frozen && ({ s with here := t }).tileQuiet
      if ready && s.regionQuiet r then .next (s.saveAll region r.tiles) else .next s

/-- A forced pre-emption begins (R458); on an image with static channels it is a soft one. -/
def State.startForced (s : State) (id : BitVec 16) : State :=
  (s.modRegion id fun r => { r with state := .forcedSaving, kind := 2, serial := none, deadline := none }).auto (.saveStep id)

/-- A soft pre-emption begins, with its deadline (R457). -/
def State.startSoft (s : State) (id : BitVec 16) : State :=
  let now := s.cycle
  s.modRegion id fun r =>
    if r.state == .running then { r with state := .softSaving, kind := 1, deadline := some (now + 2 ^ r.spdl) } else r

/-- Is a splice of some tile of a region under way (17_faults_repair.md R481)? -/
def State.splicing (s : State) (r : Region) : Bool := s.ctrl.splices.any fun p => p.stage != 0 && r.has p.tile

/-- Must a request wait until what is under way completes (R462)? -/
def State.engaged (s : State) (r : Region) : Bool := r.state == .binding || r.state == .forcedSaving || s.splicing r

/-- A request meets a region (R462): 1 soft, 2 forced, 3 teardown. It acts now, or the strongest one waits. -/
def State.request (s : State) (r : Region) (want : BitVec 2) : State :=
  if s.engaged r then s.modRegion r.id fun x => { x with want := if x.want.toNat < want.toNat then want else x.want }
  else if want == 3 then s.teardown r.id 0
  else if want == 2 && !r.stat then s.startForced r.id
  else s.startSoft r.id

/-- A request that waited takes effect (R462). -/
def State.applyWant (s : State) (r : Region) : State :=
  if r.want == 0 || s.engaged r then s
  else (s.modRegion r.id fun x => { x with want := 0 }).request { r with want := 0 } r.want

/-- A region error of an escalated tile (17_faults_repair.md R474): a forced pre-emption that ends the LREC in error. -/
def State.errorForce (s : State) (id : BitVec 16) : State :=
  match s.regionOf id with
  | none => s
  | some r => (s.modRegion id fun x => { x with err := true }).request r 2

/-- A tile has reached its point and stopped. Once every tile has, no access of the region is left, and the frames are written (R457;
14_memory_model.md R420; DEDUCED, notes/assumptions/143.md). -/
def State.atPoint (s : State) (id : BitVec 16) : State :=
  let here := s.here
  let s := s.modRegion id fun x => { x with savedTiles := x.savedTiles ++ [here] }
  match s.regionOf id with
  | none => s
  | some r => if r.tiles.all fun t => r.savedTiles.contains t then s.saveAll id r.tiles else s

/-- What a commit point does under a soft request (R457): the tile stops, and is ready to be saved once its commands, RAMOs and the region's
barrier flits are done. Called again until then. -/
def State.phasePoint (s : State) : State :=
  match s.region with
  | none => s
  | some r =>
    if r.state != .softSaving || r.savedTiles.contains s.here then s
    else if !s.t.ctl.softStop then s.modCtl fun c => { c with softStop := true }
    else if s.t.sync.commit != .none || s.t.ctl.trap.hnd then s
    else
      let s := if s.t.ctl.frozen then s else s.freeze.endRounds
      if s.tileQuiet && !s.barrierFlying r then s.atPoint r.id else s

/-- SOFT_DEADLINE_EXPIRE (R457): some tile has not reached its point in time. -/
def execSoftDeadlineExpire (region : BitVec 16) (s : State) : Out :=
  match s.regionOf region with
  | none => .next s
  | some r =>
    if r.state != .softSaving || !dueBy r.deadline s.cycle then .next s
    else if !r.stat then .next (s.startForced region)
    else
      let n := (r.tiles.filter fun t => !r.savedTiles.contains t).length
      .next ((s.regionEvent r 0xE2 3 0 (BitVec.ofNat 64 n) 0).teardown region 0xE2)

/-- The region a launch command names (R454). -/
def State.slotRegion (s : State) (fn : BitVec 2) (slot : BitVec 4) : Option Region :=
  s.regionOf (BitVec.ofNat 16 (ofBytes (s.slotBytes fn slot 8 2)))

/-- PREEMPT (R454): soft or forced; it completes when the save is complete. -/
def execPreempt (fn : BitVec 2) (slot : BitVec 4) (s : State) : Out :=
  .next (s.mailbox fn slot 0x12 fun s =>
    let k := s.slotByte fn slot 10
    match s.slotRegion fn slot with
    | none => s.refuse fn slot 0xC9
    | some r =>
      if k != 1 && k != 2 then s.refuse fn slot 0xC9
      else
        let s := s.defer fn slot r.id 0
        if r.state == .saved then s.finish (fun d => d.opc == 0x12 && d.region == r.id) false 0
        else s.request r (BitVec.ofNat 2 k.toNat))

/-- TDOWN (R454, R462). -/
def execTdown (fn : BitVec 2) (slot : BitVec 4) (s : State) : Out :=
  .next (s.mailbox fn slot 0x13 fun s =>
    match s.slotRegion fn slot with
    | none => s.refuse fn slot 0xC9
    | some r => (s.defer fn slot r.id 0).request r 3)

/-- The state of a region as RSTAT returns it. -/
def RegState.code : RegState → Nat
  | .binding => 0
  | .running => 1
  | .softSaving => 2
  | .forcedSaving => 3
  | .saved => 4
  | .ending => 5

/-- RSTAT (R454): state, origin, COUNT and the index counter in bytes 16 to 47. -/
def execRstat (fn : BitVec 2) (slot : BitVec 4) (s : State) : Out :=
  .next (s.mailbox fn slot 0x14 fun s =>
    match s.slotRegion fn slot with
    | none => s.refuse fn slot 0xC9
    | some r =>
      let ix := if r.mm then ((s.launchOf r).map fun l => min r.count (64 * l.nextBatch)).getD r.next else r.next
      (s.putSlot fn slot 16 (toBytes 8 r.state.code ++ toBytes 8 (r.px + 256 * r.py) ++ toBytes 8 r.count ++ toBytes 8 ix)).answer fn
        slot 2 0)

/-! ### The distributor (R452, R453) -/

/-- The queues that hold a record. -/
def Dist.nonempty (d : Dist) : List Nat := (upto 16).filter fun q => !(SMap.get [] d.queues q).isEmpty

/-- The queue to select (R452): the highest effective priority, first after LASTQ. -/
def Dist.choose (d : Dist) : Option Nat :=
  let ne := d.nonempty
  let top := ne.foldl (fun m q => max m (SMap.get 0 d.eff q)) 0
  ((upto 16).map fun i => (d.lastq + 1 + i) % 16).find? fun q => ne.contains q && SMap.get 0 d.eff q == top

/-- One waiting queue ages (R452). -/
def Dist.age (d : Dist) (q : Nat) : Dist :=
  let w := SMap.get 0 d.waitc q + 1
  if w = 2 ^ 20 then { d with eff := SMap.set 0 d.eff q (min 15 (SMap.get 0 d.eff q + 1)), waitc := SMap.set 0 d.waitc q 0 }
  else { d with waitc := SMap.set 0 d.waitc q w }

/-- Select a record (R452). A queue that becomes empty falls back to its priority. -/
def Dist.select (d : Dist) : Dist :=
  match d.choose with
  | none => d
  | some q =>
    match SMap.get [] d.queues q, SMap.get [] d.fns q with
    | b :: rest, f :: fs =>
      let others := d.nonempty.filter fun x => x != q
      let d := others.foldl Dist.age
        { d with
          lastq := q, sel := some (q, b, f), queues := SMap.set [] d.queues q rest, fns := SMap.set [] d.fns q fs }
      { d with eff := SMap.set 0 d.eff q (SMap.get 0 d.prio q), waitc := SMap.set 0 d.waitc q 0 }
    | _, _ => d

/-- Does a rectangle at (px, py) overlap a region? -/
def Region.overlaps (r : Region) (px py wd ht : Nat) : Bool :=
  decide (px < r.px + r.wd ∧ r.px < px + wd ∧ py < r.py + r.ht ∧ r.py < py + ht)

/-- The live regions that overlap a rectangle. -/
def State.inTheWay (s : State) (px py wd ht : Nat) : List Region := s.ctrl.regions.filter fun r => r.live && r.overlaps px py wd ht

/-- The origins a record allows, in the order of R453. -/
def origins (b : Bytes) (wd ht : Nat) : List (Nat × Nat) :=
  if recPx b == 0xFF then (upto (67 - ht)).flatMap fun y => (upto (85 - wd)).map fun x => (x, y)
  else if recPx b + wd ≤ 84 ∧ recPy b + ht ≤ 66 then [(recPx b, recPy b)] else []

/-- The origin a record takes: its own when free, or the free one at the lowest PY and then PX (R453). -/
def State.placeFor (s : State) (b : Bytes) (wd ht : Nat) : Option (Nat × Nat) :=
  (origins b wd ht).find? fun p => (s.inTheWay p.1 p.2 wd ht).isEmpty

/-- The regions that a waiting record with PRE displaces (R453). -/
def State.displaced (s : State) (b : Bytes) (wd ht : Nat) : List Region :=
  let lower (r : Region) : Bool := decide (SMap.get 0 s.ctrl.dist.prio r.dq.toNat < SMap.get 0 s.ctrl.dist.prio (recDq b))
  if recPx b == 0xFF then
    match (origins b wd ht).find? fun p => (s.inTheWay p.1 p.2 wd ht).all lower with
    | some p => s.inTheWay p.1 p.2 wd ht
    | none => []
  else (s.inTheWay (recPx b) (recPy b) wd ht).filter lower

/-- A waiting record with PRE pre-empts what stands in its way (R453, R457). -/
def State.preempts (s : State) : State :=
  match s.ctrl.dist.sel with
  | none => s
  | some (_, b, _) =>
    if !recPre b then s
    else
      let (h, s') := s.readFar (recAsid b) 0 (recVa b) 560
      match cleanBytes h with
      | none => s'
      | some h =>
        if (s'.placeFor b (imgWd h) (imgHt h)).isSome then s'
        else
          ((s'.displaced b (imgWd h) (imgHt h)).filter fun r => r.state == .running).foldl (fun s r => s.request r 1) s'

/-- Power states in which no region may be bound (17_faults_repair.md R493). -/
def State.gated (s : State) : Bool := s.ctrl.power == .p2 || s.ctrl.power == .p3 || s.ctrl.power == .off

/-- DISTRIBUTOR_CYCLE (R452, R453): every 16 tile cycles a record is selected when none is held; a selected one that waits with PRE
displaces lower regions. Then the selected record is tried. -/
def execDistributorCycle (s : State) : Out :=
  if s.cycle < s.ctrl.dist.due || s.gated || s.ctrl.recovery then .next s
  else
    let now := s.cycle
    let s := s.modDist fun d => { d with due := now + 16 }
    let s := if s.ctrl.dist.sel.isNone then
        (s.modDist Dist.select).modDist fun d =>
          (upto 16).foldl (fun d q =>
            if (SMap.get [] d.queues q).isEmpty then
              { d with eff := SMap.set 0 d.eff q (SMap.get 0 d.prio q), waitc := SMap.set 0 d.waitc q 0 } else d) d
      else s.preempts
    .next (if s.ctrl.dist.sel.isSome then s.auto .bind else s)

/-! ### Binding (R455, R460) -/

/-- A region as its record and image give it. -/
def mkRegion (id : BitVec 16) (b img : Bytes) (f : BitVec 2 × BitVec 4 × BitVec 16) (px py prio : Nat) : Region :=
  { id := id, asid := recAsid b, fn := f.1, evr := BitVec.ofNat 8 (recAt b 22 1), dq := BitVec.ofNat 4 (recDq b), px := px, py := py
    wd := imgWd img, ht := imgHt img, flags := BitVec.ofNat 5 (imgFlags img), slack := leAt 46 1 img, imgid := imgId img
    imgva := recVa b, lid := BitVec.ofNat 64 (recAt b 64 8), mods := (recMods b).map fun m => BitVec.ofNat 12 m, mm := recMm b
    count := extCount (recExt b), next := 0, ext := recExt b, widw := imgWidw img, spdl := recAt b 23 1, sfbase := recSfbase b
    sfstr := recSfstr b, ranges := imgRanges img, livev := BitVec.ofNat 96 (leAt 64 12 img), livef := BitVec.ofNat 4 (leAt 76 1 img)
    state := .binding, tau := 0, started := [], savedTiles := [], released := [], deadline := none, kind := 0, tag := f.2.2
    slot := f.2.1, prio := prio, serial := none, rst := recRst b, lltv := imgLltv img, baseid := imgBase img, err := false
    want := 0 }

/-- A launch or restore is refused (R455): event 0xE0 with its reason, or 0xE8 with a tile, and the LREC ends in error. -/
def State.refuseLaunch (s : State) (r : Region) (code : Byte) (arg : Nat) : State :=
  let s := if code == 0 then s else s.regionEvent { r with id := 0xFFFF } code 3 0 (BitVec.ofNat 64 arg) 0
  (s.modDist fun d => { d with sel := none }).completed r.fn r.slot 0x10 r.tag true 0

/-- The cells of bytes at an address, listing nothing for zero. -/
def cellList (a : Nat) (d : Bytes) : List (Nat × Byte) :=
  (d.zip (upto d.length)).filterMap fun (x, i) => if x == 0 then none else some (a + i, x)

/-- Load a bank unless its residency tag already names this image and tile (R455 step 3; 05_tile_buffers.md R143). -/
def Buf.loadBank (u : Buf) (k : Nat) (r : Region) (idx : Nat) (img : Bytes) (p : Option (Nat × Nat)) : Buf :=
  match p with
  | none => u
  | some (off, len) =>
    let base := 0x400000 + 0x8000 * k
    let tag := if k = 0 then u.tag0 else u.tag1
    let src : BankSource := { asid := r.asid, va := r.imgva, imgid := r.imgid, idx := idx, off := off, len := len }
    let u :=
      if tag == some (r.imgid, idx) then u
      else
        let inside (a : Nat) : Bool := decide (base ≤ a ∧ a < base + 0x8000)
        let lo := u.mem.filter fun e => decide (e.1 < base)
        let hi := u.mem.filter fun e => decide (base + 0x8000 ≤ e.1)
        { u with
          mem := lo ++ cellList base ((slice off len img).take 0x8000) ++ hi
          ispar := u.ispar.filter fun e => !inside (8 * e.1)
          poison := u.poison.filter fun e => !inside (8 * e.1)
          ecc := u.ecc.filter fun e => !inside (8 * e.1) }
    if k = 0 then { u with tag0 := some (r.imgid, idx), src0 := some src } else { u with tag1 := some (r.imgid, idx), src1 := some src }

/-- The buffers of a tile at launch (R144, R455 steps 3 and 4): A, W and C zero, then .data; the pairs and weight regions of the
header. A restore leaves W to its saved ranges (R461). -/
def Buf.launch (u : Buf) (r : Region) (idx : Nat) (img : Bytes) (t : TileSection) : Buf :=
  let store (a : Nat) : Bool := decide (0x400000 ≤ a)
  let u : Buf :=
    { Buf.reset with
      mem := u.mem.filter fun e => store e.1
      poison := u.poison.filter fun e => store (8 * e.1)
      ecc := u.ecc.filter fun e => store (8 * e.1)
      ispar := u.ispar, src0 := u.src0, src1 := u.src1, tag0 := u.tag0, tag1 := u.tag1, fixes := u.fixes
      pairs := (imgPairs img).map fun p =>
        { off := p.1, size := p.2, f := false, writes := 0, only := none, refill := none }
      wregs := (imgRegions img).map fun p => { base := p.1, size := p.2, gc := false, ready := false, writing := 0 } }
  let u := (u.loadBank 0 r idx img t.bank0).loadBank 1 r idx img t.bank1
  t.data.foldl (fun u d => if r.rst && d.1 == .w then u else u.write (cellsOf (BufId.base d.1 d.2.1 + d.2.2.1) (clean d.2.2.2))) u

/-- TILEID (13_control_slice.md R367). -/
def State.tileidOf (s : State) (r : Region) (t : Nat) : Word :=
  BitVec.ofNat 64 (2 ^ 52 * s.ctrl.modno.toNat + 2 ^ 44 * (s.tile t).fab.gen.toNat + 2 ^ 37 * tileX t + 2 ^ 30 * tileY t
    + 2 ^ 23 * (tileX t - r.px) + 2 ^ 16 * (tileY t - r.py) + s.home t)

/-- A table as the switch holds it. -/
def tableOfRecs {α : Type} (l : List (Nat × α)) : List (Nat × α) := l.foldl (fun m e => SMap.put m e.1 e.2) []

/-- Load the present tile (R455 steps 3 and 4): every state of 13_control_slice.md R356 and every CSR of R364 to its reset but
RAMPCFG, the banks, the tables, the streams and the CSRs WIDW, PHST and TILEID. -/
def State.loadTile (s : State) (r : Region) (img : Bytes) (t : TileSection) : State :=
  let idx := r.index s.here
  let now := s.cycle
  let id := s.tileidOf r s.here
  s.modT fun o =>
    { Tile.reset with
      ctl :=
        { Ctl.reset with
          cpc := t.entry, fv0 := t.bank0.isSome, fv1 := t.bank1.isSome, tileid := id, widw := r.widw
          ramp := { o.ctl.ramp with lvl := o.ctl.ramp.up, beats := 0, mlast := 0, floor := 0, whw := 0, wstart := now, held := false } }
      lane := { Lane.reset with
        st := t.streams.foldl (fun m e => (e.2.zip (upto 6)).foldl (fun m x => SMap.set 0 m (streamKey e.1 x.2) x.1) m) [] }
      mx := { Mx.reset with broken := o.mx.broken }
      buf := o.buf.launch r idx img t
      winch := { Winch.reset with nextId := o.winch.nextId }
      fab :=
        { Fab.reset with
          route := tableOfRecs t.chans, cols := o.fab.cols, rows := o.fab.rows, linkDown := o.fab.linkDown, gen := o.fab.gen
          nextRid := o.fab.nextRid }
      red :=
        { Red.reset with
          table := tableOfRecs t.reds
          bars := tableOfRecs (t.bars.map fun e => (e.1, { Barrier.zero with ent := e.2 })) }
      sync := { Sync.reset with det := r.flags.getLsbD 0, ver := r.flags.getLsbD 1 } }

/-- What the reading of R455 step 1 gives: a reason, or the sections. -/
def State.checkImage (s : State) (b img : Bytes) : Except Nat (List TileSection) := do
  if !headerOk img then throw 1
  if !crcOk img then throw 2
  if !launchHeaderOk img then throw 3
  if imgStat img && imgLltv img != s.ctrl.lltVersion then throw 4
  if !extentsOk img (recExt b) then throw 6
  if 4096 * recSfstr b < frameSize (imgRanges img) then throw 7
  let ts ← s.sections img (imgWd img) (imgHt img) ((recMods b).map fun m => BitVec.ofNat 12 m) (imgNsec img) 560 []
  if !coverOk ts (imgWd img) (imgHt img) then throw 1
  if (origins b (imgWd img) (imgHt img)).isEmpty then throw 3
  return ts

/-- The frames of a restore that fail their checks (R460), by tile index. -/
def State.badFrame (s : State) (r : Region) : Option Nat × State :=
  (upto r.tiles.length).foldl (fun (acc : Option Nat × State) i =>
    if acc.1.isSome then acc
    else
      let (d, s) := acc.2.readFar r.asid 0 (r.frameVa i) (frameSize r.ranges)
      match d with
      | none => (some i, s)
      | some d => (if frameOk r.imgid r.baseid (d.map fun x => x.1) then none else some i, s)) (none, s)

/-- A frame with nothing kept beside it. -/
def FrameRest.zero : FrameRest :=
  { cmds := [], sendStore := [], recvStore := [], fills := [], ramos := [], held := [], granted := [], commit := .none
    closing := 0, codes := [] }

/-- A tile of a deterministic region whose phase-barrier round was ended by the save takes part in it again (R326, R458). -/
def State.rejoin (s : State) : State :=
  let s := if s.t.sync.det then s.modColl 63 fun c => { c with state := .idle, lv := false } else s
  if s.t.sync.commit == .round then s.joinBarrier else s

/-- Write every frame back (R460); the index counter goes on where the saved region left it (R451). -/
def State.restore (s : State) (r : Region) : State :=
  let old := s.ctrl.regions.find? fun x => x.state == .saved && x.asid == r.asid && x.sfbase == r.sfbase
  let s := r.tiles.foldl (fun s t => s.atTile t fun s =>
    let i := r.index t
    let (d, s) := s.readFar r.asid 0 (r.frameVa i) (frameSize r.ranges)
    s.putFrame r (d.getD []) ((SMap.find? s.ctrl.saves (r.frameKey i)).getD FrameRest.zero)) s
  let s := r.tiles.foldl (fun s t => s.atTile t fun s => s.barAll.rejoin) s
  match old with
  | none => s
  | some o =>
    (s.modCtrl fun c => { c with regions := c.regions.filter fun x => x.id != o.id }).modRegion r.id fun x => { x with next := o.next }

/-- Step 5 of R455: a module time at least 4096 cycles ahead at which every tile starts. -/
def State.startRegion (s : State) (id : BitVec 16) : State :=
  let (w, s) := s.freeWord
  let tau := s.clock.mtime + 873814 + (bits 0 20 w).setWidth 64
  s.modRegion id fun r => { r with state := .running, tau := tau }


end Sys2Proof.Machine
end

