-- ==== Sys2Proof/Machine/Cluster.lean ====
section
/-!
DEFINITION. Launches across modules (16_launch.md R463, R464, R509, R510): messages between module controllers, the binding
exchange, batches and their grants, heartbeats and elections.
-/

namespace Sys2Proof.Machine

open Sys2Proof

/-! ### Messages (R510) -/

/-- The launch of a launch id. -/
def State.mm (s : State) (lid : Word) : Option Launch := s.ctrl.launches.find? fun l => l.lid == lid

/-- Update a launch. -/
def State.modMm (s : State) (lid : Word) (f : Launch → Launch) : State :=
  s.modCtrl fun c => { c with launches := c.launches.map fun l => if l.lid == lid then f l else l }

/-- Is a module directly paired through a live port? -/
def State.paired (s : State) (m : BitVec 12) : Bool := !(s.portsTo m).isEmpty

/-- The next module of a message (R510): its destination when directly paired, else a directly paired module of MODS. Which of them
lies on a shortest path the module cannot see, so the choice among them is free; `none` when there is none. -/
def State.nextHop (s : State) (mods : List (BitVec 12)) (dest : BitVec 12) : Option (BitVec 12) :=
  if s.paired dest then some dest
  else
    let ms := mods.filter fun m => m != s.ctrl.modno && s.paired m
    ms[(Config.freeWord s.free).toNat % ms.length]?

/-- Can a module be reached, as far as this module sees: directly, or through another module of the launch? -/
def State.reaches (s : State) (mods : List (BitVec 12)) (m : BitVec 12) : Bool :=
  m == s.ctrl.modno || s.paired m || mods.any fun x => x != s.ctrl.modno && s.paired x

/-- A message leaves towards a module (R510); nothing leaves for one that cannot be reached. -/
def State.post (s : State) (mods : List (BitVec 12)) (dest : BitVec 12) (b : MgmtBody) : State :=
  match s.nextHop mods dest with
  | none => s
  | some h =>
    { s.modCtrl fun c => { c with outbox := c.outbox ++ [(h, { src := c.modno, dest := dest, body := b })] } with free := s.free + 1 }

/-- A message to every other module of a list. -/
def State.postAll (s : State) (mods dests : List (BitVec 12)) (b : MgmtBody) : State :=
  (dests.filter fun m => m != s.ctrl.modno).foldl (fun s m => s.post mods m b) s

/-- What a module would send to itself arrives at once. -/
def State.postOwn (s : State) (b : MgmtBody) : State :=
  s.auto (.mgmt { src := s.ctrl.modno, dest := s.ctrl.modno, body := b })

/-- The launch id a message concerns. -/
def mgmtLid : MgmtBody → Word
  | .bind m => m.lid
  | .batchReq l | .grant l _ _ | .grantAck l _ | .heartbeat l => l
  | .view v => v.lid

/-- MGMT_MESSAGE_RELAY (R510): a message named for another module of its launch is sent on; one named for this module arrives. -/
def execMgmtMessageRelay (m : MgmtMsg) (s : State) : Out :=
  if m.dest == s.ctrl.modno then .next (s.auto (.mgmt m))
  else match s.mm (mgmtLid m.body) with
    | none => .next s
    | some l =>
      match s.nextHop l.mods m.dest with
      | none => .next s
      | some h => .next { s.modCtrl fun c => { c with outbox := c.outbox ++ [(h, m)] } with free := s.free + 1 }

/-! ### Batches (R463) -/

/-- A launch with nothing granted. -/
def Launch.fresh (lid : Word) (mods : List (BitVec 12)) : Launch :=
  { lid := lid, mods := mods, leader := mods.headD 0, grants := [], awaiting := [], held := [], nextBatch := 0, reissue := []
    live := mods, failed := [], beats := [], views := [], binds := [], bindDue := none, minority := false, asked := 0 }

/-- The region of a launch. -/
def State.mmRegion (s : State) (lid : Word) : Option Region := s.ctrl.regions.find? fun r => r.live && r.mm && r.lid == lid

/-- The holder of a batch gets it: its indices start at 64 b (R463). -/
def State.takeBatch (s : State) (lid : Word) (b : Nat) : State :=
  s.modMm lid fun l => { l with held := l.held ++ [(b, 64 * b)], asked := l.asked - 1 }

/-- Every live module has acknowledged a grant record: the batch is granted (R463). -/
def State.grantNow (s : State) (l : Launch) (b : Nat) (h : BitVec 12) : State :=
  let s := s.modMm l.lid fun l => { l with awaiting := l.awaiting.filter fun a => a.1 != b }
  if h == s.ctrl.modno then s.takeBatch l.lid b else s.post l.mods h (.grant l.lid b h)

/-- Grant what nobody has still to acknowledge. -/
def State.grantReady (s : State) (lid : Word) : State :=
  match s.mm lid with
  | none => s
  | some l => (l.awaiting.filter fun a => a.2.2.isEmpty).foldl (fun s a => s.grantNow l a.1 a.2.1) s

/-- The next batch the leader gives: a reissued one, or the counter's (R464). -/
def Launch.nextGrant (l : Launch) (count : Nat) : Option (Nat × Launch) :=
  match l.reissue with
  | b :: rest => some (b, { l with reissue := rest })
  | [] => if 64 * l.nextBatch < count then some (l.nextBatch, { l with nextBatch := l.nextBatch + 1 }) else none

/-- BATCH_REQUEST (R463): the leader records the grant, sends its record to every live module, and grants once all have
acknowledged. -/
def execBatchRequest (lid : Word) (pmod : BitVec 12) (s : State) : Out :=
  match s.mm lid, s.mmRegion lid with
  | some l, some r =>
    if l.leader != s.ctrl.modno || !l.live.contains pmod || l.minority then .next s
    else match l.nextGrant r.count with
      | none => .next s
      | some (b, l') =>
        let others := l.live.filter fun m => m != s.ctrl.modno
        let s := s.modMm lid fun _ =>
          { l' with grants := SMap.put l'.grants b pmod, awaiting := l'.awaiting ++ [(b, pmod, others)] }
        .next ((s.postAll l.mods others (.grant lid b pmod)).grantReady lid)
  | _, _ => .next s

/-- GRANT_RECORD (R463): the record of a grant is kept and acknowledged; the same record again is the grant itself, to its holder. -/
def execGrantRecord (lid : Word) (batch : Nat) (holder : BitVec 12) (s : State) : Out :=
  match s.mm lid with
  | none => .next s
  | some l =>
    if SMap.find? l.grants batch == some holder then
      .next (if holder == s.ctrl.modno && !(l.held.any fun h => h.1 == batch) then s.takeBatch lid batch else s)
    else
      .next ((s.modMm lid fun l =>
        { l with grants := SMap.put l.grants batch holder, nextBatch := max l.nextBatch (batch + 1) }).post l.mods l.leader
          (.grantAck lid batch))

/-- GRANT_ACK (R463). -/
def execGrantAck (lid : Word) (batch : Nat) (pmod : BitVec 12) (s : State) : Out :=
  .next ((s.modMm lid fun l =>
    { l with
      awaiting := l.awaiting.map fun a => if a.1 == batch then (a.1, a.2.1, a.2.2.filter fun m => m != pmod) else a }).grantReady lid)

/-- A module asks for batches while it holds, or has asked for, fewer than two (R463). -/
def State.askBatch (s : State) (lid : Word) : State :=
  match s.mm lid, s.mmRegion lid with
  | some l, some r =>
    if r.state != .running || l.minority || l.failed.contains s.ctrl.modno || decide (2 ≤ l.held.length + l.asked)
        || (l.reissue.isEmpty && decide (r.count ≤ 64 * l.nextBatch)) then s
    else
      let s := s.modMm lid fun l => { l with asked := l.asked + 1 }
      if l.leader == s.ctrl.modno then s.postOwn (.batchReq lid) else s.post l.mods l.leader (.batchReq lid)
  | _, _ => s

/-! ### Heartbeats and elections (R464) -/

/-- 100 µs and 300 µs in cycles (01_module.md: 1200 cycles in 1 µs). -/
abbrev beatCycles : Nat := 120000

/-- Heartbeats go both ways between the leader and each follower (R463). -/
def State.sendBeats (s : State) (l : Launch) : State :=
  if l.leader == s.ctrl.modno then s.postAll l.mods l.live (.heartbeat l.lid) else s.post l.mods l.leader (.heartbeat l.lid)

/-- HEARTBEAT (R463): a beat of a module is heard. -/
def execHeartbeat (lid : Word) (pmod : BitVec 12) (s : State) : Out :=
  let now := s.cycle
  .next (s.modMm lid fun l => { l with beats := SMap.put l.beats pmod.toNat now })

/-- Has a module missed three beats? -/
def Launch.silent (l : Launch) (now : Nat) (m : BitVec 12) : Bool := decide (SMap.get 0 l.beats m.toNat + 3 * beatCycles ≤ now)

/-- This module's view: whom it takes to be live. Only the leader and its followers hear each other's beats. -/
def State.myView (s : State) (l : Launch) : View :=
  let me := s.ctrl.modno
  { lid := l.lid, src := me, top := l.nextBatch
    live := l.mods.filter fun m =>
      m == me || (!l.failed.contains m && s.reaches l.mods m && !((m == l.leader || l.leader == me) && l.silent s.cycle m)) }

/-- The batches granted to modules that are no longer live. -/
def Launch.orphans (l : Launch) (live : List (BitVec 12)) : List Nat :=
  (l.grants.filter fun g => !live.contains g.2).map fun g => g.1

/-- A batch among those to be issued again, which go in increasing number (R464). -/
def insertBatch (b : Nat) : List Nat → List Nat
  | [] => [b]
  | a :: r => if b < a then b :: a :: r else if b = a then a :: r else a :: insertBatch b r

/-- The leader declares a follower failed (R464): event 0xE6, its batches are issued again, and nothing waits for its
acknowledgement. -/
def State.declareFailed (s : State) (l : Launch) (m : BitVec 12) : State :=
  let lost := (l.grants.filter fun g => g.2 == m).map fun g => g.1
  let s := s.modMm l.lid fun l =>
    { l with
      failed := l.failed ++ [m], live := l.live.filter fun x => x != m
      reissue := lost.foldr insertBatch l.reissue
      awaiting := (l.awaiting.filter fun a => a.2.1 != m).map fun a => (a.1, a.2.1, a.2.2.filter fun x => x != m) }
  (s.moduleEvent 0xE6 3 0 (m.setWidth 64) (BitVec.ofNat 64 lost.length)).grantReady l.lid

/-- Does a module hear no more than half of the modules of a launch, itself counted (R464)? One that no path of pairings leads to counts
as unheard (R510). -/
def State.inMinority (s : State) (l : Launch) : Bool := decide (2 * (s.myView l).live.length ≤ l.mods.length)

/-- A module that cannot reach more than half of the modules draws nothing more, with event 0xE7 (R464). -/
def State.checkMinority (s : State) (lid : Word) : State :=
  match s.mm lid with
  | none => s
  | some l =>
    if !l.minority && s.inMinority l then
      (s.modMm l.lid fun l => { l with minority := true }).moduleEvent 0xE7 3 0 (s.ctrl.modno.setWidth 64) 0
    else s

/-- HEARTBEAT_TIMEOUT (R464): three beats of a module are missed. The leader declares a follower failed; a follower that misses the
leader starts an election, unless it is cut off from more than half. -/
def execHeartbeatTimeout (lid : Word) (pmod : BitVec 12) (s : State) : Out :=
  match s.mm lid with
  | none => .next s
  | some l =>
    let me := s.ctrl.modno
    if !l.silent s.cycle pmod || pmod == me || !l.live.contains pmod || (s.mmRegion lid).isNone then .next s
    else if l.leader == me then .next ((s.declareFailed l pmod).checkMinority lid)
    else if l.leader != pmod then .next s
    else
      let s := s.checkMinority lid
      if (l.views.any fun v => v.src == me) || s.inMinority l then .next s
      else
        let v := s.myView l
        .next ((s.postAll l.mods l.mods (.view v)).postOwn (.view v))

/-- Whom more than half of the NMOD modules agree to be live. -/
def Launch.agreed (l : Launch) : List (BitVec 12) :=
  l.mods.filter fun m => decide (l.mods.length < 2 * (l.views.filter fun v => v.live.contains m).length)

/-- The outcome of an election (R464): the lowest module agreed to be live leads. The new leader's counter stands one batch above the
highest batch of any live module's table, and what the lost modules held is issued again first. -/
def State.elect (s : State) (l : Launch) : State :=
  match l.agreed with
  | [] => s
  | w :: ws =>
    let live := w :: ws
    let me := s.ctrl.modno
    let gone := l.mods.filter fun m => !live.contains m && !l.failed.contains m
    let now := s.cycle
    let top := (l.views.filter fun v => live.contains v.src).foldl (fun n v => max n v.top) l.nextBatch
    let s := s.modMm l.lid fun l =>
      { l with
        leader := w, live := live, failed := l.failed ++ gone, views := [], asked := 0, awaiting := []
        nextBatch := top, reissue := if w == me then l.orphans live else []
        held := if live.contains me then l.held else []
        beats := live.foldl (fun b m => SMap.put b m.toNat now) l.beats }
    let s := gone.foldl (fun s m =>
      if w == me then
        s.moduleEvent 0xE6 3 0 (m.setWidth 64) (BitVec.ofNat 64 (l.grants.filter fun g => g.2 == m).length)
      else if m == me then s.moduleEvent 0xE6 3 0 (m.setWidth 64) 0 else s) s
    if w == me then s.moduleEvent 0xE5 3 0 (w.setWidth 64) 0 else s

/-- ELECTION_VIEW (R464): a view is kept; a module that has not sent its own yet sends it. When more than half of the modules have
spoken and agree on someone, the election ends. -/
def execElectionView (v : View) (s : State) : Out :=
  match s.mm v.lid with
  | none => .next s
  | some l =>
    let me := s.ctrl.modno
    let l1 := { l with views := (l.views.filter fun x => x.src != v.src) ++ [v] }
    let mine := l1.views.any fun x => x.src == me
    let s := s.modMm v.lid fun _ => l1
    if !mine then
      let v' := s.myView l1
      .next ((s.postAll l.mods l.mods (.view v')).postOwn (.view v'))
    else if l.mods.length < 2 * l1.views.length then .next (s.elect l1) else .next s

/-! ### The binding exchange (R509) -/

/-- A multi-module region is refused (R509). -/
def State.refuseMm (s : State) (r : Region) (reason : Nat) : State := (s.dropRegion r).refuseLaunch r 0xE0 reason

/-- The first messages a launch holds, and the results. -/
def Launch.firsts (l : Launch) : List BindMsg := l.binds.filter fun m => m.result.isNone
/-- See `Launch.firsts`. -/
def Launch.results (l : Launch) : List BindMsg := l.binds.filter fun m => m.result.isSome

/-- Does every module name the same LID, NMOD and MODS, and is every gateway entry of this module matched (R509)? -/
def Launch.bindOk (l : Launch) (me : BitVec 12) : Bool :=
  match l.firsts.find? fun m => m.src == me with
  | none => false
  | some own =>
    (l.firsts.all fun m => m.lid == own.lid && m.nmod == own.nmod && m.mods == own.mods)
      && own.gws.all fun e => l.firsts.any fun m => m.src == chMod e.ent && m.gws.any fun f => gwMatch me m.src e f

/-- Go on with the exchange as far as the messages allow: the result is sent once every module's message is here; the region starts
when every module reports success, and is refused when one reports failure. -/
def State.bindStep (s : State) (lid : Word) : State :=
  match s.mm lid, s.mmRegion lid with
  | some l, some r =>
    let me := s.ctrl.modno
    if r.state != .binding then s
    else
      let all (ms : List BindMsg) : Bool := l.mods.all fun m => ms.any fun b => b.src == m
      let (l, s) :=
        if all l.firsts && !(l.results.any fun b => b.src == me) then
          let own : BindMsg :=
            { src := me, lid := lid, nmod := l.mods.length, mods := l.mods, imgid := r.imgid, gws := [], result := some (l.bindOk me) }
          let l := { l with binds := l.binds ++ [own] }
          (l, (s.modMm lid fun _ => l).postAll l.mods l.mods (.bind own))
        else (l, s)
      if l.results.any fun b => b.result == some false then s.refuseMm r 5
      else if all l.results then
        let now := s.cycle
        let s := s.modMm lid fun l =>
          { l with bindDue := none, binds := [], beats := l.mods.foldl (fun b m => SMap.put b m.toNat now) l.beats }
        s.startRegion r.id
      else s
  | _, _ => s

/-- MM_BIND_MESSAGE (R509): a module's message, or its result, is kept; it may come before this module binds. -/
def execMmBindMessage (m : BindMsg) (s : State) : Out :=
  let s := if (s.mm m.lid).isSome then s
    else s.modCtrl fun c => { c with launches := c.launches ++ [Launch.fresh m.lid m.mods] }
  .next ((s.modMm m.lid fun l =>
    { l with binds := (l.binds.filter fun b => !(b.src == m.src && b.result.isSome == m.result.isSome)) ++ [m] }).bindStep m.lid)

/-- MM_BIND_TIMEOUT (R509): a module of MODS has not sent its message within 1 s of the start of the wait. -/
def execMmBindTimeout (region : BitVec 16) (s : State) : Out :=
  match s.regionOf region with
  | none => .next s
  | some r =>
    match s.mm r.lid with
    | none => .next s
    | some l => if r.state == .binding && dueBy l.bindDue s.cycle then .next (s.refuseMm r 9) else .next s

/-- The exchange begins (R509 step 1): this module's message goes to every module of MODS. -/
def State.beginExchange (s : State) (r : Region) (gs : List GwEntry) : State :=
  let own : BindMsg :=
    { src := s.ctrl.modno, lid := r.lid, nmod := r.mods.length, mods := r.mods, imgid := r.imgid, gws := gs, result := none }
  let s := if (s.mm r.lid).isSome then s
    else s.modCtrl fun c => { c with launches := c.launches ++ [Launch.fresh r.lid r.mods] }
  let due := s.cycle + 1200000000
  let s := s.modMm r.lid fun l =>
    { l with mods := r.mods, bindDue := some due, binds := (l.binds.filter fun b => b.src != own.src) ++ [own] }
  (s.postAll r.mods r.mods (.bind own)).bindStep r.lid

end Sys2Proof.Machine
end

