-- ==== Sys2Proof/Machine/Bind.lean ====
section
/-!
DEFINITION. Binding a selected record, start and release (16_launch.md R455, R456, R460, R509).
-/

namespace Sys2Proof.Machine

open Sys2Proof

/-- Do all gateway entries of an image match within the module itself? The entries to another module are matched in the binding
exchange (R509). -/
def State.ownGateways (s : State) (b : Bytes) (gs : List GwEntry) : Bool :=
  recMm b || gs.all fun e => gs.any fun f => gwMatch s.ctrl.modno s.ctrl.modno e f

/-- Steps 2 to 4 of R455 at a free rectangle; a restore then writes its frames back; a launch
of one module starts, one of several begins its exchange (R509). -/
def State.bindAt (s : State) (b img : Bytes) (ts : List TileSection) (f : BitVec 2 × BitVec 4 × BitVec 16) (p : Nat × Nat) : State :=
  let r := mkRegion s.ctrl.nextRegion b img f p.1 p.2 (SMap.get 0 s.ctrl.dist.prio (recDq b))
  let s := s.modCtrl fun c => { c with nextRegion := c.nextRegion + 1, launched := true, regions := c.regions ++ [r] }
  let s := r.tiles.foldl (fun s t => match sectionOf ts (tileX t - r.px) (tileY t - r.py) with
    | some u => s.atTile t fun s => s.loadTile r img u
    | none => s) s
  let (bad, s) := if r.rst then s.badFrame r else (none, s)
  match bad with
  | some i => ((s.dropRegion r).refuseLaunch r 0xE8 i)
  | none =>
    let s := if r.rst then s.restore r else s
    let s := s.modDist fun d => { d with sel := none }
    if r.mm then s.beginExchange r (gateways ts r.wd r.ht) else s.startRegion r.id

/-- LAUNCH_BIND (R455): the selected record is checked, waits for its rectangle and for its ASID (03_far_memory.md R89), and is bound
or refused. A region id is never used again (R448); DESIGN CHOICE (notes/assumptions/150.md): with none left the record waits. -/
def execLaunchBind (s : State) : Out :=
  match s.ctrl.dist.sel with
  | none => .next s
  | some (_, b, f) =>
    if s.gated || s.asidBusy (recAsid b) then .next s
    else
      let (img, s) := s.readImage (recAsid b) (recVa b)
      match img with
      | none => .next (s.refuseLaunch (mkRegion 0xFFFF b [] f 0 0 0) 0xE0 8)
      | some img =>
        let r0 := mkRegion 0xFFFF b img f 0 0 0
        match s.checkImage b img with
        | .error n => .next (s.refuseLaunch r0 0xE0 n)
        | .ok ts =>
          match s.placeFor b r0.wd r0.ht with
          | none => .next s
          | some p =>
            if s.ctrl.nextRegion == 0xFFFF then .next s
            else if !tablesOk ts p.1 p.2 r0.wd r0.ht r0.det || !s.ownGateways b (gateways ts r0.wd r0.ht) then
              .next (s.refuseLaunch r0 0xE0 5)
            else .next (s.bindAt b img ts f p)

/-! ### Start and release (R455, R456) -/

/-- TILE_START (R455 step 5): the tile's MTIME copy has reached τ, and it starts fetching in the next cycle, with the first window of the
ramp limiter (13_control_slice.md R392). -/
def execTileStart (s : State) : Out :=
  match s.region with
  | none => .next s
  | some r =>
    if r.state == .binding || r.started.contains s.here || !s.reached r.tau then .next s
    else
      let here := s.here
      .next ((s.modRegion r.id fun x => { x with started := x.started ++ [here] }).modCtl fun c =>
        { c with
          fetch := if c.fetch == .notStarted then .running else c.fetch
          ramp := { c.ramp with wstart := s.cycle + 1 } })

/-- The conditions of a release (R456; 13_control_slice.md R377; 10_fabric.md R286). -/
def State.releasable (s : State) : Bool :=
  s.t.ctl.fetch == .ended && !s.t.ctl.frozen && s.lanesIdle && s.t.winch.queued.isEmpty && s.t.winch.running.isEmpty
    && (s.t.fab.chans.all fun e => !chSendWin (s.chEnt (BitVec.ofNat 8 e.1)) || (e.2.inf == 0 && e.2.rsv == 0))
    && s.t.fab.ramos.isEmpty && s.t.red.colls.all fun e => e.2.state != .opened

/-- TILE_RELEASE (R456). DEDUCED (notes/assumptions/149.md): a soft request does not hold back a tile whose work has ended. -/
def execTileRelease (s : State) : Out :=
  match s.region with
  | none => .next s
  | some r =>
    if (r.state != .running && r.state != .softSaving) || r.released.contains s.here || !s.releasable then .next s
    else
      let r' := { r with released := r.released ++ [s.here] }
      let s := s.modRegion r.id fun x => { x with released := r'.released }
      .next (if r'.tiles.all fun t => r'.released.contains t then s.launchEnd r' else s)

end Sys2Proof.Machine
end

