-- ==== Sys2Proof/Machine/Crypto.lean ====
section
/-!
DEFINITION. SHA-256 and the RSA-3072 PKCS #1 v1.5 check that the configuration block and the attestation report name
(17_faults_repair.md R487, R488, R492).
-/

namespace Sys2Proof.Machine

open Sys2Proof

/-! ### SHA-256 -/

/-- The round constants of SHA-256. -/
def shaK : List (BitVec 32) :=
  [0x428a2f98, 0x71374491, 0xb5c0fbcf, 0xe9b5dba5, 0x3956c25b, 0x59f111f1, 0x923f82a4, 0xab1c5ed5, 0xd807aa98, 0x12835b01, 0x243185be,
   0x550c7dc3, 0x72be5d74, 0x80deb1fe, 0x9bdc06a7, 0xc19bf174, 0xe49b69c1, 0xefbe4786, 0x0fc19dc6, 0x240ca1cc, 0x2de92c6f, 0x4a7484aa]
  ++ [0x5cb0a9dc, 0x76f988da, 0x983e5152, 0xa831c66d, 0xb00327c8, 0xbf597fc7, 0xc6e00bf3, 0xd5a79147, 0x06ca6351, 0x14292967, 0x27b70a85,
   0x2e1b2138, 0x4d2c6dfc, 0x53380d13, 0x650a7354, 0x766a0abb, 0x81c2c92e, 0x92722c85, 0xa2bfe8a1, 0xa81a664b, 0xc24b8b70, 0xc76c51a3]
  ++ [0xd192e819, 0xd6990624, 0xf40e3585, 0x106aa070, 0x19a4c116, 0x1e376c08, 0x2748774c, 0x34b0bcb5, 0x391c0cb3, 0x4ed8aa4a, 0x5b9cca4f,
   0x682e6ff3, 0x748f82ee, 0x78a5636f, 0x84c87814, 0x8cc70208, 0x90befffa, 0xa4506ceb, 0xbef9a3f7, 0xc67178f2]

/-- The initial hash value. -/
def shaInit : List (BitVec 32) :=
  [0x6a09e667, 0xbb67ae85, 0x3c6ef372, 0xa54ff53a, 0x510e527f, 0x9b05688c, 0x1f83d9ab, 0x5be0cd19]

/-- Big-endian value of bytes. -/
def beNat (b : Bytes) : Nat := b.foldl (fun n x => 256 * n + x.toNat) 0

/-- The `n` big-endian bytes of a value. -/
def beBytes (n v : Nat) : Bytes := (toBytes n v).reverse

/-- Rotate right. -/
def rotr (x : BitVec 32) (n : Nat) : BitVec 32 := x.rotateRight n

/-- The message with its padding. -/
def shaPad (m : Bytes) : Bytes :=
  m ++ [0x80] ++ List.replicate ((119 - m.length % 64) % 64) 0 ++ beBytes 8 (8 * m.length)

/-- The 64 schedule words of a block, built newest first. -/
def shaSchedule (blk : Bytes) : List (BitVec 32) :=
  let w16 := (upto 16).map fun i => BitVec.ofNat 32 (beNat (slice (4 * i) 4 blk))
  (loopN (fun _ (w : List (BitVec 32)) =>
    let a := w.getD 1 0
    let b := w.getD 14 0
    let s1 := rotr a 17 ^^^ rotr a 19 ^^^ (a >>> 10)
    let s0 := rotr b 7 ^^^ rotr b 18 ^^^ (b >>> 3)
    (s1 + w.getD 6 0 + s0 + w.getD 15 0) :: w) 48 w16.reverse).reverse

/-- One round. -/
def shaRound (h : List (BitVec 32)) (kw : BitVec 32 × BitVec 32) : List (BitVec 32) :=
  match h with
  | [a, b, c, d, e, f, g, hh] =>
    let s1 := rotr e 6 ^^^ rotr e 11 ^^^ rotr e 25
    let t1 := hh + s1 + ((e &&& f) ^^^ (~~~e &&& g)) + kw.1 + kw.2
    let s0 := rotr a 2 ^^^ rotr a 13 ^^^ rotr a 22
    [t1 + s0 + ((a &&& b) ^^^ (a &&& c) ^^^ (b &&& c)), a, b, c, d + t1, e, f, g]
  | x => x

/-- One block. -/
def shaBlock (h : List (BitVec 32)) (blk : Bytes) : List (BitVec 32) :=
  (h.zip ((shaK.zip (shaSchedule blk)).foldl shaRound h)).map fun x => x.1 + x.2

/-- SHA-256 of a message: 32 bytes. -/
def sha256 (m : Bytes) : Bytes :=
  let p := shaPad m
  ((upto (p.length / 64)).foldl (fun h i => shaBlock h (slice (64 * i) 64 p)) shaInit).flatMap fun w => beBytes 4 w.toNat

/-! ### RSA-3072 PKCS #1 v1.5 over SHA-256 -/

/-- x to the power 65537 modulo n. -/
def powE (x n : Nat) : Nat := (loopN (fun _ y => y * y % n) 16 (x % n)) * x % n

/-- The encoded message of a digest: 384 bytes. -/
def emsa (h : Bytes) : Bytes :=
  [0x00, 0x01] ++ List.replicate 330 0xFF ++ [0x00]
    ++ [0x30, 0x31, 0x30, 0x0d, 0x06, 0x09, 0x60, 0x86, 0x48, 0x01, 0x65, 0x03, 0x04, 0x02, 0x01, 0x05, 0x00, 0x04, 0x20] ++ h

/-- Is a signature of a message valid under a modulus? -/
def rsaOk (modulus : Nat) (msg sig : Bytes) : Bool :=
  sig.length == 384 && decide (beNat sig < modulus) && beBytes 384 (powE (beNat sig) modulus) == emsa (sha256 msg)

end Sys2Proof.Machine
end

