-- ==== Sys2Proof/Machine/Manage.lean ====
section
/-!
DEFINITION. The management controller: defects and the logical map, boot, splices, resynchronisation, attestation, power and temperature
(01_module.md R16-R22; 17_faults_repair.md R479-R493).
-/

namespace Sys2Proof.Machine

open Sys2Proof

/-! ### The configuration block (R487) -/

/-- The stored configuration block. -/
def State.cfg (s : State) : Bytes := (upto s.ctrl.cfgLen).map fun i => SMap.get 0 s.ctrl.config i

/-- VER of a block. -/
def cfgVer (b : Bytes) : Nat := leAt 4 4 b
/-- MODNO. -/
def cfgModno (b : Bytes) : BitVec 12 := BitVec.ofNat 12 (leAt 12 2 b)
/-- FWDIG. -/
def cfgFw (b : Bytes) : Bytes := slice 48 32 b
/-- NDEF. -/
def cfgNdef (b : Bytes) : Nat := leAt 468 4 b
/-- MAPOFF. -/
def cfgMap (b : Bytes) : Nat := leAt 472 4 b
/-- The splice threshold of buffer corrections. -/
def cfgThrBuf (b : Bytes) : Nat := leAt 480 2 b
/-- The splice threshold of stack corrections. -/
def cfgThrStack (b : Bytes) : Nat := 1000 * leAt 482 2 b

/-- The defect list: kind 0 is a tile, 1 to 4 its link N, E, S, W. -/
def cfgDefects (b : Bytes) : List (Nat × Nat) :=
  (upto (cfgNdef b)).map fun i => (leAt (512 + 4 * i) 2 b, leAt (514 + 4 * i) 1 b % 8)

/-- The layout of a block is legal (R487). -/
def cfgFormed (b : Bytes) : Bool :=
  leAt 0 4 b == 0x46434755 && leAt 8 4 b == b.length && decide (4096 ≤ b.length ∧ b.length ≤ 2 ^ 20) && decide (leAt 12 2 b < 4096)
    && leAt 14 2 b == 0 && leAt 464 4 b == 65537 && decide (cfgNdef b ≤ 6048 ∧ 512 + 4 * cfgNdef b ≤ b.length - 384)
    && (slice 484 28 b).all fun x => x == 0

/-- Why a block is not accepted (R487, R488): 1 malformed, 4 firmware, 3 signature, 2 rollback; 0 when it is. -/
def State.cfgReason (s : State) (b : Bytes) : Byte :=
  if !cfgFormed b then 1
  else if cfgFw b != beBytes 32 Config.firmwareDigest.toNat then 4
  else if !rsaOk Config.romKey (b.take (b.length - 384)) (b.drop (b.length - 384)) then 3
  else if cfgVer b < s.ctrl.counter.toNat then 2 else 0

/-! ### Defects and the map (R479, R480; 01_module.md R16-R18) -/

/-- Is a physical tile a spare? -/
def isSpare (ph : Nat) : Bool := ph % 72 % 12 == 5

/-- Numbers at a distance of a centre below a limit, the lower first. -/
def around (c n : Nat) : List Nat :=
  (upto n).flatMap fun d => ((if d = 0 then [] else if d ≤ c then [c - d] else [])) ++ (if c + d < n then [c + d] else [])

/-- The spares a home may go to, in the order of R479. -/
def spareOrder (ph : Nat) : List Nat :=
  (around (ph % 72 / 12) 6).flatMap fun f => (around (ph / 72) 84).map fun px => 72 * px + (12 * f + 5)

/-- The home of a tile in a map of exceptions to R16. -/
def homeIn (m : List (Nat × Nat)) (t : Nat) : Nat := (SMap.find? m t).getD (defaultHome t)

/-- Physical hops between the homes of two tiles in a map. -/
def hopsIn (m : List (Nat × Nat)) (a b : Nat) : Nat :=
  absDiff (homeIn m a / 72) (homeIn m b / 72) + absDiff (homeIn m a % 72) (homeIn m b % 72)

/-- Do the four links of a tile span at most 8 hops (01_module.md R18)? -/
def linksOk (m : List (Nat × Nat)) (t : Nat) : Bool := (upto 4).all fun p => decide (hopsIn m t (neighbour t p) ≤ 8)

/-- Is a map within 01_module.md R18: one-to-one onto live physical tiles, its links within 8 hops? A home of a tile that the map leaves
where R16 puts it is no other tile's, nor dead; its links to another such tile are short. -/
def mapOk (m : List (Nat × Nat)) (dead : List Nat) : Bool :=
  let open_ (ph : Nat) : Bool := decide (6048 ≤ ph) || isSpare ph || m.any fun e => defaultHome e.1 == ph
  noDup (m.map fun e => e.2) && (m.all fun e => decide (e.2 < 6048) && !dead.contains e.2 && open_ e.2 && linksOk m e.1) && dead.all open_

/-- The spare a tile takes (R479): the first live, unused one that keeps the map within 01_module.md R18. -/
def pickSpare (m : List (Nat × Nat)) (dead : List Nat) (t : Nat) : Option Nat :=
  (spareOrder (homeIn m t)).find? fun ph =>
    !dead.contains ph && !(m.any fun e => e.2 == ph) && linksOk (SMap.put m t ph) t

/-- The map of a defect list (R479): every tile whose home is dead takes a spare, in tile index order. -/
def buildMap (dead : List Nat) : Option (List (Nat × Nat)) :=
  ((upto tileCount).filter fun t => dead.contains (defaultHome t)).foldl (fun m t =>
    m.bind fun m => (pickSpare m dead t).map fun ph => SMap.put m t ph) (some [])

/-- The explicit map of a block: two bytes a tile, in tile index order; it must be one-to-one onto live tiles, its links within 8 hops
(01_module.md R18). -/
def explicitMap (b : Bytes) (dead : List Nat) : Option (List (Nat × Nat)) :=
  let hs := (upto tileCount).map fun t => leAt (cfgMap b + 2 * t) 2 b
  let m := ((upto tileCount).zip hs).filter fun e => e.2 != defaultHome e.1
  if mapOk m dead then some m else none

/-- The dead physical tiles: the defect list and the retirement list (R480). -/
def State.deadOf (s : State) (b : Bytes) : List Nat :=
  dedup (((cfgDefects b).filter fun d => d.2 == 0).map (fun d => d.1) ++ s.ctrl.retired.map fun d => d.1)

/-- The physical tiles a logical link passes, its ends included: along px first. -/
def linkPath (a b : Nat) : List Nat :=
  let step (p q : Nat) : List Nat := if p ≤ q then (upto (q - p + 1)).map fun i => p + i else (upto (p - q + 1)).map fun i => p - i
  (step (a / 72) (b / 72)).map (fun x => 72 * x + a % 72) ++ ((step (a % 72) (b % 72)).map fun y => 72 * (b / 72) + y).tail

/-- The far end of a physical link: N, E, S, W. -/
def physEnd (ph port : Nat) : Nat :=
  match port with
  | 1 => ph - 1
  | 2 => ph + 72
  | 3 => ph + 1
  | _ => ph - 72

/-- Does a path use a physical link? -/
def usesLink (path : List Nat) (a b : Nat) : Bool := (path.zip path.tail).any fun e => (e.1 == a && e.2 == b) || (e.1 == b && e.2 == a)

/-- The links of every switch that a dead physical link takes out of service. -/
def State.deadLinkMask (s : State) (t : Nat) : BitVec 8 :=
  (upto 4).foldl (fun m p =>
    let u := neighbour t p
    let path := if p = 1 ∨ p = 2 then linkPath (s.home t) (s.home u) else linkPath (s.home u) (s.home t)
    if s.ctrl.deadLinks.any fun d => usesLink path d.1 (physEnd d.1 d.2) then m ||| (1 <<< p) else m) 0

/-- Set the links out of service that the defect list names. -/
def State.applyDeadLinks (s : State) : State :=
  (upto tileCount).foldl (fun s t =>
    let m := s.deadLinkMask t
    if m == (s.tile t).fab.linkDown then s else s.atTile t fun s => s.modFab fun f => { f with linkDown := m }) s

/-- One end of a logical link as the defect list has it under the present map. -/
def State.setLink (s : State) (t p : Nat) : State :=
  let b := BitVec.ofBool ((s.deadLinkMask t).getLsbD p)
  s.atTile t fun s => s.modFab fun f => { f with linkDown := setBits p 1 f.linkDown b }

/-- The four links of a tile whose home has changed, at both ends. -/
def State.relink (s : State) (t : Nat) : State :=
  (upto 4).foldl (fun s p => (s.setLink t p).setLink (neighbour t p) ((p + 2) % 4)) s

/-! ### The resources of a physical tile (01_module.md R19) -/

/-- The resources of a physical tile that is no tile's home. -/
def State.spareTile (s : State) (ph : Nat) : Tile := SMap.get Tile.reset s.spares ph

/-- What is a logical tile's own, wherever its home: its generation, its routing tables and its links in service. -/
def Tile.place (own : Tile) (x : Tile) : Tile :=
  { x with fab := { x.fab with gen := own.fab.gen, cols := own.fab.cols, rows := own.fab.rows, linkDown := own.fab.linkDown } }

/-- The corrections that the buffers of a home have counted since boot join its own (R481). -/
def State.countFixes (s : State) (old n : Nat) : State :=
  s.modCtrl fun c => { c with corrections := SMap.set 0 c.corrections old (SMap.get 0 c.corrections old + n) }

/-- A tile whose corrections are counted elsewhere. -/
def Tile.counted (x : Tile) : Tile := { x with buf := { x.buf with fixes := 0 } }

/-- Of some tiles, those whose home a new map has changed take the resources of their new homes, and leave those of the old ones. -/
def State.newHomes (s : State) (old : List (Nat × Nat)) (ts : List Nat) : State :=
  let moved := ts.filter fun t => homeIn old t != s.home t
  let pool := moved.foldl (fun m t => SMap.set Tile.reset m (homeIn old t) (s.tile t).counted) s.spares
  let s := moved.foldl (fun s t => s.countFixes (homeIn old t) (s.tile t).buf.fixes) s
  { moved.foldl (fun (x : State) t => x.setTile t ((s.tile t).place (SMap.get Tile.reset pool (s.home t)))) s with
    spares := pool.filter fun e => !(moved.any fun t => s.home t == e.1) }

/-- The map, the defects and the default routing tables of a block; `none` when no map exists (R479). -/
def State.applyBlock (s : State) (b : Bytes) : Option State :=
  let dead := s.deadOf b
  (if cfgMap b = 0 then buildMap dead else explicitMap b dead).map fun m =>
    (s.modCtrl fun c =>
      { c with phys := m, deadTiles := dead, deadLinks := (cfgDefects b).filter fun d => d.2 != 0, modno := cfgModno b }).applyDeadLinks

/-- Spares in use. -/
def State.sparesUsed (s : State) : Nat := (s.ctrl.phys.filter fun e => isSpare e.2).length

/-! ### Boot (R488, R489) -/

/-- What a boot starts from: everything but the flash of the management controller and the host's own side is new. The map is the one
the tiles had until a boot builds another (01_module.md R18). -/
def State.cold (s : State) : State :=
  { State.reset with
    ctrl :=
      { Ctrl.reset with
        config := s.ctrl.config, cfgLen := s.ctrl.cfgLen, counter := s.ctrl.counter, retired := s.ctrl.retired
        cellLog := s.ctrl.cellLog, phys := s.ctrl.phys, deadTiles := s.ctrl.deadTiles }
    host :=
      { HostSide.reset with
        pend := [], mem := s.host.mem, mempoison := s.host.mempoison, vectors := s.host.vectors, replies := s.host.replies }
    cycle := s.cycle, free := s.free }

/-- What no live physical tile carries leaves service (01_module.md R22): an optical port or a host link that has lost both of its tiles
goes down, and with the link the translation side that stands there (03_far_memory.md R80). -/
def State.closePerimeter (s : State) : State :=
  let s := (upto 24).foldl (fun s n => if (portTiles n).any s.tileLive then s else s.portDown n 0xEE) s
  (upto 4).foldl (fun s k =>
    if (linkTiles k).any s.tileLive then s
    else
      let s := if s.host.linkUp.getLsbD k then
          (s.modHost fun h => { h with linkUp := setBits k 1 h.linkUp 0 }).moduleEvent 0xC6 2 (BitVec.ofNat 16 k) (BitVec.ofNat 64 k)
            (s.linkRate k)
        else s
      s.sideFails k) s

/-- A boot that fails leaves the module in recovery, with its reason; only host link 0 comes up (R489). -/
def State.bootFails (s : State) (reason : Byte) : State :=
  (s.modCtrl fun c => { c with recovery := true, reason := reason }).modHost fun h => { h with linkUp := 1 }

/-- Host links of which no tile is live stay down (01_module.md R22). -/
def State.dropLinks (s : State) : State :=
  s.modHost fun h =>
    { h with linkUp := h.linkUp &&& joinElems 1 4 4 fun k => BitVec.ofBool ((linkTiles k).any s.tileLive) }

/-- BOOT (R488): power comes back. The steps in order; the training of step 6 may fail. -/
def execBoot (s : State) : Out :=
  if s.ctrl.power != .off then .next s
  else
    let s := s.cold
    let b := s.cfg
    let why := s.cfgReason b
    if why != 0 then .next (s.bootFails why)
    else
      let s := s.modCtrl fun c => { c with counter := BitVec.ofNat 32 (cfgVer b) }
      match s.applyBlock b with
      | none => .next (s.bootFails 5)
      | some s =>
        let (ok, s) := s.coin
        if !ok then .next (s.bootFails 6)
        else .next (s.dropLinks.closePerimeter.moduleEvent 0xF0 4 0 (BitVec.ofNat 64 (cfgVer b)) (BitVec.ofNat 64 s.sparesUsed))

/-- POWER_REMOVAL (R493): the module is off; what the flash holds stays. -/
def execPowerRemoval (s : State) : Out := .next ((s.cold).modCtrl fun c => { c with power := .off })

/-- BSTAT (R490): boot reason, VER, power state, spares in use and the retirement count, four bytes each from byte 8. -/
def execBstat (fn : BitVec 2) (slot : BitVec 4) (s : State) : Out :=
  .next (s.mailbox fn slot 0x20 fun s =>
    let p := match s.ctrl.power with
      | .p0 => 0
      | .p1 => 1
      | .p2 => 2
      | .p3 => 3
      | .off => 4
    s.done fn slot (toBytes 4 s.ctrl.reason.toNat ++ toBytes 4 (cfgVer s.cfg) ++ toBytes 4 p ++ toBytes 4 s.sparesUsed
      ++ toBytes 4 s.ctrl.retired.length ++ toBytes 4 0))

/-! ### Splices (R481-R484) -/

/-- A request for a splice that joins the list. -/
def State.addSplice (s : State) (p : SpliceReq) : State := s.modCtrl fun c => { c with splices := c.splices ++ [p] }

/-- SPLICE (R490): it completes at event 0xEC or 0xED. -/
def execSplice (fn : BitVec 2) (slot : BitVec 4) (s : State) : Out :=
  .next (s.mailbox fn slot 0x21 fun s =>
    let t := ofBytes (s.slotBytes fn slot 8 2)
    let k := s.slotByte fn slot 10
    let sp := ofBytes (s.slotBytes fn slot 12 2)
    if tileCount ≤ t ∨ 1 < k.toNat then s.refuse fn slot 0xC9
    else
      let id := s.host.nextDef
      let (w, s) := s.freeCode
      let d : Deferred := { fn := fn, slot := slot, tag := s.slotTag fn slot, opc := 0x21, region := 0xFFFF, id := id }
      ((s.modHost fun h => { h with nextDef := id + 1 }).addSplice
        { tile := t, spare := if k == 1 then some sp else none, trigger := w, home := s.home t, stage := 0, due := 0, cmd := some d }).defer fn slot
          0xFFFF id)

/-- T of the splice events (R495). -/
def spliceT (old new t : Nat) : Word := BitVec.ofNat 64 (old + 2 ^ 16 * new + 2 ^ 32 * tileX t + 2 ^ 39 * tileY t)

/-- An event of the module controller that names a splice: to the region's ring too, when there is a region. -/
def State.spliceEvent (s : State) (t : Nat) (code : Byte) (a0 a1 : Word) : State :=
  match s.regionAt t with
  | some r => s.regionEvent r code 3 0 a0 a1
  | none => s.moduleEvent code 3 0 a0 a1

/-- The splice at work is over: its command completes. -/
def State.spliceOver (s : State) (p : SpliceReq) (err : Bool) : State :=
  let s := s.modCtrl fun c => { c with splices := c.splices.tail }
  match p.cmd with
  | none => s
  | some d => s.finish (fun x => x.opc == 0x21 && x.id == d.id) err 0

/-- A physical tile leaves service, and what it was the last to carry goes with it (R480; 01_module.md R22). -/
def State.retire (s : State) (ph : Nat) (code : Byte) : State :=
  (s.modCtrl fun c =>
    { c with
      retired := SMap.put c.retired ph code
      deadTiles := if c.deadTiles.contains ph then c.deadTiles else c.deadTiles ++ [ph] }).closePerimeter

/-- A tile is retired with no successor (R484): the channels of its region that lead to it are broken, and the rounds of the trees
that it is a neighbour in abort with code 0xAC (11_exact_reduction.md R324). -/
def State.loseTile (s : State) (r : Region) (t : Nat) : State :=
  let s := (r.tiles.filter fun u => u != t).foldl (fun s u =>
    s.atTile u fun s =>
      (s.t.fab.route.filter fun e => chV e.2 && !chGw e.2 && s.relTile (chX e.2) (chY e.2) == some t).foldl
        (fun s e => s.breakChan (BitVec.ofNat 8 e.1)) s) s
  (upto 4).foldl (fun s p =>
    let u := neighbour t p
    let back := (p + 2) % 4
    if !r.has u then s
    else s.atTile u fun s =>
      (s.t.red.table.filter fun e => reV e.2 && (rePar e.2 == back + 1 || (reKids e.2).contains back)).foldl
        (fun s e => s.startAbort (BitVec.ofNat 6 e.1) 0xAC) s) s

/-- A splice is refused (R484): event 0xED, the tile retired with event 0xEE, its channels broken and its rounds aborted, and its
region torn down with cause 0xED. -/
def State.refuseSplice (s : State) (p : SpliceReq) (reason : Nat) : State :=
  let old := s.home p.tile
  let s := s.spliceEvent p.tile 0xED (spliceT old 0xFFFF p.tile) (BitVec.ofNat 64 reason)
  let s := (s.spliceEvent p.tile 0xEE (BitVec.ofNat 64 old) (p.trigger.setWidth 64)).retire old p.trigger
  let s := match s.regionAt p.tile with
    | some r => (s.loseTile r p.tile).teardown r.id 0xED
    | none => s
  s.spliceOver p true

/-- The spare of a splice, or the reason of R484: 1 no spare meets R479, 3 the new map breaks 01_module.md R18. -/
def State.spareFor (s : State) (p : SpliceReq) : Except Nat Nat :=
  let m := s.ctrl.phys
  match p.spare with
  | none => match pickSpare m s.ctrl.deadTiles p.tile with
    | some ph => if mapOk (SMap.put m p.tile ph) s.ctrl.deadTiles then .ok ph else .error 3
    | none => .error 1
  | some ph =>
    if 6048 ≤ ph ∨ !isSpare ph ∨ s.ctrl.deadTiles.contains ph ∨ m.any (fun e => e.2 == ph) then .error 1
    else if mapOk (SMap.put m p.tile ph) s.ctrl.deadTiles then .ok ph else .error 3

/-- The buffers as the copy to a spare finds them (R482 step 3): it reads every word, and an uncorrectable one goes across poisoned. -/
def Buf.copied (b : Buf) : Buf := b.ecc.foldl (fun (b : Buf) e => b.touchWord e.1) b

/-- The resources that a region's tile has at its spare (R482 steps 3 and 6): the old home's state, with the spare's own cells and an
empty far-TLB. -/
def Tile.moveTo (x own : Tile) : Tile :=
  { x with
    buf := { x.buf with ecc := [], rewrite := [], fixes := 0 }, winch := { x.winch with tlb := [] }
    mx := { x.mx with broken := own.mx.broken } }

/-- The hop counts and the links in service of a tile. -/
def State.linkView (s : State) (t : Nat) : List Nat × BitVec 8 := ((upto 4).map fun k => s.hops t (neighbour t k), (s.tile t).fab.linkDown)

/-- The tile takes its new home (R482 steps 3, 4 and 6): the map, what the home holds, the links in service, the generation, TILEID, and
the LLT version when the link latency table changed. An idle tile brings nothing (R481); its map change, and that of a region which is
linked again, always advance the version (10_fabric.md R277). A home whose cell event 0x31 named is retired. -/
def State.moveHome (s : State) (p : SpliceReq) (ph : Nat) : State :=
  let t := p.tile
  let old := s.home t
  let map := s.ctrl.phys
  let before := s.linkView t
  let s := s.modCtrl fun c => { c with phys := SMap.put c.phys t ph }
  let idle := (s.regionAt t).isNone
  let s := if idle then s.newHomes map [t]
    else
      let x := { s.tile t with buf := (s.tile t).buf.copied }
      { (s.setTile t (x.moveTo (s.spareTile ph))).countFixes old x.buf.fixes with
        spares := (SMap.set Tile.reset s.spares old x.counted).filter fun e => e.1 != ph }
  let s := s.relink t
  let s := s.modCtrl fun c => if !idle && s.linkView t == before then c else { c with lltVersion := c.lltVersion + 1 }
  let s := s.atTile t fun s => s.modFab fun f => { f with gen := f.gen + 1 }
  let s := match s.regionAt t with
    | some r => s.atTile t fun s => s.modCtl fun c => { c with tileid := s.tileidOf r t }
    | none => s
  if p.trigger == 0x31 then s.retire old 0x31 else s

/-- The end of a splice whose tile has moved (R482 step 6, R483). -/
def State.spliceDone (s : State) (p : SpliceReq) (old ph : Nat) : State :=
  (s.spliceEvent p.tile 0xEC (spliceT old ph p.tile) s.ctrl.lltVersion).spliceOver p false

/-- Replace the splice at work. -/
def State.putSplice (s : State) (p : SpliceReq) : State := s.modCtrl fun c => { c with splices := p :: c.splices.tail }

/-- Move the tile, or refuse. -/
def State.doSplice (s : State) (p : SpliceReq) : State :=
  match s.spareFor p with
  | .error n => s.refuseSplice p n
  | .ok ph =>
    let old := s.home p.tile
    ((s.moveHome p ph).atTile p.tile fun s => s.modCtl fun c => { c with frozen := false }).spliceDone p old ph

/-- Has the frozen home done what it had started (R482 step 1)? -/
def State.spliceReady (s : State) (t : Nat) : Bool := (s.tile t).ctl.frozen && ({ s with here := t }).tileQuiet

/-- The first step of a splice (R482 step 1, R483): event 0xEB; the home freezes, or its region is held by a soft pre-emption. -/
def State.beginSplice (s : State) (p : SpliceReq) (r : Region) : State :=
  let s := s.spliceEvent p.tile 0xEB (spliceT (s.home p.tile) 0xFFFF p.tile) (p.trigger.setWidth 64)
  let s := s.putSplice { p with stage := 1, due := 0 }
  if r.stat then s.startSoft r.id else s

/-- A splice in a region with static channels (R483): the map changes once the region is saved, and event 0xEF names the LLT version. -/
def State.relinkSplice (s : State) (p : SpliceReq) (r : Region) : State :=
  match s.spareFor p with
  | .error n => s.refuseSplice p n
  | .ok ph =>
    let old := s.home p.tile
    let s := s.moveHome p ph
    (s.regionEvent r 0xEF 3 0 (r.id.setWidth 64) s.ctrl.lltVersion).spliceDone p old ph

/-- SPLICE_EXECUTE (R481-R483): the oldest request goes one step further. An idle tile is only remapped. A region that is binding,
saving or ending is waited for. -/
def execSpliceExecute (s : State) : Out :=
  match s.ctrl.splices with
  | [] => .next s
  | p :: _ =>
    match s.regionAt p.tile with
    | none =>
      (match s.ctrl.regions.find? fun r => r.state == .saved && r.has p.tile && r.stat && p.stage == 1 with
       | some r => .next (s.relinkSplice p r)
       | none =>
         .next ((if p.stage = 0 then s.spliceEvent p.tile 0xEB (spliceT (s.home p.tile) 0xFFFF p.tile) (p.trigger.setWidth 64) else s).doSplice p))
    | some r =>
      if p.stage = 0 then
        .next (if r.state == .running then s.beginSplice p r else s)
      else if r.stat then .next s
      else if p.stage = 1 then
        if (s.tile p.tile).ctl.trap.hnd || (s.tile p.tile).sync.canceling then .next s
        else .next ((s.atTile p.tile State.freeze).putSplice { p with stage := 2, due := s.cycle + 1200000 })
      else if s.spliceReady p.tile then .next (s.doSplice p) else .next s

/-- SPLICE_TIMEOUT (R484): the home's switch or Winch has not answered within 1 ms (reason 2). -/
def execSpliceTimeout (s : State) : Out :=
  match s.ctrl.splices with
  | [] => .next s
  | p :: _ => if p.stage = 2 ∧ p.due ≤ s.cycle then .next (s.refuseSplice p 2) else .next s

/-- The corrections of a home since boot: in its buffers, and at its stack port. -/
def State.correctionsOf (s : State) (t : Nat) : Nat × Nat :=
  let ph := s.home t
  (SMap.get 0 s.ctrl.corrections ph + (s.tile t).buf.fixes, SMap.get 0 s.far.corTile ph)

/-- A home whose counts pass the thresholds asks for a splice, once (R481); without a block there is no threshold. -/
def State.checkThresholds (s : State) : State :=
  let b := s.cfg
  if s.ctrl.cfgLen < 512 then s
  else
    s.tiles.foldl (fun s e =>
      let (n, m) := s.correctionsOf e.1
      if (cfgThrBuf b < n || cfgThrStack b < m) && !(s.ctrl.splices.any fun p => p.tile == e.1) &&
          !s.ctrl.deadTiles.contains (s.home e.1) then
        let (w, s) := s.freeCode
        s.addSplice { tile := e.1, spare := none, trigger := w, home := s.home e.1, stage := 0, due := 0, cmd := none }
      else s) s

/-! ### RESYNC, ATTEST, CFGLOAD, DEFRD, CLRRET (R480, R487, R490-R492) -/

/-- The LLT version and generations after a new map (R491): a remapped tile's generation advances. -/
def State.newMap (s : State) (old : List (Nat × Nat)) : State :=
  let s := (upto tileCount).foldl (fun s t =>
    if homeIn old t == s.home t then s
    else s.atTile t fun s => s.modFab fun f => { f with gen := f.gen + 1 }) (s.newHomes old (upto tileCount))
  s.modCtrl fun c => { c with lltVersion := c.lltVersion + 1 }

/-- RESYNC (R491). -/
def execResync (fn : BitVec 2) (slot : BitVec 4) (s : State) : Out :=
  .next (s.mailbox fn slot 0x22 fun s =>
    if !s.ctrl.splices.isEmpty then s.answer fn slot 3 0
    else
      let tag := s.slotTag fn slot
      let s := s.accepted fn slot
      let s := s.ctrl.regions.foldl (fun s r => s.teardown r.id 0xF1) s
      let old := s.ctrl.phys
      match (if s.ctrl.cfgLen < 512 then
          (buildMap (s.deadOf [])).map fun m =>
            (s.modCtrl fun c => { c with phys := m, deadTiles := s.deadOf [], deadLinks := [] }).applyDeadLinks
        else s.applyBlock s.cfg) with
      | none => s.completed fn slot 0x22 tag true 0
      | some s =>
        let s := s.newMap old
        let s :=
          { s with
            tiles := s.tiles.map fun (e : Nat × Tile) =>
              (e.1, { e.2 with fab := { e.2.fab with cols := [], rows := [] }, winch := { e.2.winch with tlb := [] } }) }
        let s := (upto 4).foldl (fun s k => s.modSide k fun x => { x with slice := [] }) s
        (s.closePerimeter.moduleEvent 0xF1 4 0 (BitVec.ofNat 64 (cfgVer s.cfg)) s.ctrl.lltVersion).completed fn slot 0x22 tag false 0)

/-- The 512 bytes of an attestation report (R492). -/
def State.report (s : State) (nonce : Bytes) : Bytes :=
  let b := s.cfg
  let head := fit 128 (fit 32 nonce ++ wordBytes s.clock.mtime ++ toBytes 4 (cfgVer b) ++ toBytes 4 s.ctrl.modno.toNat ++ sha256 b
    ++ fit 32 (cfgFw b) ++ toBytes 4 s.ctrl.retired.length)
  head ++ fit 384 (Config.identitySign head)

/-- ATTEST (R490, R492): the first 248 bytes of the report in the slot from byte 8, the rest in the host buffer whose address stands
in bytes 40 to 47. -/
def execAttest (fn : BitVec 2) (slot : BitVec 4) (s : State) : Out :=
  .next (s.mailbox fn slot 0x23 fun s =>
    let tag := s.slotTag fn slot
    let nonce := s.slotBytes fn slot 8 32
    let a := s.slotWord fn slot 40
    let r := s.report nonce
    ((((s.accepted fn slot).putSlot fn slot 8 (r.take 248)).putHost a (clean (r.drop 248)))).completed fn slot 0x23 tag false 0)

/-- CFGLOAD (R490): a block in host memory is checked as R487 and R488 say, and then written to flash. -/
def execCfgload (fn : BitVec 2) (slot : BitVec 4) (s : State) : Out :=
  .next (s.mailbox fn slot 0x25 fun s =>
    let tag := s.slotTag fn slot
    let len := s.argWord fn slot 1
    let bs := if len ≤ 2 ^ 20 then s.hostBytes (s.argWord fn slot 0) len else []
    let b := bs.map fun x => x.1
    let s := s.accepted fn slot
    if anyPoison bs || s.cfgReason b != 0 then s.completed fn slot 0x25 tag true 0
    else
      (s.modCtrl fun c =>
        { c with
          cfgLen := b.length
          config := (b.zip (upto b.length)).filterMap fun e => if e.1 == 0 then none else some (e.2, e.1) }).completed fn slot 0x25 tag
        false 0)

/-- DEFRD (R490): the live map, two bytes a tile; the defect list and the retirement list, four bytes an entry, each
after its length; of the retirement list the tiles come first and then the cells of 09_matrix.md R271 (R480). -/
def execDefrd (fn : BitVec 2) (slot : BitVec 4) (s : State) : Out :=
  .next (s.mailbox fn slot 0x26 fun s =>
    let a := s.argWord fn slot 0
    if a % 4096 != 0 then s.refuse fn slot 0xC9
    else
      let tag := s.slotTag fn slot
      let defects := s.ctrl.deadTiles ++ s.ctrl.deadLinks.map fun d => d.1 + 2 ^ 16 * d.2
      let d := ((upto tileCount).flatMap fun t => toBytes 2 (s.home t))
        ++ toBytes 4 defects.length ++ defects.flatMap (toBytes 4)
        ++ toBytes 4 s.ctrl.retired.length ++ s.ctrl.retired.flatMap (fun e => toBytes 4 (e.1 + 2 ^ 16 * e.2.toNat))
        ++ toBytes 4 s.ctrl.cellLog.length ++ s.ctrl.cellLog.flatMap (toBytes 4)
      ((s.accepted fn slot).putHost a (clean d)).completed fn slot 0x26 tag false 0)

/-- CLRRET (R480, R490): a clearing block, signed as a configuration block is, empties the retirement list. -/
def execClrret (fn : BitVec 2) (slot : BitVec 4) (s : State) : Out :=
  .next (s.mailbox fn slot 0x27 fun s =>
    let tag := s.slotTag fn slot
    let a := s.argWord fn slot 0
    let len := ofBytes ((s.hostBytes (a + 8) 4).map fun x => x.1)
    let bs := if len ≤ 2 ^ 20 then s.hostBytes a len else []
    let s := s.accepted fn slot
    if anyPoison bs || s.cfgReason (bs.map fun x => x.1) != 0 then s.completed fn slot 0x27 tag true 0
    else (s.modCtrl fun c => { c with retired := [], cellLog := [] }).completed fn slot 0x27 tag false 0)

/-! ### Power and temperature (R493) -/

/-- The number of a power state. -/
def Power.code : Power → Nat
  | .p0 => 0
  | .p1 => 1
  | .p2 => 2
  | .p3 => 3
  | .off => 4

/-- The allowed rise and fall of a power state (R493; 13_control_slice.md R390). -/
def Power.ramp : Power → Option Nat
  | .p0 => some 120
  | .p1 => some 64
  | _ => none

/-- Enter a power state: RAMPCFG of every tile, the optical ports down in P3 until they train again (R333), which ends an UNREEF
under way, and event 0xF2 with a cause. -/
def State.setPower (s : State) (p : Power) (cause : Byte) : State :=
  let old := s.ctrl.power
  let s := s.modCtrl fun c => { c with power := p }
  let s := match p.ramp with
    | none => s
    | some n => (upto tileCount).foldl (fun s t =>
        let r := (s.tile t).ctl.ramp
        if r.up == n && r.dn == n then s else s.atTile t fun s => s.modCtl fun c => { c with ramp := { c.ramp with up := n, dn := n } }) s
  let s := if p == .p3 then
      s.ports.foldl (fun s e => if e.2.up || e.2.training then s.closePort e.1 e.2 else s) s
    else s
  s.moduleEvent 0xF2 4 0 (BitVec.ofNat 64 (p.code + 16 * old.code) ||| cause.setWidth 64 <<< 8) 0

/-- PSTATE (R490, R493): P2 and P3 with regions bound are refused with busy. The cause in event 0xF2 is free. -/
def execPstate (fn : BitVec 2) (slot : BitVec 4) (s : State) : Out :=
  .next (s.mailbox fn slot 0x24 fun s =>
    let k := (s.slotByte fn slot 8).toNat
    if 4 ≤ k then s.refuse fn slot 0xC9
    else if 2 ≤ k ∧ s.ctrl.regions.any (fun r => r.live) then s.answer fn slot 3 0
    else
      let tag := s.slotTag fn slot
      let p : Power := if k = 0 then .p0 else if k = 1 then .p1 else if k = 2 then .p2 else .p3
      let (w, s) := (s.accepted fn slot).freeCode
      let s := if p == s.ctrl.power then s else s.setPower p w
      s.completed fn slot 0x24 tag false 0)

/-- TEMPERATURE_WARNING (R493): P1, with event 0xF3. A state that draws less is kept. -/
def execTemperatureWarning (sensor : Word) (s : State) : Out :=
  let s := s.moduleEvent 0xF3 4 0 sensor 0
  .next (if s.ctrl.power == .p0 then s.setPower .p1 0xF3 else s)

/-- TEMPERATURE_CRITICAL (R493): every region is torn down, P3 is forced, and event 0xF3 has ARG1 = 1. -/
def execTemperatureCritical (sensor : Word) (s : State) : Out :=
  let s := s.ctrl.regions.foldl (fun s r => s.teardown r.id 0xF3) s
  let s := s.moduleEvent 0xF3 4 0 sensor 1
  .next (if s.ctrl.power == .p3 || s.ctrl.power == .off then s else s.setPower .p3 0xF3)

end Sys2Proof.Machine
end

