-- ==== Sys2Proof/Machine/TrapEvents.lean ====
section
/-!
DEFINITION. The events of the trap unit and of the control and status registers (17_faults_repair.md R468-R475;
06_number_formats.md R175; 05_tile_buffers.md R142, R145; 09_matrix.md R269; 15_sync_time_phases.md R424; 02_bundles.md R37).
-/

namespace Sys2Proof.Machine

open Sys2Proof

/-- TRAP_ENTRY (R469): a cause enters the handler that its code enables, waits behind a running one if it is of A kind, and
escalates otherwise. No cause has an unassigned code (00_scope.md R12). -/
def execTrapEntry (c : Cause) (s : State) : Out := .next (if assigned c.code then s.trapEntry c else s)

/-- HANDLER_TIMEOUT (R473): a handler that has not returned within 2^20 cycles; its trap escalates as code 0x16. -/
def execHandlerTimeout (s : State) : Out :=
  let t := s.t.ctl.trap
  if t.hnd && !s.t.ctl.frozen && decide (t.hstart + 2 ^ 20 ≤ s.cycle) then
    .next (s.escalate
      { code := 0x16, arg := bits 0 8 t.cause, slot := bits 12 4 t.cause, async := bit 10 t.cause, lane := bit 9 t.cause
        val := t.val })
  else .next s

/-- ESCALATION (R474, R475): the region runtime freezes the tile, writes event 0xEA and ends or reruns. The code that the event carries,
and beside code 0x16 the original one, is an assigned code (00_scope.md R12). -/
def execEscalation (c : Cause) (s : State) : Out :=
  .next (if assigned c.code && (c.code != 0x16 || assigned c.arg) then s.escalate c else s)

/-- LFPSR_WRITE (R175): a word written, then the lane flags of the same cycle. -/
def execLfpsrWrite (v : Word) (fl : BitVec 20) (s : State) : Out :=
  .next ((s.putLfpsr v).modLane fun l => { l with flags := l.flags ||| fl })

/-- BUFECC_CLEAR (R145). -/
def execBufeccClear (v : Word) (s : State) : Out := .next (s.clearBufecc v)

/-- MXSR_CLEAR (R269). -/
def execMxsrClear (v : Word) (s : State) : Out := .next (s.clearMxsr v)

/-- SEMST_CLEAR (R424). -/
def execSemstClear (v : Word) (s : State) : Out := .next (s.clearSemst v)

/-- TCTL_ESC_SET (R468): a CSRS of TCTL whose word names ESC. -/
def execTctlEscSet (v : Word) (s : State) : Out := .next (s.csrPut .set 0x010 (v ||| 2))

/-- A turn right after the control turn that this tile still has in this cycle, or at once: the faults of one cycle are taken in the
order of R471. -/
def afterControl (t : Nat) (x : Turn) (l : List Turn) : List Turn :=
  if l.contains (.control t) then l.takeWhile (fun y => y != .control t) ++ [.control t, x] ++ (l.dropWhile fun y => y != .control t).tail
  else x :: l

/-- A precise fault of the lanes: the lane sequencer stops, and the fault is taken after the control slice's of the same cycle
(17_faults_repair.md R469, R471). -/
def laneFault (c : Cause) (s : State) : State :=
  let s := s.modLane fun l => { l with stop := true }
  { s with agenda := afterControl s.here (.auto s.here (.trap c)) s.agenda }

/-- The refetch source of the bank of an I-store address (R143). -/
def Buf.source (b : Buf) (a : Nat) : Option BankSource := if a < 0x8000 then b.src0 else b.src1

/-- The words of a bundle whose parity fails (R142). -/
def Buf.badFetch (b : Buf) (a n : Nat) : Option Nat :=
  (upto n).findSome? fun i => if SMap.get false b.ispar ((0x400000 + a + i) / 8) then some (a + i) else none

/-- ISTORE_REFETCH (R142): the 64-byte block of a word whose parity failed is copied again from the image; with no source, or when
the copy fails, the sequencer that fetched it faults with 0x82. Bytes of the bank past the image's section are zero, as at launch. On the
lane side the refetch is a precise lane fault: the rows in flight complete (09_matrix.md R245), and the bundle is replayed once every write
before it has landed (08_vector.md R214). -/
def execIstoreRefetch (lane : Bool) (addr : Nat) (s : State) : Out :=
  let a := addr % 0x10000
  if !SMap.get false s.t.buf.ispar ((0x400000 + a) / 8) then .next s
  else
    let s := s.modBuf fun b => { b with iparc := inc16 b.iparc }
    let c : Cause := { code := 0x82, arg := 0, slot := 15, async := false, lane := lane, val := 0 }
    let s := if lane then (s.flush).modLane fun l => { l with replay := true } else s
    let fail (s : State) : State := if lane then laneFault c s else s.trapEntry c
    match s.t.buf.source a with
    | none => .next (fail s)
    | some src =>
      let o := a % 0x8000 / 64 * 64
      let n := min 64 (src.len - o)
      let (d, s) := s.readFar src.asid 3 (src.va + src.off + o) n
      match cleanBytes d with
      | none => .next (fail s)
      | some d =>
        .next (s.modBuf fun b => b.write (cellsOf (0x400000 + a / 64 * 64) (clean (d ++ List.replicate (64 - n) 0))))

/-- ILLEGAL_BUNDLE (R37, R38): the control slice raises fault 0x01, 0x02 or 0x03 at its bundle, which has no effect. -/
def execIllegalBundle (code : Byte) (slot : BitVec 4) (s : State) : Out :=
  if 1 ≤ code.toNat ∧ code.toNat ≤ 3 then
    .next (s.trapEntry { code := code, arg := 0, slot := slot, async := false, lane := false, val := 0 })
  else .next s

end Sys2Proof.Machine
end

