-- ==== Sys2Proof/Machine/Dispatch.lean ====
section
/-!
DEFINITION. The meaning of every row of the opcode table: one arm for each constructor of Instr.
-/

namespace Sys2Proof.Machine

/-- The meaning of one instruction or event, for the tile `s.here`. -/
def exec (i : Instr) (s : State) : Host.Outcome State Fault Refusal :=
  match i with
  | .nop k e => Sys2Proof.Machine.execNop k e s
  | .add xd xa xb => Sys2Proof.Machine.execAdd xd xa xb s
  | .sub xd xa xb => Sys2Proof.Machine.execSub xd xa xb s
  | .addi xd xa imm => Sys2Proof.Machine.execAddi xd xa imm s
  | .mul xd xa xb => Sys2Proof.Machine.execMul xd xa xb s
  | .mulh xd xa xb => Sys2Proof.Machine.execMulh xd xa xb s
  | .mulhu xd xa xb => Sys2Proof.Machine.execMulhu xd xa xb s
  | .div xd xa xb => Sys2Proof.Machine.execDiv xd xa xb s
  | .divu xd xa xb => Sys2Proof.Machine.execDivu xd xa xb s
  | .rem xd xa xb => Sys2Proof.Machine.execRem xd xa xb s
  | .remu xd xa xb => Sys2Proof.Machine.execRemu xd xa xb s
  | .min xd xa xb => Sys2Proof.Machine.execMin xd xa xb s
  | .max xd xa xb => Sys2Proof.Machine.execMax xd xa xb s
  | .minu xd xa xb => Sys2Proof.Machine.execMinu xd xa xb s
  | .maxu xd xa xb => Sys2Proof.Machine.execMaxu xd xa xb s
  | .and xd xa xb => Sys2Proof.Machine.execAnd xd xa xb s
  | .or xd xa xb => Sys2Proof.Machine.execOr xd xa xb s
  | .xor xd xa xb => Sys2Proof.Machine.execXor xd xa xb s
  | .andi xd xa imm => Sys2Proof.Machine.execAndi xd xa imm s
  | .ori xd xa imm => Sys2Proof.Machine.execOri xd xa imm s
  | .xori xd xa imm => Sys2Proof.Machine.execXori xd xa imm s
  | .shl xd xa xb => Sys2Proof.Machine.execShl xd xa xb s
  | .shr xd xa xb => Sys2Proof.Machine.execShr xd xa xb s
  | .sra xd xa xb => Sys2Proof.Machine.execSra xd xa xb s
  | .shli xd xa k => Sys2Proof.Machine.execShli xd xa k s
  | .shri xd xa k => Sys2Proof.Machine.execShri xd xa k s
  | .srai xd xa k => Sys2Proof.Machine.execSrai xd xa k s
  | .clz xd xa => Sys2Proof.Machine.execClz xd xa s
  | .ctz xd xa => Sys2Proof.Machine.execCtz xd xa s
  | .popc xd xa => Sys2Proof.Machine.execPopc xd xa s
  | .seq xd xa xb => Sys2Proof.Machine.execSeq xd xa xb s
  | .sne xd xa xb => Sys2Proof.Machine.execSne xd xa xb s
  | .slt xd xa xb => Sys2Proof.Machine.execSlt xd xa xb s
  | .sltu xd xa xb => Sys2Proof.Machine.execSltu xd xa xb s
  | .slti xd xa imm => Sys2Proof.Machine.execSlti xd xa imm s
  | .sltiu xd xa imm => Sys2Proof.Machine.execSltiu xd xa imm s
  | .wfld xd xa n => Sys2Proof.Machine.execWfld xd xa n s
  | .bfx xd xa lsb len1 => Sys2Proof.Machine.execBfx xd xa lsb len1 s
  | .bfxu xd xa lsb len1 => Sys2Proof.Machine.execBfxu xd xa lsb len1 s
  | .bfins xd xa lsb len1 => Sys2Proof.Machine.execBfins xd xa lsb len1 s
  | .li xd imm => Sys2Proof.Machine.execLi xd imm s
  | .lix xd imm => Sys2Proof.Machine.execLix xd imm s
  | .addx xd xa imm => Sys2Proof.Machine.execAddx xd xa imm s
  | .addsh xd xa xb => Sys2Proof.Machine.execAddsh xd xa xb s
  | .csrr xd csr => Sys2Proof.Machine.execCsrr xd csr s
  | .csrw csr xa => Sys2Proof.Machine.execCsrw csr xa s
  | .csrs csr xa => Sys2Proof.Machine.execCsrs csr xa s
  | .csrc csr xa => Sys2Proof.Machine.execCsrc csr xa s
  | .accept xd => Sys2Proof.Machine.execAccept xd s
  | .acceptWidDeliver => Sys2Proof.Machine.execAcceptWidDeliver s
  | .jmp off => Sys2Proof.Machine.execJmp off s
  | .jmpr xa => Sys2Proof.Machine.execJmpr xa s
  | .call off => Sys2Proof.Machine.execCall off s
  | .callr xa => Sys2Proof.Machine.execCallr xa s
  | .ret => Sys2Proof.Machine.execRet s
  | .beq xa xb off => Sys2Proof.Machine.execBeq xa xb off s
  | .bne xa xb off => Sys2Proof.Machine.execBne xa xb off s
  | .blt xa xb off => Sys2Proof.Machine.execBlt xa xb off s
  | .bge xa xb off => Sys2Proof.Machine.execBge xa xb off s
  | .bltu xa xb off => Sys2Proof.Machine.execBltu xa xb off s
  | .bgeu xa xb off => Sys2Proof.Machine.execBgeu xa xb off s
  | .loop xa off => Sys2Proof.Machine.execLoop xa off s
  | .bswap idx => Sys2Proof.Machine.execBswap idx s
  | .trap n => Sys2Proof.Machine.execTrap n s
  | .eret => Sys2Proof.Machine.execEret s
  | .endp => Sys2Proof.Machine.execEndp s
  | .ldb m xd => Sys2Proof.Machine.execLdb m xd s
  | .ldbu m xd => Sys2Proof.Machine.execLdbu m xd s
  | .ldh m xd => Sys2Proof.Machine.execLdh m xd s
  | .ldhu m xd => Sys2Proof.Machine.execLdhu m xd s
  | .ldw m xd => Sys2Proof.Machine.execLdw m xd s
  | .ldwu m xd => Sys2Proof.Machine.execLdwu m xd s
  | .ldd m xd => Sys2Proof.Machine.execLdd m xd s
  | .stb m xd => Sys2Proof.Machine.execStb m xd s
  | .sth m xd => Sys2Proof.Machine.execSth m xd s
  | .stw m xd => Sys2Proof.Machine.execStw m xd s
  | .std m xd => Sys2Proof.Machine.execStd m xd s
  | .amoadd m xd xb => Sys2Proof.Machine.execAmoadd m xd xb s
  | .amoand m xd xb => Sys2Proof.Machine.execAmoand m xd xb s
  | .amoor m xd xb => Sys2Proof.Machine.execAmoor m xd xb s
  | .amoxor m xd xb => Sys2Proof.Machine.execAmoxor m xd xb s
  | .amomin m xd xb => Sys2Proof.Machine.execAmomin m xd xb s
  | .amomax m xd xb => Sys2Proof.Machine.execAmomax m xd xb s
  | .amominu m xd xb => Sys2Proof.Machine.execAmominu m xd xb s
  | .amomaxu m xd xb => Sys2Proof.Machine.execAmomaxu m xd xb s
  | .amoswap m xd xb => Sys2Proof.Machine.execAmoswap m xd xb s
  | .amocas m xd xb => Sys2Proof.Machine.execAmocas m xd xb s
  | .chrsv ch xa => Sys2Proof.Machine.execChrsv ch xa s
  | .chrsvGrant => Sys2Proof.Machine.execChrsvGrant s
  | .chrel ch xa => Sys2Proof.Machine.execChrel ch xa s
  | .chwait ch xa => Sys2Proof.Machine.execChwait ch xa s
  | .chwaitGrant => Sys2Proof.Machine.execChwaitGrant s
  | .chstat xd ch => Sys2Proof.Machine.execChstat xd ch s
  | .ramo cls xd xa aop sz det xb => Sys2Proof.Machine.execRamo cls xd xa aop sz det xb s
  | .ramoHomePerform r => Sys2Proof.Machine.execRamoHomePerform r s
  | .ramoResponse r => Sys2Proof.Machine.execRamoResponse r s
  | .detRamoApply => Sys2Proof.Machine.execDetRamoApply s
  | .wshp sh fld xa => Sys2Proof.Machine.execWshp sh fld xa s
  | .wshrd xd sh fld => Sys2Proof.Machine.execWshrd xd sh fld s
  | .wcopy h ssh dsh o ba pc tag => Sys2Proof.Machine.execWcopy h ssh dsh o ba pc tag s
  | .whalo h sh dm fw hw o tag => Sys2Proof.Machine.execWhalo h sh dm fw hw o tag s
  | .wamo h aop sz xa xb xc o tag => Sys2Proof.Machine.execWamo h aop sz xa xb xc o tag s
  | .wamor h aop sz xa xb xc xd o tag => Sys2Proof.Machine.execWamor h aop sz xa xb xc xd o tag s
  | .wcrc h sh alg xw o tag => Sys2Proof.Machine.execWcrc h sh alg xw o tag s
  | .wfillw h ssh dsh xg si o tag => Sys2Proof.Machine.execWfillw h ssh dsh xg si o tag s
  | .wsig h o ba tag => Sys2Proof.Machine.execWsig h o ba tag s
  | .wflush h fq => Sys2Proof.Machine.execWflush h fq s
  | .wtlbp h xa kind o tag => Sys2Proof.Machine.execWtlbp h xa kind o tag s
  | .wrqcfgRq n xa xb => Sys2Proof.Machine.execWrqcfgRq n xa xb s
  | .wrqcfgCr n xa xb => Sys2Proof.Machine.execWrqcfgCr n xa xb s
  | .wscrubInterval h xa si o tag => Sys2Proof.Machine.execWscrubInterval h xa si o tag s
  | .wscrubNow h xa si o tag => Sys2Proof.Machine.execWscrubNow h xa si o tag s
  | .wscrubDrop h xa si o tag => Sys2Proof.Machine.execWscrubDrop h xa si o tag s
  | .wstat xd => Sys2Proof.Machine.execWstat xd s
  | .winchCommandStart q => Sys2Proof.Machine.execWinchCommandStart q s
  | .winchCommandComplete id => Sys2Proof.Machine.execWinchCommandComplete id s
  | .requestPacketGet n => Sys2Proof.Machine.execRequestPacketGet n s
  | .requestPacketPut n => Sys2Proof.Machine.execRequestPacketPut n s
  | .requestPacketAmo n => Sys2Proof.Machine.execRequestPacketAmo n s
  | .requestPacketSig n => Sys2Proof.Machine.execRequestPacketSig n s
  | .remoteWinchRequest r => Sys2Proof.Machine.execRemoteWinchRequest r s
  | .winchResponse r => Sys2Proof.Machine.execWinchResponse r s
  | .scrubIntervalExpire => Sys2Proof.Machine.execScrubIntervalExpire s
  | .xlatMissArrive m => Sys2Proof.Machine.execXlatMissArrive m s
  | .xlatMissRetry m => Sys2Proof.Machine.execXlatMissRetry m s
  | .xlatWalkComplete side id => Sys2Proof.Machine.execXlatWalkComplete side id s
  | .xlatFillArrive f => Sys2Proof.Machine.execXlatFillArrive f s
  | .xlatSideFail side => Sys2Proof.Machine.execXlatSideFail side s
  | .invalidationComplete => Sys2Proof.Machine.execInvalidationComplete s
  | .dispatch blk xn imt rot den se sem => Sys2Proof.Machine.execDispatch blk xn imt rot den se sem s
  | .mask p xa xb => Sys2Proof.Machine.execMask p xa xb s
  | .param q src => Sys2Proof.Machine.execParam q src s
  | .scfg st fld xa => Sys2Proof.Machine.execScfg st fld xa s
  | .ldepth l => Sys2Proof.Machine.execLdepth l s
  | .rbset b => Sys2Proof.Machine.execRbset b s
  | .rseed xa => Sys2Proof.Machine.execRseed xa s
  | .tokenTake => Sys2Proof.Machine.execTokenTake s
  | .blockEndSignal => Sys2Proof.Machine.execBlockEndSignal s
  | .laneWriteLand => Sys2Proof.Machine.execLaneWriteLand s
  | .rampWindowEnd => Sys2Proof.Machine.execRampWindowEnd s
  | .semsig h sem inc => Sys2Proof.Machine.execSemsig h sem inc s
  | .semwait sem xa => Sys2Proof.Machine.execSemwait sem xa s
  | .semwaitSatisfy => Sys2Proof.Machine.execSemwaitSatisfy s
  | .semset sem xa => Sys2Proof.Machine.execSemset sem xa s
  | .semrd xd sem => Sys2Proof.Machine.execSemrd xd sem s
  | .arrive h nb => Sys2Proof.Machine.execArrive h nb s
  | .wait nb => Sys2Proof.Machine.execWait nb s
  | .arrwait nb => Sys2Proof.Machine.execArrwait nb s
  | .barrierWaitSatisfy => Sys2Proof.Machine.execBarrierWaitSatisfy s
  | .barset xd nb xa w => Sys2Proof.Machine.execBarset xd nb xa w s
  | .waita xd xa xb ne sz tmo => Sys2Proof.Machine.execWaita xd xa xb ne sz tmo s
  | .waitaWake => Sys2Proof.Machine.execWaitaWake s
  | .waitaTimeout => Sys2Proof.Machine.execWaitaTimeout s
  | .waitt xa => Sys2Proof.Machine.execWaitt xa s
  | .waittComplete => Sys2Proof.Machine.execWaittComplete s
  | .rdtime xd => Sys2Proof.Machine.execRdtime xd s
  | .phbegin => Sys2Proof.Machine.execPhbegin s
  | .phbeginSnapshot => Sys2Proof.Machine.execPhbeginSnapshot s
  | .phcommit => Sys2Proof.Machine.execPhcommit s
  | .phcommitCommit => Sys2Proof.Machine.execPhcommitCommit s
  | .phaseBarrierComplete => Sys2Proof.Machine.execPhaseBarrierComplete s
  | .phcancel => Sys2Proof.Machine.execPhcancel s
  | .phaseCancel => Sys2Proof.Machine.execPhaseCancel s
  | .fence h cm => Sys2Proof.Machine.execFence h cm s
  | .fenceComplete => Sys2Proof.Machine.execFenceComplete s
  | .ifence => Sys2Proof.Machine.execIfence s
  | .ifenceComplete => Sys2Proof.Machine.execIfenceComplete s
  | .digrd xd sel => Sys2Proof.Machine.execDigrd xd sel s
  | .digset xa w => Sys2Proof.Machine.execDigset xa w s
  | .collb id xa xb => Sys2Proof.Machine.execCollb id xa xb s
  | .collopen id xa xb => Sys2Proof.Machine.execCollopen id xa xb s
  | .collopenReserve => Sys2Proof.Machine.execCollopenReserve s
  | .collabt id => Sys2Proof.Machine.execCollabt id s
  | .collst xd id => Sys2Proof.Machine.execCollst xd id s
  | .vadd h d a b ty u sat => Sys2Proof.Machine.execVadd h d a b ty u sat s
  | .vsub h d a b ty u sat => Sys2Proof.Machine.execVsub h d a b ty u sat s
  | .vmul h d a b ty u sat => Sys2Proof.Machine.execVmul h d a b ty u sat s
  | .vmulh h d a b ty u => Sys2Proof.Machine.execVmulh h d a b ty u s
  | .vmad h d a b c ty u sat => Sys2Proof.Machine.execVmad h d a b c ty u sat s
  | .vneg h d a ty sat => Sys2Proof.Machine.execVneg h d a ty sat s
  | .vabs h d a ty sat => Sys2Proof.Machine.execVabs h d a ty sat s
  | .vdot4 h d a b c u sat => Sys2Proof.Machine.execVdot4 h d a b c u sat s
  | .vmin h d a b ty => Sys2Proof.Machine.execVmin h d a b ty s
  | .vmax h d a b ty => Sys2Proof.Machine.execVmax h d a b ty s
  | .vminu h d a b ty => Sys2Proof.Machine.execVminu h d a b ty s
  | .vmaxu h d a b ty => Sys2Proof.Machine.execVmaxu h d a b ty s
  | .vand h d a b => Sys2Proof.Machine.execVand h d a b s
  | .vor h d a b => Sys2Proof.Machine.execVor h d a b s
  | .vxor h d a b => Sys2Proof.Machine.execVxor h d a b s
  | .vandn h d a b => Sys2Proof.Machine.execVandn h d a b s
  | .vnot h d a => Sys2Proof.Machine.execVnot h d a s
  | .vbsel h d a b c => Sys2Proof.Machine.execVbsel h d a b c s
  | .vpopc h d a ty => Sys2Proof.Machine.execVpopc h d a ty s
  | .vclz h d a ty => Sys2Proof.Machine.execVclz h d a ty s
  | .vshl h d a b ty => Sys2Proof.Machine.execVshl h d a b ty s
  | .vshr h d a b ty => Sys2Proof.Machine.execVshr h d a b ty s
  | .vsra h d a b ty => Sys2Proof.Machine.execVsra h d a b ty s
  | .vshli h d a ty k => Sys2Proof.Machine.execVshli h d a ty k s
  | .vshri h d a ty k => Sys2Proof.Machine.execVshri h d a ty k s
  | .vsrai h d a ty k => Sys2Proof.Machine.execVsrai h d a ty k s
  | .vcmpeq h p a b ty => Sys2Proof.Machine.execVcmpeq h p a b ty s
  | .vcmpne h p a b ty => Sys2Proof.Machine.execVcmpne h p a b ty s
  | .vcmplt h p a b ty => Sys2Proof.Machine.execVcmplt h p a b ty s
  | .vcmple h p a b ty => Sys2Proof.Machine.execVcmple h p a b ty s
  | .vcmpltu h p a b ty => Sys2Proof.Machine.execVcmpltu h p a b ty s
  | .vcmpleu h p a b ty => Sys2Proof.Machine.execVcmpleu h p a b ty s
  | .vfadd h d a b ty rm sat => Sys2Proof.Machine.execVfadd h d a b ty rm sat s
  | .vfmul h d a b ty rm sat => Sys2Proof.Machine.execVfmul h d a b ty rm sat s
  | .vfsub h d a b ty rm sat => Sys2Proof.Machine.execVfsub h d a b ty rm sat s
  | .vfma h d a b c ty rm sat => Sys2Proof.Machine.execVfma h d a b c ty rm sat s
  | .vfms h d a b c ty rm sat => Sys2Proof.Machine.execVfms h d a b c ty rm sat s
  | .vfnma h d a b c ty rm sat => Sys2Proof.Machine.execVfnma h d a b c ty rm sat s
  | .vfmin h d a b ty => Sys2Proof.Machine.execVfmin h d a b ty s
  | .vfmax h d a b ty => Sys2Proof.Machine.execVfmax h d a b ty s
  | .vfabs h d a ty => Sys2Proof.Machine.execVfabs h d a ty s
  | .vfneg h d a ty => Sys2Proof.Machine.execVfneg h d a ty s
  | .vfcmpeq h p a b ty => Sys2Proof.Machine.execVfcmpeq h p a b ty s
  | .vfcmplt h p a b ty => Sys2Proof.Machine.execVfcmplt h p a b ty s
  | .vfcmple h p a b ty => Sys2Proof.Machine.execVfcmple h p a b ty s
  | .vfcmpun h p a b ty => Sys2Proof.Machine.execVfcmpun h p a b ty s
  | .vfclass h p a ty cm => Sys2Proof.Machine.execVfclass h p a ty cm s
  | .vfscale h d a b ty rm sat => Sys2Proof.Machine.execVfscale h d a b ty rm sat s
  | .vcvt h d a ty df u rm sat => Sys2Proof.Machine.execVcvt h d a ty df u rm sat s
  | .vcvthb h d a df rm sat => Sys2Proof.Machine.execVcvthb h d a df rm sat s
  | .vcvtfhb h d a ty t rm => Sys2Proof.Machine.execVcvtfhb h d a ty t rm s
  | .vcvtmx h d a rm => Sys2Proof.Machine.execVcvtmx h d a rm s
  | .vcvtxm h d a rm => Sys2Proof.Machine.execVcvtxm h d a rm s
  | .vcvtscl h d a ty dir rm sat => Sys2Proof.Machine.execVcvtscl h d a ty dir rm sat s
  | .vperm h d a b c ty => Sys2Proof.Machine.execVperm h d a b c ty s
  | .vshuf h d a sel => Sys2Proof.Machine.execVshuf h d a sel s
  | .vrot h d a ty k => Sys2Proof.Machine.execVrot h d a ty k s
  | .vslide h d a b ty k => Sys2Proof.Machine.execVslide h d a b ty k s
  | .vzipl h d a b ty => Sys2Proof.Machine.execVzipl h d a b ty s
  | .vziph h d a b ty => Sys2Proof.Machine.execVziph h d a b ty s
  | .vuzpe h d a b ty => Sys2Proof.Machine.execVuzpe h d a b ty s
  | .vuzpo h d a b ty => Sys2Proof.Machine.execVuzpo h d a b ty s
  | .vbcst h d a ty k => Sys2Proof.Machine.execVbcst h d a ty k s
  | .vcmpr h d a p ty => Sys2Proof.Machine.execVcmpr h d a p ty s
  | .vexpd h d a p ty => Sys2Proof.Machine.execVexpd h d a p ty s
  | .vtrn h d a b ty hi => Sys2Proof.Machine.execVtrn h d a b ty hi s
  | .vred h d a ty opr u rm sat => Sys2Proof.Machine.execVred h d a ty opr u rm sat s
  | .vredx h d a c acc rm sat => Sys2Proof.Machine.execVredx h d a c acc rm sat s
  | .vscan h d a ty opr u rm sat => Sys2Proof.Machine.execVscan h d a ty opr u rm sat s
  | .vrcp h d a ty rm sat => Sys2Proof.Machine.execVrcp h d a ty rm sat s
  | .vrsq h d a ty rm sat => Sys2Proof.Machine.execVrsq h d a ty rm sat s
  | .vsqrt h d a ty rm sat => Sys2Proof.Machine.execVsqrt h d a ty rm sat s
  | .vexp2 h d a ty rm sat => Sys2Proof.Machine.execVexp2 h d a ty rm sat s
  | .vlog2 h d a ty rm sat => Sys2Proof.Machine.execVlog2 h d a ty rm sat s
  | .vtanh h d a ty rm sat => Sys2Proof.Machine.execVtanh h d a ty rm sat s
  | .vsigm h d a ty rm sat => Sys2Proof.Machine.execVsigm h d a ty rm sat s
  | .vmov h d a => Sys2Proof.Machine.execVmov h d a s
  | .vmovx h d imm => Sys2Proof.Machine.execVmovx h d imm s
  | .vpoprq h d q => Sys2Proof.Machine.execVpoprq h d q s
  | .vrnd h d => Sys2Proof.Machine.execVrnd h d s
  | .pand h d a b => Sys2Proof.Machine.execPand h d a b s
  | .por h d a b => Sys2Proof.Machine.execPor h d a b s
  | .pxor h d a b => Sys2Proof.Machine.execPxor h d a b s
  | .pandn h d a b => Sys2Proof.Machine.execPandn h d a b s
  | .vtop h d a ty => Sys2Proof.Machine.execVtop h d a ty s
  | .ptov h d a ty => Sys2Proof.Machine.execPtov h d a ty s
  | .mpushb g st au row => Sys2Proof.Machine.execMpushb g st au row s
  | .mpushbz g au row => Sys2Proof.Machine.execMpushbz g au row s
  | .mflip g => Sys2Proof.Machine.execMflip g s
  | .mpusha g a fr row nw => Sys2Proof.Machine.execMpusha g a fr row nw s
  | .mpushas g a fr row ix => Sys2Proof.Machine.execMpushas g a fr row ix s
  | .mpushan g a fr nw sp ix => Sys2Proof.Machine.execMpushan g a fr nw sp ix s
  | .mshift g => Sys2Proof.Machine.execMshift g s
  | .mdrain g q fr au row => Sys2Proof.Machine.execMdrain g q fr au row s
  | .mdrainz g q fr au row => Sys2Proof.Machine.execMdrainz g q fr au row s
  | .mzero g fr al row => Sys2Proof.Machine.execMzero g fr al row s
  | .mchk g d clr => Sys2Proof.Machine.execMchk g d clr s
  | .mcfg g af bf spm sat rst => Sys2Proof.Machine.execMcfg g af bf spm sat rst s
  | .vld h d a => Sys2Proof.Machine.execVld h d a s
  | .vldx h d a sz sb => Sys2Proof.Machine.execVldx h d a sz sb s
  | .vldb h d a off => Sys2Proof.Machine.execVldb h d a off s
  | .pld h d a => Sys2Proof.Machine.execPld h d a s
  | .vamoor h d a ret sz sb v => Sys2Proof.Machine.execVamoor h d a ret sz sb v s
  | .vamoand h d a ret sz sb v => Sys2Proof.Machine.execVamoand h d a ret sz sb v s
  | .vamoxor h d a ret sz sb v => Sys2Proof.Machine.execVamoxor h d a ret sz sb v s
  | .vamoadd h d a ret sz sb v => Sys2Proof.Machine.execVamoadd h d a ret sz sb v s
  | .vamomin h d a ret sz sb v => Sys2Proof.Machine.execVamomin h d a ret sz sb v s
  | .vamomax h d a ret sz sb v => Sys2Proof.Machine.execVamomax h d a ret sz sb v s
  | .vamoxchg h d a ret sz sb v => Sys2Proof.Machine.execVamoxchg h d a ret sz sb v s
  | .vamocas h d a ret sz sb v => Sys2Proof.Machine.execVamocas h d a ret sz sb v s
  | .vst h d a => Sys2Proof.Machine.execVst h d a s
  | .vstx h d a sz sb => Sys2Proof.Machine.execVstx h d a sz sb s
  | .pst h d a => Sys2Proof.Machine.execPst h d a s
  | .rqst h q a => Sys2Proof.Machine.execRqst h q a s
  | .fsend h d ch => Sys2Proof.Machine.execFsend h d ch s
  | .fsendq h q ch => Sys2Proof.Machine.execFsendq h q ch s
  | .fsends h d ch sem => Sys2Proof.Machine.execFsends h d ch sem s
  | .frecv h d ch => Sys2Proof.Machine.execFrecv h d ch s
  | .frecvt h d ch => Sys2Proof.Machine.execFrecvt h d ch s
  | .collv h d id => Sys2Proof.Machine.execCollv h d id s
  | .collq h q id => Sys2Proof.Machine.execCollq h q id s
  | .linkFlitReceive id noise => Sys2Proof.Machine.execLinkFlitReceive id noise s
  | .channelFlitArrive f => Sys2Proof.Machine.execChannelFlitArrive f s
  | .staticFlitArrive f => Sys2Proof.Machine.execStaticFlitArrive f s
  | .channelAckSend ch => Sys2Proof.Machine.execChannelAckSend ch s
  | .channelAckArrive ch a => Sys2Proof.Machine.execChannelAckArrive ch a s
  | .channelResendTimeout ch => Sys2Proof.Machine.execChannelResendTimeout ch s
  | .nakArrive n => Sys2Proof.Machine.execNakArrive n s
  | .generationResend n => Sys2Proof.Machine.execGenerationResend n s
  | .routeTableLoad tabs => Sys2Proof.Machine.execRouteTableLoad tabs s
  | .collUpwardFlit port f => Sys2Proof.Machine.execCollUpwardFlit port f s
  | .collResultFlit f => Sys2Proof.Machine.execCollResultFlit f s
  | .collAbortFlit port f => Sys2Proof.Machine.execCollAbortFlit port f s
  | .detourFlitArrive port f => Sys2Proof.Machine.execDetourFlitArrive port f s
  | .ringPartialArrive id f => Sys2Proof.Machine.execRingPartialArrive id f s
  | .ringAbortArrive id f => Sys2Proof.Machine.execRingAbortArrive id f s
  | .roundTimerExpire id => Sys2Proof.Machine.execRoundTimerExpire id s
  | .roundGraceExpire id => Sys2Proof.Machine.execRoundGraceExpire id s
  | .barrierArrivedFlit port f => Sys2Proof.Machine.execBarrierArrivedFlit port f s
  | .barrierReleaseFlit f => Sys2Proof.Machine.execBarrierReleaseFlit f s
  | .opticalDataFlit port f => Sys2Proof.Machine.execOpticalDataFlit port f s
  | .opticalIdleFlit port f => Sys2Proof.Machine.execOpticalIdleFlit port f s
  | .idleSendTimer port => Sys2Proof.Machine.execIdleSendTimer port s
  | .opticalReplayFlit port f => Sys2Proof.Machine.execOpticalReplayFlit port f s
  | .replayAgeTimeout port => Sys2Proof.Machine.execReplayAgeTimeout port s
  | .retrainTimeout port => Sys2Proof.Machine.execRetrainTimeout port s
  | .lightLoss port group => Sys2Proof.Machine.execLightLoss port group s
  | .reefFlit port f => Sys2Proof.Machine.execReefFlit port f s
  | .reefackFlit port f => Sys2Proof.Machine.execReefackFlit port f s
  | .reefRepeatTimer port => Sys2Proof.Machine.execReefRepeatTimer port s
  | .reefackTimeout port => Sys2Proof.Machine.execReefackTimeout port s
  | .unreefFlit port f => Sys2Proof.Machine.execUnreefFlit port f s
  | .unreefackFlit port f => Sys2Proof.Machine.execUnreefackFlit port f s
  | .portTraining port pmod pport => Sys2Proof.Machine.execPortTraining port pmod pport s
  | .hostLinkStateChange link mode rate width => Sys2Proof.Machine.execHostLinkStateChange link mode rate width s
  | .tileWindowAccess r => Sys2Proof.Machine.execTileWindowAccess r s
  | .farWindowAccess r => Sys2Proof.Machine.execFarWindowAccess r s
  | .hostAtomicop r => Sys2Proof.Machine.execHostAtomicop r s
  | .evheadWrite fn ring v => Sys2Proof.Machine.execEvheadWrite fn ring v s
  | .eventRingWrite fn ring => Sys2Proof.Machine.execEventRingWrite fn ring s
  | .registerWrite fn off x => Sys2Proof.Machine.execRegisterWrite fn off x s
  | .inval fn slot => Sys2Proof.Machine.execInval fn slot s
  | .lltget fn slot => Sys2Proof.Machine.execLltget fn slot s
  | .hcopy fn slot => Sys2Proof.Machine.execHcopy fn slot s
  | .unreef fn slot => Sys2Proof.Machine.execUnreef fn slot s
  | .evring fn slot => Sys2Proof.Machine.execEvring fn slot s
  | .timerd fn slot => Sys2Proof.Machine.execTimerd fn slot s
  | .xlstat fn slot => Sys2Proof.Machine.execXlstat fn slot s
  | .lrec fn slot => Sys2Proof.Machine.execLrec fn slot s
  | .qprio fn slot => Sys2Proof.Machine.execQprio fn slot s
  | .preempt fn slot => Sys2Proof.Machine.execPreempt fn slot s
  | .tdown fn slot => Sys2Proof.Machine.execTdown fn slot s
  | .rstat fn slot => Sys2Proof.Machine.execRstat fn slot s
  | .bstat fn slot => Sys2Proof.Machine.execBstat fn slot s
  | .splice fn slot => Sys2Proof.Machine.execSplice fn slot s
  | .resync fn slot => Sys2Proof.Machine.execResync fn slot s
  | .attest fn slot => Sys2Proof.Machine.execAttest fn slot s
  | .pstate fn slot => Sys2Proof.Machine.execPstate fn slot s
  | .cfgload fn slot => Sys2Proof.Machine.execCfgload fn slot s
  | .defrd fn slot => Sys2Proof.Machine.execDefrd fn slot s
  | .clrret fn slot => Sys2Proof.Machine.execClrret fn slot s
  | .mailboxUnknown fn slot => Sys2Proof.Machine.execMailboxUnknown fn slot s
  | .distributorCycle => Sys2Proof.Machine.execDistributorCycle s
  | .launchBind => Sys2Proof.Machine.execLaunchBind s
  | .tileStart => Sys2Proof.Machine.execTileStart s
  | .tileRelease => Sys2Proof.Machine.execTileRelease s
  | .softDeadlineExpire region => Sys2Proof.Machine.execSoftDeadlineExpire region s
  | .forcedPreemption region => Sys2Proof.Machine.execForcedPreemption region s
  | .mmBindMessage m => Sys2Proof.Machine.execMmBindMessage m s
  | .mmBindTimeout region => Sys2Proof.Machine.execMmBindTimeout region s
  | .mgmtMessageRelay m => Sys2Proof.Machine.execMgmtMessageRelay m s
  | .batchRequest lid pmod => Sys2Proof.Machine.execBatchRequest lid pmod s
  | .grantRecord lid batch holder => Sys2Proof.Machine.execGrantRecord lid batch holder s
  | .grantAck lid batch pmod => Sys2Proof.Machine.execGrantAck lid batch pmod s
  | .heartbeat lid pmod => Sys2Proof.Machine.execHeartbeat lid pmod s
  | .heartbeatTimeout lid pmod => Sys2Proof.Machine.execHeartbeatTimeout lid pmod s
  | .electionView v => Sys2Proof.Machine.execElectionView v s
  | .trapEntry c => Sys2Proof.Machine.execTrapEntry c s
  | .handlerTimeout => Sys2Proof.Machine.execHandlerTimeout s
  | .escalation c => Sys2Proof.Machine.execEscalation c s
  | .lfpsrWrite v fl => Sys2Proof.Machine.execLfpsrWrite v fl s
  | .bufeccClear v => Sys2Proof.Machine.execBufeccClear v s
  | .mxsrClear v => Sys2Proof.Machine.execMxsrClear v s
  | .semstClear v => Sys2Proof.Machine.execSemstClear v s
  | .tctlEscSet v => Sys2Proof.Machine.execTctlEscSet v s
  | .istoreRefetch lane addr => Sys2Proof.Machine.execIstoreRefetch lane addr s
  | .spliceExecute => Sys2Proof.Machine.execSpliceExecute s
  | .spliceTimeout => Sys2Proof.Machine.execSpliceTimeout s
  | .boot => Sys2Proof.Machine.execBoot s
  | .powerRemoval => Sys2Proof.Machine.execPowerRemoval s
  | .temperatureWarning sensor => Sys2Proof.Machine.execTemperatureWarning sensor s
  | .temperatureCritical sensor => Sys2Proof.Machine.execTemperatureCritical sensor s
  | .ptpMessage m locked => Sys2Proof.Machine.execPtpMessage m locked s
  | .timeLockLoss => Sys2Proof.Machine.execTimeLockLoss s
  | .timeLockRegain offset => Sys2Proof.Machine.execTimeLockRegain offset s
  | .illegalBundle code slot => Sys2Proof.Machine.execIllegalBundle code slot s
  | .collbReadComplete => Sys2Proof.Machine.execCollbReadComplete s
  | .farMemoryRequest id => Sys2Proof.Machine.execFarMemoryRequest id s
  | .lightRestore port group => Sys2Proof.Machine.execLightRestore port group s
  | .hcopyComplete id => Sys2Proof.Machine.execHcopyComplete id s
  | .eventVectorHoldoff fn ring => Sys2Proof.Machine.execEventVectorHoldoff fn ring s

end Sys2Proof.Machine
end

