-- ==== Sys2Proof/Machine/Issue.lean ====
section
/-!
DEFINITION. How bundles issue (02_bundles.md R29-R39; 13_control_slice.md R357, R369, R373, R376, R377; 17_faults_repair.md R469-R472)
and what a cycle schedules: the arrivals, the lane turns, the control turns and the Winch, in the order of 10_fabric.md R285 and
15_sync_time_phases.md R423.
-/

namespace Sys2Proof.Machine

open Sys2Proof

/-! ### Fetch -/

/-- The parcels of the I-store from an address to the end of its bank, as many as the longest bundle has (R27, R29, R30). -/
def Buf.parcels (b : Buf) (a : Nat) : List (BitVec 16) :=
  (upto (min 27 ((0x8000 - a % 0x8000) / 2))).map fun i => b.byte (0x400000 + a + 2 * i + 1) ++ b.byte (0x400000 + a + 2 * i)

/-- May the present tile issue at all: its region runs, it has started (16_launch.md R455), and no other tile of it runs a phase
alone (17_faults_repair.md R475)? -/
def State.mayRun (s : State) : Bool :=
  match s.region with
  | none => true
  | some r =>
    (r.state == .running || r.state == .softSaving || r.state == .forcedSaving) && r.started.contains s.here &&
      (match r.serial with
       | none => true
       | some t => t == s.here)

/-- Is the tile held: frozen, cancelling its phase, or at the point of a soft pre-emption with no handler to finish first? -/
def State.isHeld (s : State) : Bool :=
  s.t.ctl.frozen || s.t.sync.canceling || (s.t.ctl.softStop && !s.t.ctl.trap.hnd) || !s.mayRun

/-! ### The slots of a bundle (R31, R33, R39) -/

/-- Perform slots in slot order, each under its number. The first one that faults, by its encoding or in its meaning, ends the
bundle (R39). -/
def runSlots : List (Nat × Except Byte Instr) → State → Out
  | [], s => .next s
  | (n, x) :: rest, s =>
    let s := { s with bun := { s.bun with slot := BitVec.ofNat 4 n } }
    match x with
    | .error c => .next (s.raise c)
    | .ok i =>
      match exec i s with
      | .next s' => if s'.bun.raised.isSome then .next s' else runSlots rest s'
      | o => o

/-- Result queues that later slots of a lane bundle pop (09_matrix.md R266). -/
def aheadOf (slots : List (Nat × Except Byte Instr)) : List Nat :=
  slots.filterMap fun x => match x.2 with
    | .ok (.rqst _ q _) | .ok (.fsendq _ q _) | .ok (.collq _ q _) => some q.toNat
    | _ => none

/-- The bundle at issue. -/
def openBundle (lane : Bool) (addr : BitVec 16) (b : Bundle) (s : State) : State :=
  { s with
    bun :=
      { Bun.none with
        active := true, lane := lane, addr := addr, seq := addr.toNat + b.len, scope := b.scope
        xs := if lane then none else some s.preRegs, was := if lane then none else some s.t, ahead := if lane then aheadOf b.slots else [] } }

/-- A fault of a bundle (R39): nothing of it has happened but the checks that its reads made, and the first read of a poisoned
return, which alone faults (10_fabric.md R301). -/
def bundleFault (c : Cause) (b : Bun) (pre : State) : State :=
  ((pre.readAt b.touch).2.modCtl fun x => { x with xpois := x.xpois &&& ~~~b.hit }).trapEntry c

/-! ### Control bundles -/

/-- Where a sequencer goes on after a bundle: past the end of the bank it has run off (13_control_slice.md R357). -/
def seqAddr (n : Nat) : BitVec 16 × Bool := (BitVec.ofNat 16 n, n % 0x8000 == 0)

/-- Pending WSHP writes come one bundle nearer; those whose bundle has come show (04_winch.md R101). -/
def State.countShapes (s : State) : State :=
  let ws := s.t.ctl.wshp.map fun w => { w with left := w.left - 1 }
  let due := ws.filter fun w => w.left == 0
  (s.modCtl fun c => { c with wshp := due }).applyShapes.modCtl fun c => { c with wshp := ws.filter fun w => w.left != 0 }

/-- What acts after every other slot (13_control_slice.md R376, R377; 15_sync_time_phases.md R432, R437). `was` holds the trap CSRs as they
stood before the bundle. -/
def State.lateAct (s : State) (was : Trap) : Option Instr → State
  | some (.trap n) => s.trapNow n
  | some .eret => s.leaveTo was.epc was.epcOff
  | some .endp => s.endFetch
  | some .phbegin => s.phbeginEnd
  | some .phcancel => s.startCancel
  | _ => s

/-- The word that a waiting WAITA watches, its phase-pair mapping resolved at its issue (15_sync_time_phases.md R427). -/
def waitPlace (waits : List (Wait × Instr)) (pre : State) : Nat :=
  if pre.t.ctl.waits.any fun w => w.1 == .waita then pre.t.ctl.waitAt
  else (waits.findSome? fun w => match w.2 with
    | .waita _ xa _ _ sz _ => pre.localPlace (pre.x xa) (sizeBits sz / 8)
    | _ => none).getD 0

/-- The slots of a bundle that come before the wait of its SY slot in program order and must have performed before it, though the bundle
itself stalls (R31, R33): the SM access before a fence, a signal, an arrival, a COLLB, a commit or the reads of a WAITA
(14_memory_model.md R399, R403, R409, R412; 15_sync_time_phases.md R435), and a Winch command before an IFENCE (13_control_slice.md R373).
DEDUCED (notes/assumptions/136.md): such a slot performs once, when nothing but that wait holds its bundle, and its register is
written when the bundle issues. -/
def earlierSlots : Wait × Instr → List Nat
  | (.fence, _) | (.collb, _) | (.phcommit, _) | (.phround, _) | (.waita, _) | (.barrier, .arrwait _)
  | (.ramo, .semsig ..) | (.ramo, .semset ..) | (.ramo, .arrive ..) | (.ramo, .arrwait _) => [4]
  | (.ifence, _) => [4, 5]
  | _ => []

/-- The scalar register that an SM or WN slot writes. -/
def slotDest : Instr → XReg
  | .ldb _ d | .ldbu _ d | .ldh _ d | .ldhu _ d | .ldw _ d | .ldwu _ d | .ldd _ d | .amoadd _ d _ | .amoand _ d _ | .amoor _ d _
  | .amoxor _ d _ | .amomin _ d _ | .amomax _ d _ | .amominu _ d _ | .amomaxu _ d _ | .amoswap _ d _ | .amocas _ d _ | .chstat d _
  | .wshrd d _ _ | .wstat d => d
  | _ => 0

/-- The name under which a slot that has performed is kept: the bundle's address and the slot's number. -/
def onceKey (a : BitVec 16) (n : Nat) : Word := BitVec.ofNat 64 (65536 * n + a.toNat)

/-- What a slot of the bundle at an address has done already. -/
def State.onceOf (s : State) (a : BitVec 16) (n : Nat) : Option Instr :=
  (s.t.ctl.granted.find? fun g => g.1 == .sm && g.2.2 == onceKey a n).map fun g => g.2.1

/-- The slots that remain of a bundle, in which a slot that has performed only writes its register. -/
def State.slotsLeft (s : State) (a : BitVec 16) (slots : List (Nat × Except Byte Instr)) : List (Nat × Except Byte Instr) :=
  slots.map fun (n, x) => match s.onceOf a n with
    | some (.lix d v) => (n, .ok (.lix d v))
    | some _ => (n, .ok (.lix 0 0))
    | none => (n, x)

/-- One slot of a stalled bundle performs ahead of it: all it does but its register's write, which is kept. -/
def performOnce (b : Bundle) (pre : State) (n : Nat) : State :=
  let a := pre.t.ctl.cpc
  let s := openBundle false a b pre
  match (pre.slotsLeft a b.slots).find? (fun x => x.1 == n), pre.onceOf a n with
  | some (_, .ok i), none =>
    (match exec i { s with bun := { s.bun with slot := BitVec.ofNat 4 n } } with
     | .next u =>
       if u.bun.raised.isSome || !u.bun.waits.isEmpty then pre
       else
         let d := slotDest i
         let g : Instr := match i with
           | .ramo .. => .ramoResponse { rid := pre.t.fab.nextRid, old := 0, poison := false }
           | _ => .lix d (SMap.get 0 u.t.ctl.x d.toNat)
         let done : State := ({ u with bun := Bun.none }).modCtl fun c =>
           { c with
             x := pre.t.ctl.x, xbad := pre.t.ctl.xbad, xpois := pre.t.ctl.xpois
             granted := c.granted ++ [(Wait.sm, g, onceKey a n)] }
         done.modFab fun f =>
           { f with ramos := f.ramos.map fun o => if pre.t.fab.nextRid ≤ o.rid then { o with held := true } else o }
     | _ => pre)
  | _, _ => pre

/-- A RAMO that performed ahead of its bundle belongs to it no more: a response that has come is written (10_fabric.md R301). -/
def State.releaseRamo (s : State) (rid : Nat) : State :=
  match s.t.fab.ramos.find? fun o => o.rid == rid with
  | none => s
  | some o =>
    match o.resp with
    | some (v, p) => s.ramoReturn o v p
    | none => s.modFab fun f => { f with ramos := f.ramos.map fun x => if x.rid == rid then { x with held := false } else x }

/-- The bundle stalls (R31): nothing of it has happened but the slots that must precede its one wait; the waits are noted, with the cycle
of the first and the word that is watched. An ARRWAIT that nothing else holds makes its arrival. -/
def stallBundle (b : Bundle) (waits : List (Wait × Instr)) (pre : State) : State :=
  let from_ := if pre.t.ctl.waits.isEmpty then pre.cycle else pre.t.ctl.waitFrom
  let s := match waits with
    | [w] => (earlierSlots w).foldl (performOnce b) pre
    | _ => pre
  let s := s.modCtl fun c =>
    { c with
      waits := waits, waitFrom := from_, waitAt := waitPlace waits pre
      ramp := if waits.any (fun w => w.1 == .ramp) then { c.ramp with held := true } else c.ramp }
  match waits with
  | [(.barrier, .arrwait nb)] => if s.hasArrived nb then s else s.arriveOnce nb
  | _ => s

/-- The bundle has issued. -/
def closeControl (s : State) : State :=
  let late := s.bun.late
  let was := (s.bun.was.getD s.t).ctl.trap
  let gs := s.t.ctl.granted
  let s := ({ s with bun := Bun.none }).modCtl fun c => { c with waits := [], granted := [] }
  let s := gs.foldl (fun s g => match g.1, g.2.1 with
    | .sm, .ramoResponse r => s.releaseRamo r.rid
    | _, _ => s) s
  s.countShapes.lateAct was late

/-- What becomes of a control bundle once its slots have run from `pre`. -/
def endControl (b : Bundle) (pre : State) : Out → Out
  | .next s =>
    .next (match s.bun.raised with
      | some c => bundleFault c s.bun pre
      | none => if s.bun.waits.isEmpty then closeControl s else stallBundle b s.bun.waits pre)
  | o => o

/-- A control bundle at the CPC: the CPC moves past it, its slots run, and it issues, stalls or faults. -/
def issueControl (b : Bundle) (pre : State) : Out :=
  let a := pre.t.ctl.cpc
  let s := openBundle false a b pre
  let n := seqAddr s.bun.seq
  endControl b pre (runSlots (pre.slotsLeft a b.slots) (s.modCtl fun c => { c with cpc := n.1, off := n.2 }))

/-- A fault of the control slice that names no slot. -/
def controlFault (code : Byte) (s : State) : State :=
  s.trapEntry { code := code, arg := 0, slot := 15, async := false, lane := false, val := 0 }

/-- The length of the bundle at an address, as far as its header says. -/
def lengthAt (ps : List (BitVec 16)) : Nat :=
  match ps with
  | [] => 2
  | h :: _ => bundleLen h

/-- What a control slice does with a turn before it fetches: `none` when it can fetch. -/
def controlHold (s : State) : Option State :=
  if s.isHeld || s.t.ctl.fetch != .running then some s
  else if !s.t.ctl.trap.hnd && !s.t.ctl.trap.pend.isEmpty then some s.takePending
  else if s.t.ctl.after.isSome && !s.t.ctl.trap.hnd then some s
  else if s.t.ctl.off then some (controlFault 0x01 s)
  else
    let a := s.t.ctl.cpc.toNat
    match s.t.buf.badFetch a (lengthAt (s.t.buf.parcels a)) with
    | some w => some (s.auto (.refetch false w))
    | none => none

/-- The control slice's turn (R31): it fetches and issues one bundle. -/
noncomputable def controlTurn (s : State) : Out :=
  match controlHold s with
  | some s' => .next s'
  | none =>
    match decodeBundle false (s.t.buf.parcels s.t.ctl.cpc.toNat) with
    | .error c => .next (controlFault c s)
    | .ok b => issueControl b s

/-! ### Lane bundles -/

/-- A fault of a lane bundle that names no slot. -/
def laneFault0 (code : Byte) (s : State) : State :=
  laneFault { code := code, arg := 0, slot := 15, async := false, lane := true, val := 0 } s

/-- A lane bundle has issued: a drained row enters its queue, and the LPC moves, or the trip ends (13_control_slice.md R387). -/
def closeLane (last : Bool) (s : State) : State :=
  let n := seqAddr s.bun.seq
  let drained := s.bun.drain
  let s := { s with bun := Bun.none }
  let s := match drained with
    | some (q, x) => s.modMx fun m => m.pushRow q x
    | none => s
  if last then s.tripEnd
  else s.modCtl fun c => { c with blk := c.blk.map fun b => { b with lpc := n.1, off := n.2 } }

/-- What becomes of a lane bundle once its slots have run from `pre`. -/
def endLane (last : Bool) (pre : State) : Out → Out
  | .next s =>
    .next (match s.bun.raised with
      | some c => laneFault c (pre.readAt s.bun.touch).2
      | none => closeLane last s)
  | o => o

/-- A lane bundle at the LPC. -/
def issueLane (k : Block) (b : Bundle) (pre : State) : Out :=
  endLane b.last pre (runSlots b.slots (openBundle true k.lpc b pre))

/-- After END, with no token and no block left, the rows in flight complete by flush beats (09_matrix.md R245). -/
def State.endFlush (s : State) : Bool :=
  s.t.ctl.fetch == .ended && s.t.ctl.hq.isEmpty && !(s.t.mx.rows.isEmpty && s.t.mx.done.isEmpty)

/-- The lane sequencer's turn (R32): a token while no block runs, else one bundle of the block. A bundle that is replayed waits until every
write of the bundles before it has landed (08_vector.md R214). -/
noncomputable def laneTurn (s : State) : Out :=
  if s.isHeld || s.t.lane.stop then .next s
  else if s.t.lane.replay then
    .next (if s.t.lane.pending.isEmpty then (s.modLane fun l => { l with replay := false }).soon (.lane s.here) else s)
  else match s.t.ctl.blk with
    | none => if s.endFlush then .next s.flush else execTokenTake s
    | some k =>
      let a := k.lpc.toNat
      if k.off then .next (laneFault0 0x20 s)
      else match s.t.buf.badFetch a (lengthAt (s.t.buf.parcels a)) with
        | some w => .next (s.auto (.refetch true w))
        | none =>
          match decodeBundle true (s.t.buf.parcels a) with
          | .error c => .next (laneFault0 c s)
          | .ok b => issueLane k b s

/-! ### What the machine does by itself -/

/-- A tile that waits for one thing gets it when it is there; any other stalled bundle tries again. The requests of one distributor cycle
are served together, in tile index order (16_launch.md R451, R452). -/
def waitTurn (s : State) : Out :=
  if s.t.ctl.after.isSome && !s.t.ctl.trap.hnd then execPhbeginSnapshot s
  else if s.acceptWait.isSome then (if s.cycle % 16 == 0 then execAcceptWidDeliver s else .next s)
  else match s.t.ctl.waits with
    | [(w, _)] =>
      (match w with
       | .chrsv => execChrsvGrant s
       | .chwait => execChwaitGrant s
       | .semwait => execSemwaitSatisfy s
       | .barrier => execBarrierWaitSatisfy s
       | .waita => (match execWaitaWake s with
         | .next s' => if s'.t.ctl.waits.isEmpty then .next s' else execWaitaTimeout s'
         | o => o)
       | .waitt => execWaittComplete s
       | .phcommit => execPhcommitCommit s
       | .phround => execPhaseBarrierComplete s
       | .ifence => execIfenceComplete s
       | .collb => execCollbReadComplete s
       | .collopen => execCollopenReserve s
       | _ => .next (s.soon (.control s.here)))
    | _ => .next (s.soon (.control s.here))

/-- The address and the kind of the access a command misses on. -/
def State.missAt (s : State) (r : WRun) : Option (Nat × BitVec 2) :=
  match r.cmd.op with
  | .wtlbp _ _ kind _ _ => some ((bits 0 57 (r.cmd.arg 0)).toNat, kind)
  | _ => (s.accessOf r).map fun x => (x.1.start, x.1.kind)

/-- One move of a command: an access at its memory port, a refused miss sent again, or the next access (04_winch.md R97). -/
def moveTurn (id : Nat) (s : State) : Out :=
  match s.runOf id with
  | none => .next s
  | some r =>
    match r.hold with
    | .far .. => execFarMemoryRequest id s
    | .retry _ =>
      (match s.missAt r with
       | some (va, kind) =>
         execXlatMissRetry { tile := s.here, q := r.cmd.q, cmd := id, asid := s.asid, va := BitVec.ofNat 57 va, kind := kind } s
       | none => .next s)
    | _ => .next (s.winchMove id)

/-- The request packet at a queue, by its OPC (04_winch.md R124). -/
def packetTurn (n : BitVec 2) (s : State) : Out :=
  match s.packetAt n with
  | none => .next s
  | some (_, ws, _) =>
    match packetOpc ws with
    | 2 => execRequestPacketPut n s
    | 3 => execRequestPacketAmo n s
    | 4 => execRequestPacketSig n s
    | _ => execRequestPacketGet n s

/-- A mailbox slot whose doorbell rang, by its OPC (12_leaving_module.md R348; 16_launch.md R454; 17_faults_repair.md R490). -/
def mailTurn (fn : BitVec 2) (slot : BitVec 4) (s : State) : Out :=
  match ofBytes (s.slotBytes fn slot 0 1) with
  | 0x01 => execInval fn slot s
  | 0x02 => execLltget fn slot s
  | 0x03 => execHcopy fn slot s
  | 0x04 => execUnreef fn slot s
  | 0x05 => execEvring fn slot s
  | 0x06 => execTimerd fn slot s
  | 0x07 => execXlstat fn slot s
  | 0x10 => execLrec fn slot s
  | 0x11 => execQprio fn slot s
  | 0x12 => execPreempt fn slot s
  | 0x13 => execTdown fn slot s
  | 0x14 => execRstat fn slot s
  | 0x20 => execBstat fn slot s
  | 0x21 => execSplice fn slot s
  | 0x22 => execResync fn slot s
  | 0x23 => execAttest fn slot s
  | 0x24 => execPstate fn slot s
  | 0x25 => execCfgload fn slot s
  | 0x26 => execDefrd fn slot s
  | 0x27 => execClrret fn slot s
  | _ => execMailboxUnknown fn slot s

/-- A message for this module, by what it carries (16_launch.md R510). -/
def mgmtTurn (m : MgmtMsg) (s : State) : Out :=
  match m.body with
  | .bind b => execMmBindMessage b s
  | .batchReq l => execBatchRequest l m.src s
  | .grant l b h => execGrantRecord l b h s
  | .grantAck l b => execGrantAck l b m.src s
  | .heartbeat l => execHeartbeat l m.src s
  | .view v => execElectionView v s

/-- What the hardware does by itself at the present tile: each is the meaning of a row of the opcode table, or the runtime's
continuation of one. -/
def runAuto (a : Auto) (s : State) : Out :=
  match a with
  | .land => execLaneWriteLand s
  | .rampEnd => execRampWindowEnd s
  | .blockEnd => execBlockEndSignal s
  | .handler => execHandlerTimeout s
  | .scrub => execScrubIntervalExpire s
  | .winchStart q => execWinchCommandStart q s
  | .pkt n => packetTurn n s
  | .winchMove id => moveTurn id s
  | .winchDone id => execWinchCommandComplete id s
  | .walk side id => execXlatWalkComplete side id s
  | .invals => execInvalidationComplete s
  | .hop id => execLinkFlitReceive id noNoise s
  | .resend ch => execChannelResendTimeout ch s
  | .ack ch => execChannelAckSend ch s
  | .gen n => execGenerationResend n s
  | .timer id => execRoundTimerExpire id s
  | .grace id => execRoundGraceExpire id s
  | .detApply => execDetRamoApply s
  | .start => execTileStart s
  | .release => execTileRelease s
  | .force region => .next (s.errorForce region)
  | .softDue region => execSoftDeadlineExpire region s
  | .teardown region cause => .next (s.teardown region cause)
  | .distribute => execDistributorCycle s
  | .bind => execLaunchBind s
  | .ringWrite fn ring => execEventRingWrite fn ring s
  | .splice => execSpliceExecute s
  | .spliceDue => execSpliceTimeout s
  | .hcopy id => execHcopyComplete id s
  | .closePhase => if s.t.sync.commit == .none then .next s.closePhase else execPhaseBarrierComplete s
  | .bindDue region => execMmBindTimeout region s
  | .mail fn slot => mailTurn fn slot s
  | .trap c => execTrapEntry c s
  | .escalate c => execEscalation c s
  | .refetch lane addr => execIstoreRefetch lane addr s
  | .idle port => execIdleSendTimer port s
  | .age port => execReplayAgeTimeout port s
  | .retrain port => execRetrainTimeout port s
  | .reefRepeat port => execReefRepeatTimer port s
  | .reefEnd port => execReefackTimeout port s
  | .barrier => .next s.barAll
  | .treeResend k => .next (s.treeTimeout k)
  | .accumulate => .next s.accumulate
  | .fsends => .next s.takeFsends
  | .phaseDone => .next s.phasePoint
  | .saveStep region => execForcedPreemption region s
  | .wait => waitTurn s
  | .cancel => execPhaseCancel s
  | .nak n => execNakArrive n s
  | .vector fn ring => execEventVectorHoldoff fn ring s
  | .mgmt m => mgmtTurn m s
  | .beat lid pmod => execHeartbeatTimeout lid pmod s

/-! ### The end of a cycle -/

/-- What a tile's control slice does in a cycle: a bundle, or the wait it is in. -/
def controlTurns (t : Nat) (x : Tile) : List Turn :=
  let c := x.ctl
  if c.fetch != .running then []
  else if !c.trap.hnd && !c.trap.pend.isEmpty then [.control t]
  else if c.after.isSome && !c.trap.hnd then [.auto t .wait]
  else if c.waits.isEmpty then [.control t] else [.auto t .wait]

/-- Arrivals at a tile: lane writes and signals, and the timers of its channels and rounds. -/
def arrivalTurns (t : Nat) (x : Tile) : List Turn :=
  [.auto t .land, .auto t .blockEnd, .auto t .rampEnd] ++ x.fab.chans.map (fun e => .auto t (.resend (BitVec.ofNat 8 e.1)))
    ++ x.fab.naked.map (fun n => .auto t (.gen n))
    ++ x.red.colls.flatMap (fun e => [.auto t (.timer (BitVec.ofNat 6 e.1)), .auto t (.grace (BitVec.ofNat 6 e.1))])
    ++ x.red.outs.map (fun e => .auto t (.treeResend e.1))

/-- What follows the control bundle in a cycle: the Winch, its commands in queue order (17_faults_repair.md R471), completions before queue
heads (15_sync_time_phases.md R423), phases that close or are cancelled, the timers of the tile, and the accumulations of the cycle's beat (05_tile_buffers.md R134). The semaphores of the
arrivals of the cycle follow the Winch's completions. -/
def afterTurns (t : Nat) (x : Tile) : List Turn :=
  ((upto 4).flatMap fun q => (x.winch.running.filter fun r => r.cmd.q.toNat == q).flatMap fun r =>
      [.auto t (.winchMove r.cmd.id), .auto t (.winchDone r.cmd.id)]) ++ [.auto t .fsends]
    ++ (upto 4).map (fun q => .auto t (.pkt (BitVec.ofNat 2 q))) ++ (upto 4).map (fun q => .auto t (.winchStart (BitVec.ofNat 2 q)))
    ++ [.auto t .scrub] ++ (if x.sync.closing != 0 || x.sync.commit == .round || x.sync.commit == .applied then [.auto t .closePhase] else [])
    ++ (if x.sync.canceling then [.auto t .cancel] else []) ++ (if x.ctl.softStop then [.auto t .phaseDone] else [])
    ++ [.auto t .handler, .auto t .accumulate]

/-- What a region is due: its tiles start and are released, saves and deadlines go on. -/
def regionTurns (r : Region) : List Turn :=
  (r.tiles.flatMap fun t => [.auto t .start, .auto t .release])
    ++ (if r.state == .forcedSaving then [.auto 0 (.saveStep r.id)] else [])
    ++ (if r.deadline.isSome then [.auto 0 (.softDue r.id)] else [])
    ++ (if r.state == .binding then [.auto 0 (.bindDue r.id)] else [])

/-- What the module's controllers, translation sides, ports and host side are due. -/
def moduleTurns (s : State) : List Turn :=
  (s.far.sides.flatMap fun e => e.2.walks.map fun w => .auto 0 (.walk (BitVec.ofNat 2 e.1) w.id))
    ++ (if s.far.invals.isEmpty then [] else [.auto 0 .invals]) ++ s.host.hcopies.map (fun h => .auto 0 (.hcopy h.id))
    ++ s.host.pend.map (fun e => .auto 0 (.ringWrite e.fn e.ring))
    ++ s.host.rings.map (fun e => .auto 0 (.vector (BitVec.ofNat 2 (e.1 / 2048)) (e.1 % 2048)))
    ++ s.ports.flatMap (fun e =>
      [.auto 0 (.idle e.1), .auto 0 (.age e.1), .auto 0 (.retrain e.1), .auto 0 (.reefRepeat e.1), .auto 0 (.reefEnd e.1)])
    ++ (if s.ctrl.splices.isEmpty then [] else [.auto 0 .splice, .auto 0 .spliceDue])
    ++ (if s.cycle % 16 == 0 then [.auto 0 .distribute] else [])
    ++ s.ctrl.launches.flatMap (fun l => l.mods.map fun m => .auto 0 (.beat l.lid m))
    ++ s.ctrl.regions.flatMap regionTurns

/-- Who moves in a cycle, in order. -/
def cycleTurns (s : State) : List Turn :=
  (s.net.filter fun p => decide (p.due ≤ s.cycle)).map (fun p => .auto p.at_ (.hop p.id))
    ++ s.tiles.flatMap (fun e => arrivalTurns e.1 e.2)
    ++ s.tiles.map (fun e => .lane e.1)
    ++ s.tiles.flatMap (fun e => controlTurns e.1 e.2)
    ++ s.tiles.flatMap (fun e => afterTurns e.1 e.2)
    ++ moduleTurns s

/-- Between two cycles: the limiters count their beats, corrected words are written back (05_tile_buffers.md R138), requests that waited take effect, the leaders and followers of launches send
their beats and ask for batches, and the correction counts are held against their thresholds. -/
def State.betweenCycles (s : State) : State :=
  let s := s.tiles.foldl (fun s e => s.atTile e.1 fun s => s.rampBeat.modBuf Buf.writeBack) s
  let s := s.ctrl.regions.foldl (fun s r => s.applyWant r) s
  let s := if s.cycle % beatCycles == 0 then s.ctrl.launches.foldl (fun s l => s.sendBeats l) s else s
  (s.ctrl.launches.foldl (fun s l => s.askBatch l.lid) s).checkThresholds

/-- The end of a cycle: the next one begins, module time with it (12_leaving_module.md R352), and its turns are laid out. -/
def State.tick (s : State) : State :=
  let s := s.betweenCycles
  let n := s.cycle + 1
  let s := { s with cycle := n, clock := s.clock.tick n }
  { s with agenda := s.agenda ++ cycleTurns s }

/-! ### Placing an instruction where the next turn fetches it -/

/-- The bytes of an instruction's parcels, each little-endian (02_bundles.md R30). -/
def parcelBytes (ps : List (BitVec 16)) : Bytes := ps.flatMap fun p => [bits 0 8 p, bits 8 8 p]

/-- A tile whose next turn fetches at address 0 of its I-store, by its control slice or by its lanes. -/
def Tile.fetchAt0 (x : Tile) (lane : Bool) (cells : List (Nat × Byte × Bool)) : Tile :=
  { x with
    buf := { x.buf with mem := (x.buf.write cells).mem, ispar := (x.buf.write cells).ispar }
    lane := { x.lane with stop := false }
    sync := { x.sync with canceling := false }
    ctl :=
      { x.ctl with
        frozen := false, softStop := false
        cpc := if lane then x.ctl.cpc else 0
        off := if lane then x.ctl.off else false
        fv0 := true
        fetch := if lane then x.ctl.fetch else .running
        waits := if lane then x.ctl.waits else []
        after := if lane then x.ctl.after else none
        trap := if lane then x.ctl.trap else { x.ctl.trap with pend := [] }
        blk :=
          if lane then
            some { blk := 0, rot := false, se := false, sem := 0, lpc := 0, off := false, trip := 1, since := 0 }
          else x.ctl.blk } }

end Sys2Proof.Machine
end

