-- ==== Sys2Proof/Machine/Step.lean ====
section
/-!
DEFINITION. One step of the module: the turn at the head of the agenda, or the end of the cycle when it is empty.
-/

namespace Sys2Proof.Machine

open Sys2Proof

/-- The tile a turn acts for. -/
def Turn.tile : Turn → Nat
  | .control t => t
  | .lane t => t
  | .event t _ => t
  | .auto t _ => t

/-- What a turn does at the present tile. -/
noncomputable def takeTurn (x : Turn) (s : State) : Host.Outcome State Fault Refusal :=
  match x with
  | .control _ => controlTurn s
  | .lane _ => laneTurn s
  | .event _ i => exec i s
  | .auto _ a => runAuto a s

/-- One step. A turn of a tile that does not exist is a fault (01_module.md R15). -/
noncomputable def step (s : State) : Host.Outcome State Fault Refusal :=
  match s.agenda with
  | [] => .next s.tick
  | x :: rest =>
    if x.tile < tileCount then takeTurn x { s with agenda := rest, here := x.tile } else .fault .noSuchTile

/-- The state with an instruction of the opcode table at address 0 of the I-store of tile 0, in no region, where the next step's
turn, of the control slice or of the lanes as the header's K bit says, fetches it. -/
def State.withFetchWord (s : State) (nbits w : Nat) : State :=
  let ps := tableParcels 27 (w % 2 ^ nbits)
  let lane := (ps.headD 0).getLsbD 15
  let s := s.setTile 0 ((s.tile 0).fetchAt0 lane (cellsOf 0x400000 (clean (parcelBytes ps))))
  { s.modCtrl fun c => { c with regions := c.regions.filter fun r => !r.has 0 } with
    agenda := [if lane then .lane 0 else .control 0] }

end Sys2Proof.Machine
end

