-- ==== Sys2Proof/Safety.lean ====
section
/-!
DEFINITION. What a safe run is: one that neither faults nor is refused.
-/

namespace Sys2Proof

/-- A run of some steps that goes through. -/
def SafeRun (n : Nat) (s : Machine.State) : Prop := ∃ t, core.run n s = .next t

/-- A state from which every run goes through. -/
def Safe (s : Machine.State) : Prop := ∀ n, SafeRun n s

end Sys2Proof
end

