-- ==== Sys2Proof/Certificates/Slice0/Obligations.lean ====
section
/-!
DEFINITION. The statements about the model, family by family. Results are stated as the next state; the statements on register writes,
unit updates and memory say what such a state keeps. `Say` holds the words they share and the rules they are made of.
-/

open Sys2Proof Sys2Proof.Machine

/-! ### Words the statements share -/

namespace Sys2Proof.Say

open Sys2Proof Sys2Proof.Machine

/-- What stands in the register file for xN; x0 is zero. -/
def reg (s : State) (r : XReg) : Word := if r = 0 then 0 else SMap.get 0 s.t.ctl.x r.toNat

/-- A result written to xD, modulo 2^64. -/
def put (s : State) (xd : XReg) (r : Int) : State := s.setX xd (BitVec.ofInt 64 r)

/-- The number of leading zero bits of a 64-bit word. -/
def leading (a : Word) (n : Nat) : Prop := n ≤ 64 ∧ a.toNat < 2 ^ (64 - n) ∧ (n < 64 → 2 ^ (63 - n) ≤ a.toNat)

/-- The number of trailing zero bits of a 64-bit word. -/
def trailing (a : Word) (n : Nat) : Prop :=
  n ≤ 64 ∧ (∀ k, k < n → a.getLsbD k = false) ∧ (n < 64 → a.getLsbD n = true)

/-- The number of one bits of a 64-bit word. -/
def ones (a : Word) : Nat := ((List.range 64).filter fun k => a.getLsbD k).length

end Sys2Proof.Say

/-! ### The scalar instructions (13_control_slice.md R359-R363) -/

/-- R360: sums, products and constants. -/
def Say.scalarSums : Prop :=
  ∀ (s : State) (xd xa xb : XReg) (imm : BitVec 14) (x : Word),
    (s.hazard [xa, xb] = .none →
      exec (.add xd xa xb) s = .next (Say.put s xd ((s.x xa).toNat + (s.x xb).toNat)) ∧
      exec (.sub xd xa xb) s = .next (Say.put s xd ((s.x xa).toNat - (s.x xb).toNat)) ∧
      exec (.mul xd xa xb) s = .next (Say.put s xd ((s.x xa).toNat * (s.x xb).toNat)) ∧
      exec (.mulh xd xa xb) s = .next (Say.put s xd ((s.x xa).toInt * (s.x xb).toInt / 2 ^ 64)) ∧
      exec (.mulhu xd xa xb) s = .next (Say.put s xd ((s.x xa).toNat * (s.x xb).toNat / 2 ^ 64)) ∧
      exec (.addsh xd xa xb) s = .next (Say.put s xd ((s.x xa).toNat + 16 * (s.x xb).toNat))) ∧
    (s.hazard [xa] = .none →
      exec (.addi xd xa imm) s = .next (Say.put s xd ((s.x xa).toNat + imm.toInt)) ∧
      exec (.addx xd xa x) s = .next (Say.put s xd ((s.x xa).toNat + x.toNat))) ∧
    exec (.li xd imm) s = .next (Say.put s xd imm.toInt) ∧
    exec (.lix xd x) s = .next (Say.put s xd x.toNat)

/-- R360: quotients and remainders, which never fault; -2^63 by -1 is -2^63 with remainder 0. -/
def Say.scalarDivision : Prop :=
  ∀ (s : State) (xd xa xb : XReg), s.hazard [xa, xb] = .none →
    exec (.div xd xa xb) s = .next (Say.put s xd (if s.x xb = 0 then -1 else (s.x xa).toInt.tdiv (s.x xb).toInt)) ∧
    exec (.divu xd xa xb) s =
      .next (Say.put s xd (if s.x xb = 0 then 2 ^ 64 - 1 else ((s.x xa).toNat / (s.x xb).toNat : Nat))) ∧
    exec (.rem xd xa xb) s =
      .next (Say.put s xd (if s.x xb = 0 then (s.x xa).toInt
        else (s.x xa).toInt - (s.x xb).toInt * (s.x xa).toInt.tdiv (s.x xb).toInt)) ∧
    exec (.remu xd xa xb) s =
      .next (Say.put s xd (if s.x xb = 0 then (s.x xa).toNat else ((s.x xa).toNat % (s.x xb).toNat : Nat))) ∧
    (s.x xa = 0x8000000000000000 → s.x xb = 0xFFFFFFFFFFFFFFFF →
      exec (.div xd xa xb) s = .next (Say.put s xd (-(2 ^ 63))) ∧ exec (.rem xd xa xb) s = .next (Say.put s xd 0))

/-- R360: the smaller, the larger, and comparisons. -/
def Say.scalarComparisons : Prop :=
  ∀ (s : State) (xd xa xb : XReg) (imm : BitVec 14),
    (s.hazard [xa, xb] = .none →
      exec (.min xd xa xb) s = .next (Say.put s xd (Min.min (s.x xa).toInt (s.x xb).toInt)) ∧
      exec (.max xd xa xb) s = .next (Say.put s xd (Max.max (s.x xa).toInt (s.x xb).toInt)) ∧
      exec (.minu xd xa xb) s = .next (Say.put s xd (Min.min (s.x xa).toNat (s.x xb).toNat : Nat)) ∧
      exec (.maxu xd xa xb) s = .next (Say.put s xd (Max.max (s.x xa).toNat (s.x xb).toNat : Nat)) ∧
      exec (.seq xd xa xb) s = .next (Say.put s xd (if s.x xa = s.x xb then 1 else 0)) ∧
      exec (.sne xd xa xb) s = .next (Say.put s xd (if s.x xa = s.x xb then 0 else 1)) ∧
      exec (.slt xd xa xb) s = .next (Say.put s xd (if (s.x xa).toInt < (s.x xb).toInt then 1 else 0)) ∧
      exec (.sltu xd xa xb) s = .next (Say.put s xd (if (s.x xa).toNat < (s.x xb).toNat then 1 else 0))) ∧
    (s.hazard [xa] = .none →
      exec (.slti xd xa imm) s = .next (Say.put s xd (if (s.x xa).toInt < imm.toInt then 1 else 0)) ∧
      exec (.sltiu xd xa imm) s =
        .next (Say.put s xd (if ((s.x xa).toNat : Int) < imm.toInt % 2 ^ 64 then 1 else 0)))

/-- R360: bitwise operations, bit by bit. -/
def Say.scalarBitwise : Prop :=
  ∀ (s : State) (xd xa xb : XReg) (imm : BitVec 14),
    (s.hazard [xa, xb] = .none →
      (∃ r : Word, exec (.and xd xa xb) s = .next (s.setX xd r) ∧
        ∀ k, r.getLsbD k = ((s.x xa).getLsbD k && (s.x xb).getLsbD k)) ∧
      (∃ r : Word, exec (.or xd xa xb) s = .next (s.setX xd r) ∧
        ∀ k, r.getLsbD k = ((s.x xa).getLsbD k || (s.x xb).getLsbD k)) ∧
      (∃ r : Word, exec (.xor xd xa xb) s = .next (s.setX xd r) ∧
        ∀ k, r.getLsbD k = ((s.x xa).getLsbD k != (s.x xb).getLsbD k))) ∧
    (s.hazard [xa] = .none →
      (∃ r : Word, exec (.andi xd xa imm) s = .next (s.setX xd r) ∧
        ∀ k, k < 64 → r.getLsbD k = ((s.x xa).getLsbD k && imm.getLsbD (Min.min k 13))) ∧
      (∃ r : Word, exec (.ori xd xa imm) s = .next (s.setX xd r) ∧
        ∀ k, k < 64 → r.getLsbD k = ((s.x xa).getLsbD k || imm.getLsbD (Min.min k 13))) ∧
      (∃ r : Word, exec (.xori xd xa imm) s = .next (s.setX xd r) ∧
        ∀ k, k < 64 → r.getLsbD k = ((s.x xa).getLsbD k != imm.getLsbD (Min.min k 13))))

/-- R360: shifts, whose count is six bits. -/
def Say.scalarShifts : Prop :=
  ∀ (s : State) (xd xa xb : XReg) (k : BitVec 6),
    (s.hazard [xa, xb] = .none →
      exec (.shl xd xa xb) s = .next (Say.put s xd ((s.x xa).toNat * 2 ^ ((s.x xb).toNat % 64) : Nat)) ∧
      exec (.shr xd xa xb) s = .next (Say.put s xd ((s.x xa).toNat / 2 ^ ((s.x xb).toNat % 64) : Nat)) ∧
      exec (.sra xd xa xb) s = .next (Say.put s xd ((s.x xa).toInt / 2 ^ ((s.x xb).toNat % 64)))) ∧
    (s.hazard [xa] = .none →
      exec (.shli xd xa k) s = .next (Say.put s xd ((s.x xa).toNat * 2 ^ k.toNat : Nat)) ∧
      exec (.shri xd xa k) s = .next (Say.put s xd ((s.x xa).toNat / 2 ^ k.toNat : Nat)) ∧
      exec (.srai xd xa k) s = .next (Say.put s xd ((s.x xa).toInt / 2 ^ k.toNat)))

/-- R360: counts of bits. -/
def Say.scalarCounts : Prop :=
  ∀ (s : State) (xd xa : XReg), s.hazard [xa] = .none →
    (∃ n : Nat, exec (.clz xd xa) s = .next (Say.put s xd n) ∧ Say.leading (s.x xa) n) ∧
    (∃ n : Nat, exec (.ctz xd xa) s = .next (Say.put s xd n) ∧ Say.trailing (s.x xa) n) ∧
    exec (.popc xd xa) s = .next (Say.put s xd (Say.ones (s.x xa)))

/-- R362: fields of words, and the faults of fields that a word does not have. -/
def Say.scalarFields : Prop :=
  ∀ (s : State) (xd xa : XReg) (n : BitVec 3) (lsb len1 : BitVec 6),
    (s.hazard [xa] = .none → n.toNat < 6 →
      exec (.wfld xd xa n) s =
        .next (Say.put s xd
          ((s.x xa).toNat / 2 ^ ((List.range n.toNat).map fun j => s.t.ctl.widw.toNat / 2 ^ (7 * j) % 128).sum
            % 2 ^ (s.t.ctl.widw.toNat / 2 ^ (7 * n.toNat) % 128) : Nat))) ∧
    (6 ≤ n.toNat → exec (.wfld xd xa n) s = .next (s.raise 0x03)) ∧
    (s.hazard [xa] = .none → lsb.toNat + (len1.toNat + 1) ≤ 64 →
      exec (.bfxu xd xa lsb len1) s = .next (Say.put s xd ((s.x xa).toNat / 2 ^ lsb.toNat % 2 ^ (len1.toNat + 1) : Nat)) ∧
      exec (.bfx xd xa lsb len1) s =
        .next (Say.put s xd (BitVec.ofNat (len1.toNat + 1) ((s.x xa).toNat / 2 ^ lsb.toNat)).toInt)) ∧
    (s.hazard [xd, xa] = .none → lsb.toNat + (len1.toNat + 1) ≤ 64 →
      ∃ r : Word, exec (.bfins xd xa lsb len1) s = .next (s.setX xd r) ∧
        ∀ k, r.getLsbD k =
          if lsb.toNat ≤ k ∧ k < lsb.toNat + (len1.toNat + 1) then (s.x xa).getLsbD (k - lsb.toNat) else (s.x xd).getLsbD k) ∧
    (64 < lsb.toNat + (len1.toNat + 1) →
      exec (.bfx xd xa lsb len1) s = .next (s.raise 0x03) ∧ exec (.bfxu xd xa lsb len1) s = .next (s.raise 0x03) ∧
      exec (.bfins xd xa lsb len1) s = .next (s.raise 0x03))


/-! ### Registers and their frame -/

/-- R34, R356: a scalar register reads as the last value written, x0 reads zero and discards writes; a write changes no other
register, no other unit of the tile, no other tile and nothing outside the tiles but the RAMO that would have returned into it. -/
def Say.scalarRegisterWrites : Prop :=
  ∀ (s : State) (r q : XReg) (v : Word),
    Say.reg s 0 = 0 ∧ s.setX 0 v = s ∧
    (r ≠ 0 → Say.reg (s.setX r v) r = v) ∧ (q ≠ r → Say.reg (s.setX r v) q = Say.reg s q) ∧
    (s.setX r v).t.buf = s.t.buf ∧ (s.setX r v).t.lane = s.t.lane ∧ (s.setX r v).t.mx = s.t.mx ∧
    (s.setX r v).t.winch = s.t.winch ∧ (s.setX r v).t.red = s.t.red ∧ (s.setX r v).t.sync = s.t.sync ∧
    (s.setX r v).t.ctl.trap = s.t.ctl.trap ∧ (s.setX r v).t.ctl.cpc = s.t.ctl.cpc ∧ (s.setX r v).t.ctl.ret = s.t.ctl.ret ∧
    (s.setX r v).t.ctl.hq = s.t.ctl.hq ∧ (s.setX r v).t.fab.chans = s.t.fab.chans ∧ (s.setX r v).t.fab.route = s.t.fab.route ∧
    (∀ k, k ≠ s.here → (s.setX r v).tile k = s.tile k) ∧
    (s.setX r v).net = s.net ∧ (s.setX r v).far = s.far ∧ (s.setX r v).host = s.host ∧ (s.setX r v).ctrl = s.ctrl ∧
    (s.setX r v).clock = s.clock ∧ (s.setX r v).agenda = s.agenda ∧ (s.setX r v).bun = s.bun

/-- The scalar instructions whose one destination is XD. -/
def Say.scalars (xd xa xb : XReg) (imm : BitVec 14) (k6 l6 : BitVec 6) (n3 : BitVec 3) (x : Word) (c : BitVec 12) (m : Byte) : List Instr :=
  [.add xd xa xb, .sub xd xa xb, .addi xd xa imm, .mul xd xa xb, .mulh xd xa xb, .mulhu xd xa xb, .div xd xa xb, .divu xd xa xb,
   .rem xd xa xb, .remu xd xa xb, .min xd xa xb, .max xd xa xb, .minu xd xa xb, .maxu xd xa xb, .and xd xa xb, .or xd xa xb,
   .xor xd xa xb, .andi xd xa imm, .ori xd xa imm, .xori xd xa imm, .shl xd xa xb, .shr xd xa xb, .sra xd xa xb, .shli xd xa k6,
   .shri xd xa k6, .srai xd xa k6, .clz xd xa, .ctz xd xa, .popc xd xa, .seq xd xa xb, .sne xd xa xb, .slt xd xa xb,
   .sltu xd xa xb, .slti xd xa imm, .sltiu xd xa imm, .wfld xd xa n3, .bfx xd xa k6 l6, .bfxu xd xa k6 l6, .bfins xd xa k6 l6,
   .li xd imm, .lix xd x, .addx xd xa x, .addsh xd xa xb, .csrr xd c, .rdtime xd, .semrd xd m, .chstat xd m]

/-- R31, R39: a scalar instruction of a bundle changes nothing but its destination register: every other register, the special
registers, memory, the other units of the tile, the other tiles and the module stay, also when it waits or faults, which its
bundle alone records. -/
def Obligations.ScalarFrame : Prop :=
  ∀ (s t : State) (xd xa xb : XReg) (imm : BitVec 14) (k6 l6 : BitVec 6) (n3 : BitVec 3) (x : Word) (c : BitVec 12) (m : Byte),
    s.bun.active = true →
    ∀ i ∈ Say.scalars xd xa xb imm k6 l6 n3 x c m, exec i s = .next t →
      (∀ r, r ≠ xd → Say.reg t r = Say.reg s r) ∧ (∀ a, t.t.buf.byte a = s.t.buf.byte a) ∧ t.t.buf = s.t.buf ∧
      t.t.lane = s.t.lane ∧ t.t.mx = s.t.mx ∧ t.t.winch = s.t.winch ∧ t.t.red = s.t.red ∧ t.t.sync = s.t.sync ∧
      t.t.ctl.trap = s.t.ctl.trap ∧ t.t.ctl.cpc = s.t.ctl.cpc ∧ t.t.ctl.ret = s.t.ctl.ret ∧ t.t.ctl.hq = s.t.ctl.hq ∧
      (∀ k, k ≠ s.here → t.tile k = s.tile k) ∧ t.net = s.net ∧ t.far = s.far ∧ t.host = s.host ∧ t.ctrl = s.ctrl ∧
      t.clock = s.clock

/-- R31, R301, R302: a register that a RAMO still awaits makes its reader wait, or fault 0x67 for a deterministic one; a poisoned
value is fault 0x80. -/
def Say.scalarHazards : Prop :=
  ∀ (s : State) (xd xa : XReg) (o : RamoOut), s.bun.active = true → s.bun.raised = none → xa ≠ 0 →
    (s.pre.ramos.find? (fun o => o.xd == xa && o.resp.isNone && !o.held) = some o → o.det = true →
      exec (.addi xd xa 0) s = .next ({ s with bun := { s.bun with hit := 1#32 <<< xa.toNat } }.raise 0x67)) ∧
    (s.pre.ramos.find? (fun o => o.xd == xa && o.resp.isNone && !o.held) = some o → o.det = false →
      exec (.addi xd xa 0) s = .next (s.stall .reg (.addi xd xa 0))) ∧
    (s.pre.ramos.find? (fun o => o.xd == xa && o.resp.isNone && !o.held) = none → s.pre.foul.getLsbD xa.toNat = true →
      exec (.addi xd xa 0) s = .next ({ s with bun := { s.bun with hit := 1#32 <<< xa.toNat } }.raise 0x80)) ∧
    (s.pre.ramos.find? (fun o => o.xd == xa && o.resp.isNone && !o.held) = none → s.pre.foul.getLsbD xa.toNat = false →
      exec (.addi xd xa 0) s = .next (s.setX xd (s.x xa)))

/-! ### Control and status registers (13_control_slice.md R363-R368) -/

/-- R31, R363-R366, R424, R468: what CSRR delivers: the value as it stood before the bundle, the fields of the status registers, and fault
0x0C for an unassigned address. -/
def Say.csrReads : Prop :=
  ∀ (s : State) (xd : XReg) (a : BitVec 12),
    (∀ v, s.csrWas a = some v → exec (.csrr xd a) s = .next (s.setX xd v)) ∧
    (s.bun.was = none → s.csrWas a = s.csr a) ∧ (∀ x, s.bun.was = some x → s.csrWas a = (s.setTile s.here x).csr a) ∧
    (s.csr a = none ↔ a ∉ ([0x000, 0x001, 0x008, 0x009, 0x010, 0x011, 0x012, 0x013, 0x014, 0x015, 0x020, 0x021, 0x022, 0x030,
      0x031, 0x040, 0x041, 0x100, 0x101] : List (BitVec 12))) ∧
    (s.csr a = none → exec (.csrr xd a) s = .next (s.raise 0x0C)) ∧ (s.csrWas a = none ↔ s.csr a = none) ∧
    (s.csr 0x008 = some s.t.ctl.tileid ∧ s.csr 0x009 = some (s.t.ctl.widw.setWidth 64) ∧ s.csr 0x011 = some s.t.ctl.trap.cause ∧
      s.csr 0x012 = some (s.t.ctl.trap.epc.setWidth 64) ∧ s.csr 0x014 = some s.t.ctl.trap.val ∧ s.csr 0x015 = some s.t.ctl.trap.scr) ∧
    (∀ v, s.csr 0x010 = some v → bits 48 16 v = s.t.ctl.trap.tvec ∧ bits 8 8 v = s.t.ctl.trap.re ∧ bits 0 8 v = 0 ∧ bits 16 32 v = 0) ∧
    (∀ v, s.csr 0x013 = some v → bits 0 16 v = s.t.ctl.trap.llpc ∧ bits 16 24 v = s.t.ctl.trap.ltrip ∧
      bit 40 v = s.t.ctl.trap.lv ∧ bits 41 23 v = 0) ∧
    (∀ v, s.csr 0x020 = some v → bits 0 20 v = s.t.lane.flags ∧ bits 32 3 v = s.t.lane.drm ∧ bits 20 12 v = 0 ∧ bits 35 29 v = 0) ∧
    (∀ v, s.csr 0x030 = some v → bits 0 32 v = s.t.winch.errSem ∧ bits 32 4 v = s.t.winch.errEn ∧ bits 36 28 v = 0) ∧
    (∀ v, s.csr 0x031 = some v → bits 0 16 v = s.t.buf.cor ∧ bits 16 16 v = s.t.buf.unc ∧ bits 32 16 v = s.t.buf.frfix ∧
      bits 48 16 v = s.t.buf.iparc) ∧
    (∀ v, s.csr 0x100 = some v → bits 0 32 v = s.t.sync.phn ∧ bits 32 16 v = s.t.sync.cnc ∧ bit 59 v = decide (0 < s.t.sync.pcp) ∧
      bit 60 v = s.t.sync.esc ∧ bit 61 v = s.t.sync.inph ∧ bit 62 v = s.t.sync.ver ∧ bit 63 v = s.t.sync.det ∧ bits 48 11 v = 0) ∧
    (∀ v, s.csr 0x101 = some v → bits 0 8 v = s.t.sync.ovSem ∧ bit 63 v = s.t.sync.ov ∧ bits 8 55 v = 0)

/-- The value that CSRW, CSRS and CSRC make of an old one (R363). -/
def Say.csrForms (c : BitVec 12) (xa : XReg) (old a : Word) : List (Instr × Word) :=
  [(.csrw c xa, a), (.csrs c xa, old ||| a), (.csrc c xa, old &&& ~~~a)]

/-- R31, R363, R175, R176, R114, R145, R269, R424, R468: what a CSR write leaves, of the value as it stood before the bundle; flags that landed
in the cycle are ORed after a write of LFPSR. The counters and flags clear where CSRW or CSRC names them;
the read-only registers ignore a write; an unassigned address is fault 0x0C. -/
def Say.csrWrites : Prop :=
  ∀ (s : State) (xa : XReg), s.hazard [xa] = .none →
    (∀ v, s.csrWas 0x015 = some v → ∀ f ∈ Say.csrForms 0x015 xa v (s.x xa),
      exec f.1 s = .next (s.modTrap fun t => { t with scr := f.2 })) ∧
    (∀ v, s.csrWas 0x012 = some v → ∀ f ∈ Say.csrForms 0x012 xa v (s.x xa),
      exec f.1 s = .next (s.modTrap fun t => { t with epc := bits 0 16 f.2, epcOff := false })) ∧
    (∀ v, s.csrWas 0x010 = some v → s.t.ctl.trap.hnd = false → ∀ f ∈ Say.csrForms 0x010 xa v (s.x xa),
      exec f.1 s = .next (s.modTrap fun t => { t with tvec := bits 48 16 f.2, re := bits 8 8 f.2 })) ∧
    (∀ v, s.csrWas 0x020 = some v → ∀ f ∈ Say.csrForms 0x020 xa v (s.x xa),
      exec f.1 s = .next (s.modLane fun l =>
        { l with flags := bits 0 20 f.2 ||| (if l.freshAt = s.cycle then l.fresh else 0), drm := if (bits 32 3 f.2).toNat ≤ 4 then bits 32 3 f.2 else l.drm })) ∧
    (∀ v, s.csrWas 0x030 = some v → ∀ f ∈ Say.csrForms 0x030 xa v (s.x xa),
      exec f.1 s = .next (s.modWinch fun w => { w with errSem := bits 0 32 f.2, errEn := bits 32 4 f.2 })) ∧
    (∀ i ∈ [Instr.csrw 0x031 xa, .csrc 0x031 xa], exec i s = .next (s.modBuf fun b =>
      { b with cor := b.cor &&& ~~~bits 0 16 (s.x xa), unc := b.unc &&& ~~~bits 16 16 (s.x xa)
               frfix := b.frfix &&& ~~~bits 32 16 (s.x xa), iparc := b.iparc &&& ~~~bits 48 16 (s.x xa) })) ∧
    (∀ i ∈ [Instr.csrw 0x022 xa, .csrc 0x022 xa], exec i s = .next (s.modMx fun m => { m with sr :=
      { m.sr with mis := if bits 48 16 (s.x xa) = 0 then m.sr.mis else 0, fv := m.sr.fv && !bit 35 (s.x xa)
                  nv := m.sr.nv && !bit 3 (s.x xa), ovf := m.sr.ovf && !bit 2 (s.x xa)
                  unf := m.sr.unf && !bit 1 (s.x xa), nx := m.sr.nx && !bit 0 (s.x xa) } })) ∧
    (∀ i ∈ [Instr.csrw 0x101 xa, .csrc 0x101 xa],
      exec i s = .next (s.modSync fun y => { y with ov := y.ov && !bit 63 (s.x xa) })) ∧
    (∀ c ∈ ([0x022, 0x031, 0x101] : List (BitVec 12)), exec (.csrs c xa) s = .next s) ∧
    (∀ c ∈ ([0x000, 0x001, 0x008, 0x009, 0x011, 0x013, 0x014, 0x021, 0x040, 0x041, 0x100] : List (BitVec 12)),
      exec (.csrw c xa) s = .next s ∧ exec (.csrs c xa) s = .next s ∧ exec (.csrc c xa) s = .next s) ∧
    (∀ c, s.csrWas c = none →
      exec (.csrw c xa) s = .next (s.raise 0x0C) ∧ exec (.csrs c xa) s = .next (s.raise 0x0C) ∧
      exec (.csrc c xa) s = .next (s.raise 0x0C))

/-- R174-R176, R145, R269, R424, R468: what the units do with a write that reaches them: LFPSR takes the word and the flags that
land in the same cycle, the counters and flags clear what is named, TCTL takes TVEC and RE. -/
def Say.csrWriteEvents : Prop :=
  ∀ (s : State) (v : Word) (fl : BitVec 20),
    (∃ t, exec (.lfpsrWrite v fl) s = .next t ∧ t.t.lane.flags = bits 0 20 v ||| (if s.t.lane.freshAt = s.cycle then s.t.lane.fresh else 0) ||| fl ∧
      t.t.lane.drm = (if (bits 32 3 v).toNat ≤ 4 then bits 32 3 v else s.t.lane.drm) ∧ t.t.lane.v = s.t.lane.v ∧ t.t.ctl = s.t.ctl) ∧
    (∃ t, exec (.bufeccClear v) s = .next t ∧ t.t.buf.cor = s.t.buf.cor &&& ~~~bits 0 16 v ∧
      t.t.buf.unc = s.t.buf.unc &&& ~~~bits 16 16 v ∧ t.t.buf.frfix = s.t.buf.frfix &&& ~~~bits 32 16 v ∧
      t.t.buf.iparc = s.t.buf.iparc &&& ~~~bits 48 16 v ∧ t.t.buf.mem = s.t.buf.mem ∧ t.t.ctl = s.t.ctl) ∧
    (∃ t, exec (.mxsrClear v) s = .next t ∧ t.t.mx.sr.fv = (s.t.mx.sr.fv && !bit 35 v) ∧
      t.t.mx.sr.mis = (if bits 48 16 v = 0 then s.t.mx.sr.mis else 0) ∧ t.t.mx.sr.fk = s.t.mx.sr.fk ∧ t.t.mx.cells = s.t.mx.cells ∧
      t.t.ctl = s.t.ctl) ∧
    (∃ t, exec (.semstClear v) s = .next t ∧ t.t.sync.ov = (s.t.sync.ov && !bit 63 v) ∧ t.t.sync.sem = s.t.sync.sem ∧
      t.t.ctl = s.t.ctl) ∧
    (s.t.ctl.trap.hnd = false → ∃ t, exec (.tctlEscSet v) s = .next t ∧ t.t.ctl.trap.hnd = false ∧ t.t.lane = s.t.lane)


/-! ### Control flow (13_control_slice.md R357, R358, R370-R377) -/

/-- R358: where a branch at address a may go: an even target below 2^16 in the bank of a. -/
def Say.reachable (a : BitVec 16) (t : Int) : Prop := 0 ≤ t ∧ t < 65536 ∧ t % 2 = 0 ∧ t / 32768 = (a.toNat / 32768 : Nat)

/-- R358: a branch to t: the CPC moves there, or fault 0x04 with t in TVAL. -/
def Say.branches (s : State) (o : Host.Outcome State Fault Refusal) (t : Int) : Prop :=
  (Say.reachable s.pc t → o = .next (s.modCtl fun c => { c with cpc := BitVec.ofInt 16 t, off := false })) ∧
  (¬ Say.reachable s.pc t → o = .next (s.raiseVal 0x04 (BitVec.ofInt 64 t)))

/-- R358, R371: jumps go to their target; a conditional branch goes there when its comparison holds and otherwise changes nothing. -/
def Say.branchesRule : Prop :=
  ∀ (s : State) (xa xb : XReg) (off : BitVec 16),
    let t : Int := s.pc.toNat + 2 * off.toInt
    let a := s.x xa
    let b := s.x xb
    Say.branches s (exec (.jmp off) s) t ∧
    (s.hazard [xa] = .none → Say.branches s (exec (.jmpr xa) s) a.toNat) ∧
    (s.hazard [xa, xb] = .none →
      (a = b → Say.branches s (exec (.beq xa xb off) s) t) ∧ (a ≠ b → exec (.beq xa xb off) s = .next s) ∧
      (a ≠ b → Say.branches s (exec (.bne xa xb off) s) t) ∧ (a = b → exec (.bne xa xb off) s = .next s) ∧
      (a.toInt < b.toInt → Say.branches s (exec (.blt xa xb off) s) t) ∧ (b.toInt ≤ a.toInt → exec (.blt xa xb off) s = .next s) ∧
      (b.toInt ≤ a.toInt → Say.branches s (exec (.bge xa xb off) s) t) ∧ (a.toInt < b.toInt → exec (.bge xa xb off) s = .next s) ∧
      (a.toNat < b.toNat → Say.branches s (exec (.bltu xa xb off) s) t) ∧ (b.toNat ≤ a.toNat → exec (.bltu xa xb off) s = .next s) ∧
      (b.toNat ≤ a.toNat → Say.branches s (exec (.bgeu xa xb off) s) t) ∧ (a.toNat < b.toNat → exec (.bgeu xa xb off) s = .next s))

/-- R371, R375: LOOP counts its register down and branches while more than one pass is left; a target that it cannot reach leaves the
counter; x0 is fault 0x03. BSWAP goes to the other bank, or fault 0x07 where it is not fetch-visible. -/
def Say.loopAndBankSwitch : Prop :=
  ∀ (s : State) (xa : XReg) (off : BitVec 16) (idx : BitVec 14),
    let t : Int := s.pc.toNat + 2 * off.toInt
    exec (.loop 0 off) s = .next (s.raise 0x03) ∧
    (xa ≠ 0 → s.hazard [xa] = .none →
      ((s.x xa).toNat ≤ 1 → exec (.loop xa off) s = .next (Say.put s xa 0)) ∧
      (1 < (s.x xa).toNat → Say.reachable s.pc t →
        exec (.loop xa off) s =
          .next ((Say.put s xa ((s.x xa).toNat - 1)).modCtl fun c => { c with cpc := BitVec.ofInt 16 t, off := false })) ∧
      (1 < (s.x xa).toNat → ¬ Say.reachable s.pc t → exec (.loop xa off) s = .next (s.raiseVal 0x04 (BitVec.ofInt 64 t)))) ∧
    (s.pc.toNat < 0x8000 → s.t.ctl.fv1 = true →
      exec (.bswap idx) s = .next (s.modCtl fun c => { c with cpc := BitVec.ofNat 16 (0x8000 + 2 * idx.toNat), off := false })) ∧
    (s.pc.toNat < 0x8000 → s.t.ctl.fv1 = false →
      exec (.bswap idx) s = .next (s.raiseVal 0x07 (BitVec.ofNat 64 (0x8000 + 2 * idx.toNat)))) ∧
    (0x8000 ≤ s.pc.toNat → s.t.ctl.fv0 = true →
      exec (.bswap idx) s = .next (s.modCtl fun c => { c with cpc := BitVec.ofNat 16 (2 * idx.toNat), off := false })) ∧
    (0x8000 ≤ s.pc.toNat → s.t.ctl.fv0 = false →
      exec (.bswap idx) s = .next (s.raiseVal 0x07 (BitVec.ofNat 64 (2 * idx.toNat))))

/-- R372: a call pushes the address of the next sequential bundle on the return stack of sixteen entries, the target check first; RET
pops it; a full stack is fault 0x05 and an empty one 0x06. -/
def Say.calls : Prop :=
  ∀ (s : State) (xa : XReg) (off : BitVec 16),
    (∀ (i : Instr) (t : Int), (i = .call off ∧ t = s.pc.toNat + 2 * off.toInt) ∨ (i = .callr xa ∧ s.hazard [xa] = .none ∧ t = (s.x xa).toNat) →
      (Say.reachable s.pc t → s.t.ctl.ret.length < 16 →
        exec i s = .next (s.modCtl fun c => { c with ret := s.nextSeq :: c.ret, cpc := BitVec.ofInt 16 t, off := false })) ∧
      (Say.reachable s.pc t → 16 ≤ s.t.ctl.ret.length → exec i s = .next (s.raise 0x05)) ∧
      (¬ Say.reachable s.pc t → exec i s = .next (s.raiseVal 0x04 (BitVec.ofInt 64 t)))) ∧
    (s.t.ctl.ret = [] → exec .ret s = .next (s.raise 0x06)) ∧
    (∀ a rest, s.t.ctl.ret = a :: rest →
      (Say.reachable s.pc a.toNat → exec .ret s = .next (s.modCtl fun c => { c with ret := rest, cpc := a, off := false })) ∧
      (¬ Say.reachable s.pc a.toNat → exec .ret s = .next (s.raiseVal 0x04 (a.setWidth 64))))

/-- R371, R372: within a bundle, a branch changes nothing but the CPC and the return stack, and LOOP its counter. -/
def Say.branchFrame : Prop :=
  ∀ (s t : State) (xa xb : XReg) (off : BitVec 16) (idx : BitVec 14), s.bun.active = true →
    ∀ i ∈ [Instr.jmp off, .jmpr xa, .beq xa xb off, .bne xa xb off, .blt xa xb off, .bge xa xb off, .bltu xa xb off, .bgeu xa xb off,
      .loop xa off, .bswap idx, .call off, .callr xa, .ret],
      exec i s = .next t →
        (∀ r, (r ≠ xa ∨ i ≠ .loop xa off) → Say.reg t r = Say.reg s r) ∧ t.t.buf = s.t.buf ∧ (∀ a, t.t.buf.byte a = s.t.buf.byte a) ∧
        t.t.lane = s.t.lane ∧ t.t.mx = s.t.mx ∧ t.t.winch = s.t.winch ∧ t.t.red = s.t.red ∧ t.t.sync = s.t.sync ∧
        t.t.ctl.trap = s.t.ctl.trap ∧ t.t.ctl.hq = s.t.ctl.hq ∧ t.t.ctl.widw = s.t.ctl.widw ∧
        (∀ k, k ≠ s.here → t.tile k = s.tile k) ∧ t.net = s.net ∧ t.far = s.far ∧ t.host = s.host ∧ t.ctrl = s.ctrl

/-! ### Traps (17_faults_repair.md R468-R475; 13_control_slice.md R376, R377) -/

/-- R469: the word of TCAUSE: the code, PEND, whether the lanes or an event raised it, the slot and the argument. -/
def Say.cause (c : Cause) (pend : Bool) : Word :=
  BitVec.ofNat 64 (c.code.toNat + (if pend then 2 ^ 8 else 0) + (if c.lane then 2 ^ 9 else 0) + (if c.async then 2 ^ 10 else 0)
    + 2 ^ 12 * c.slot.toNat + 2 ^ 16 * c.arg.toNat)

/-- R469, R471: what may be taken: RE enables the code's group, no handler runs, TVEC is even and lies in a fetch-visible bank, and
fetch has not ended. -/
def Say.takeable (s : State) (code : Byte) : Prop :=
  s.t.ctl.trap.re.getLsbD (code.toNat / 32) = true ∧ s.t.ctl.trap.hnd = false ∧ s.t.ctl.trap.tvec.getLsbD 0 = false ∧
  (if s.t.ctl.trap.tvec.getLsbD 15 then s.t.ctl.fv1 else s.t.ctl.fv0) = true ∧ s.t.ctl.fetch = .running

/-- R469: the state of a tile whose handler a cause c of the control slice or of an event has entered from s. -/
def Say.entered (s t : State) (c : Cause) (epc : BitVec 16) : Prop :=
  t.t.ctl.trap.hnd = true ∧ t.t.ctl.trap.cause = Say.cause c (!s.t.ctl.trap.pend.isEmpty) ∧ t.t.ctl.trap.val = c.val ∧
  t.t.ctl.trap.epc = epc ∧ t.t.ctl.cpc = s.t.ctl.trap.tvec ∧ t.t.ctl.trap.tvec = s.t.ctl.trap.tvec ∧ t.t.ctl.trap.re = s.t.ctl.trap.re ∧
  t.t.ctl.trap.scr = s.t.ctl.trap.scr ∧ t.t.ctl.trap.pend = s.t.ctl.trap.pend ∧
  (∀ r, Say.reg t r = Say.reg s r) ∧ (∀ a, t.t.buf.byte a = s.t.buf.byte a) ∧ t.t.lane = s.t.lane ∧ t.t.mx = s.t.mx

/-- R469: a cause that may be taken enters the handler: TCAUSE, TVAL and TEPC are written, HND is set and the control slice goes on at
TVEC; registers and memory stay. TRAP does so with the address of the next sequential bundle in TEPC, code 0x08 and its number
(R376), and an illegal bundle with its own code (R37). -/
def Say.trapEntry : Prop :=
  ∀ (s : State) (c : Cause) (n : Byte) (slot : BitVec 4),
    (c.lane = false → assigned c.code = true → Say.takeable s c.code → ¬ (c.code = 0x80 ∧ c.async = false ∧ s.t.sync.inph = true) →
      ∃ t, exec (.trapEntry c) s = .next t ∧ Say.entered s t c s.t.ctl.cpc) ∧
    (s.bun.active = false → Say.takeable s 0x08 →
      ∃ t, exec (.trap n) s = .next t ∧
        Say.entered s t { code := 0x08, arg := n, slot := 3, async := false, lane := false, val := 0 } (s.t.ctl.cpc + 6)) ∧
    (s.bun.active = true → exec (.trap n) s = .next { s with bun := { s.bun with late := some (.trap n) } }) ∧
    (∀ code : Byte, 1 ≤ code.toNat → code.toNat ≤ 3 → Say.takeable s code →
      ∃ t, exec (.illegalBundle code slot) s = .next t ∧
        Say.entered s t { code := code, arg := 0, slot := slot, async := false, lane := false, val := 0 } s.t.ctl.cpc)

/-- R471: while a handler runs, a cause of A kind waits behind it and sets PEND. -/
def Say.asynchronousCausesWait : Prop :=
  ∀ (s : State) (c : Cause), assigned c.code = true → c.lane = false → c.async = true → s.t.ctl.trap.hnd = true →
    exec (.trapEntry c) s =
      .next (s.modCtl fun k => { k with trap := { k.trap with pend := k.trap.pend ++ [c], cause := k.trap.cause ||| 256 } })

/-- R31, R376, R470: ERET restores the CPC from TEPC, as it stood before the bundle, clears HND and lets the lanes go on when the trap was
theirs; with no handler running it is fault 0x0B, and with a TEPC that is odd or in a bank that is not fetch-visible fault 0x04. -/
def Say.trapReturn : Prop :=
  ∀ (s : State) (w : Trap), ((s.bun.was = none ∧ w = s.t.ctl.trap) ∨ ∃ x, s.bun.was = some x ∧ w = x.ctl.trap) →
    (w.hnd = false → exec .eret s = .next (s.raise 0x0B)) ∧
    (w.hnd = true → (w.epc.getLsbD 0 = true ∨ s.fv w.epc = false) → exec .eret s = .next (s.raiseVal 0x04 (w.epc.setWidth 64))) ∧
    (w.hnd = true → w.epc.getLsbD 0 = false → s.fv w.epc = true →
      (s.bun.active = true → exec .eret s = .next { s with bun := { s.bun with late := some .eret } }) ∧
      (s.bun.active = false → s.bun.was = none → ∃ t, exec .eret s = .next t ∧ t.t.ctl.cpc = s.t.ctl.trap.epc ∧ t.t.ctl.trap.hnd = false ∧
        t.t.ctl.trap.lv = false ∧ (s.t.ctl.trap.lv = true → t.t.lane.stop = false) ∧ (s.t.ctl.trap.lv = false → t.t.lane = s.t.lane) ∧
        (∀ r, Say.reg t r = Say.reg s r) ∧ (∀ a, t.t.buf.byte a = s.t.buf.byte a) ∧ t.t.ctl.trap.cause = s.t.ctl.trap.cause ∧
        t.t.ctl.trap.scr = s.t.ctl.trap.scr))

/-- R377: END stops the fetch of the control slice once the rest of its bundle has issued; inside a handler it is fault 0x0B. -/
def Say.endOfProgram : Prop :=
  ∀ s : State,
    (s.t.ctl.trap.hnd = true → exec .endp s = .next (s.raise 0x0B)) ∧
    (s.t.ctl.trap.hnd = false → s.bun.active = true → exec .endp s = .next { s with bun := { s.bun with late := some .endp } }) ∧
    (s.t.ctl.trap.hnd = false → s.bun.active = false → exec .endp s = .next (s.modCtl fun c => { c with fetch := .ended }))

/-- R39, R468: a fault of a slot is noted in its bundle with the slot's number; the first one stands. -/
def Say.faultsOfABundle : Prop :=
  ∀ (s : State) (code : Byte) (v : Word), s.bun.active = true →
    (s.bun.raised = none →
      let c : Cause := { code := code, arg := 0, slot := s.bun.slot, async := false, lane := s.bun.lane, val := v }
      s.raiseVal code v = { s with bun := { s.bun with raised := some c } }) ∧
    (s.bun.raised ≠ none → s.raiseVal code v = s)

/-- R473-R475: a cause that no handler takes and a handler that does not return escalate: the tile freezes, its lane writes land, and
event 0xEA goes to the ring of its region. -/
def Say.escalation : Prop :=
  ∀ (s : State) (c : Cause) (r : Region),
    s.region = some r → r.index s.here < 65536 → s.t.ctl.trap.hnd = false → c.code ≠ 0x13 → assigned c.code = true →
      (c.code = 0x16 → assigned c.arg = true) → s.t.lane.pending = [] → s.t.lane.sigs = [] →
      s.t.mx.rows = [] → s.t.mx.done = [] → (s.host.pend.filter fun x => x.fn == r.fn).length < 4096 →
      ∃ t, exec (.escalation c) s = .next t ∧ t.t.ctl.frozen = true ∧ (∀ q, Say.reg t q = Say.reg s q) ∧
        ∃ e ∈ t.host.pend, e.code = 0xEA ∧ e.fn = r.fn ∧ e.region = r.id ∧ e.arg1 = c.val ∧
          bits 0 8 e.arg0 = c.code ∧ bits 8 8 e.arg0 = (if c.code = 0x16 then c.arg else 0) ∧ bits 32 16 e.arg0 = s.t.ctl.cpc

/-- R473: a handler that has run 2^20 cycles escalates as code 0x16 and freezes its tile; before that nothing happens. -/
def Say.handlerTimeLimit : Prop :=
  ∀ (s : State), s.t.ctl.trap.hnd = true → s.t.ctl.frozen = false →
    (s.cycle < s.t.ctl.trap.hstart + 2 ^ 20 → exec .handlerTimeout s = .next s) ∧
    (s.t.ctl.trap.hstart + 2 ^ 20 ≤ s.cycle → s.t.lane.pending = [] → s.t.lane.sigs = [] → s.t.mx.rows = [] → s.t.mx.done = [] →
      ∃ t, exec .handlerTimeout s = .next t ∧ t.t.ctl.frozen = true ∧ t.t.ctl.trap.hnd = false ∧ t.t.ctl.cpc = s.t.ctl.trap.epc)


/-! ### Decoding and encoding (02_bundles.md R25-R58) -/

/-- The bundle of one instruction reads back as it: its slot, its length and nothing else, whatever follows in the bank. -/
def Say.readsBack (i : Instr) : Prop :=
  wf i = true → ∃ ps, encode i = some ps ∧ ∀ rest, ∃ b n lane, decodeBundle lane (ps ++ rest) = .ok b ∧
    b.slots = [(n, .ok i)] ∧ b.len = 2 * ps.length

/-- R359, R53: the instructions of the S0 and S1 slots. -/
def Say.slotsS (xd xa xb : XReg) (imm : BitVec 14) (k6 l6 : BitVec 6) (n3 : BitVec 3) (x : Word) (c : BitVec 12) : List Instr :=
  [.add xd xa xb, .sub xd xa xb, .addi xd xa imm, .mul xd xa xb, .mulh xd xa xb, .mulhu xd xa xb, .div xd xa xb, .divu xd xa xb,
   .rem xd xa xb, .remu xd xa xb, .min xd xa xb, .max xd xa xb, .minu xd xa xb, .maxu xd xa xb, .and xd xa xb, .or xd xa xb,
   .xor xd xa xb, .andi xd xa imm, .ori xd xa imm, .xori xd xa imm, .shl xd xa xb, .shr xd xa xb, .sra xd xa xb, .shli xd xa k6,
   .shri xd xa k6, .srai xd xa k6, .clz xd xa, .ctz xd xa, .popc xd xa, .seq xd xa xb, .sne xd xa xb, .slt xd xa xb,
   .sltu xd xa xb, .slti xd xa imm, .sltiu xd xa imm, .wfld xd xa n3, .bfx xd xa k6 l6, .bfxu xd xa k6 l6, .bfins xd xa k6 l6,
   .li xd imm, .lix xd x, .addx xd xa x, .addsh xd xa xb, .csrr xd c, .csrw c xa, .csrs c xa, .csrc c xa, .accept xd]

/-- Encoding then decoding a well-formed scalar instruction gives it back, at every value of its operands. -/
def Say.scalarEncodingReadsBack : Prop :=
  ∀ (xd xa xb : XReg) (imm : BitVec 14) (k6 l6 : BitVec 6) (n3 : BitVec 3) (x : Word) (c : BitVec 12),
    ∀ i ∈ Say.slotsS xd xa xb imm k6 l6 n3 x c, Say.readsBack i

/-- R54, R370, R55, R378-R380: the instructions of the BR and SM slots. -/
def Say.slotsBrSm (xd xa xb : XReg) (off : BitVec 16) (idx : BitVec 14) (n ch : Byte) (m : SmAddr) (t : SmAtom) (cls : BitVec 4) (aop : AOp)
    (sz det : Bool) : List Instr :=
  [.jmp off, .jmpr xa, .call off, .callr xa, .ret, .beq xa xb off, .bne xa xb off, .blt xa xb off, .bge xa xb off, .bltu xa xb off,
   .bgeu xa xb off, .loop xa off, .bswap idx, .trap n, .eret, .endp, .ldb m xd, .ldbu m xd, .ldh m xd, .ldhu m xd, .ldw m xd,
   .ldwu m xd, .ldd m xd, .stb m xd, .sth m xd, .stw m xd, .std m xd, .amoadd t xd xb, .amoand t xd xb, .amoor t xd xb,
   .amoxor t xd xb, .amomin t xd xb, .amomax t xd xb, .amominu t xd xb, .amomaxu t xd xb, .amoswap t xd xb, .amocas t xd xb,
   .chrsv ch xa, .chrel ch xa, .chwait ch xa, .chstat xd ch, .ramo cls xd xa aop sz det xb]

/-- Encoding then decoding a well-formed branch, load, store, atomic or channel instruction gives it back. -/
def Say.branchAndMemoryEncodingReadsBack : Prop :=
  ∀ (xd xa xb : XReg) (off : BitVec 16) (idx : BitVec 14) (n ch : Byte) (m : SmAddr) (t : SmAtom) (cls : BitVec 4) (aop : AOp)
    (sz det : Bool),
    ∀ i ∈ Say.slotsBrSm xd xa xb off idx n ch m t cls aop sz det, Say.readsBack i

/-- R37, R40: what decodes in a slot is well formed: reserved values and operands out of range never reach a meaning. -/
def Obligations.DecodedInstructionsAreWellFormed : Prop :=
  ∀ (lane : Bool) (ps : List (BitVec 16)) (b : Bundle) (n : Nat) (i : Instr),
    decodeBundle lane ps = .ok b → (n, Except.ok i) ∈ b.slots → wf i = true

/-- R25, R27, R30, R53-R58: a few bundles written out from the encodings: NOP, ADD x1, x2, x3, ADDI x1, x2, -1, JMP -1 parcel,
LDD x4 at x5 + 8 of the A buffer, SEMRD x2 of semaphore 5, and VAND v1, v2, v3 of 1024 bits. -/
def Obligations.SpecWords : Prop :=
  decodeTableWord 16 0x0000 = some (.nop false false) ∧
  decodeTableWord 48 0x860000082000 = some (.add 1 2 3) ∧
  decodeTableWord 48 0xBFFF02082000 = some (.addi 1 2 0x3FFF) ∧
  decodeTableWord 48 0xFFFF00000800 = some (.jmp 0xFFFF) ∧
  decodeTableWord 48 0x000118850400 = some (.ldd { cls := 0, cbuf := false, xa := 5, off := 1 } 4)

/-! ### Steps (02_bundles.md R29-R39) -/

/-- R31, R33: the slots of a bundle run in slot order from s to t, each under its number, and none of them faults. -/
def Say.ran : List (Nat × Instr) → State → State → Prop
  | [], s, t => t = s
  | (n, i) :: rest, s, t =>
    ∃ u, exec i { s with bun := { s.bun with slot := BitVec.ofNat 4 n } } = .next u ∧ u.bun.raised = none ∧ Say.ran rest u t

/-- R31, R357: the state in which the slots of a control bundle run: the CPC stands past the bundle, and the registers are read as they
stood before it. -/
def Say.opened (b : Bundle) (s : State) : State :=
  { s.modCtl (fun c => { c with cpc := BitVec.ofNat 16 (s.t.ctl.cpc.toNat + b.len)
                                off := (s.t.ctl.cpc.toNat + b.len) % 0x8000 == 0 }) with
    bun := { Bun.none with active := true, addr := s.t.ctl.cpc, seq := s.t.ctl.cpc.toNat + b.len, scope := b.scope
                           xs := some s.preRegs, was := some s.t } }

/-- R29, R31, R39: a turn of a control slice that can fetch runs the bundle at its CPC: the decoded instructions in slot order, each by
its meaning, those left out that performed while the bundle stalled; the bundle then issues, or stalls, or faults as its first faulting
slot says. -/
def Say.stepRunsControlBundle : Prop :=
  ∀ (s : State) (k : Nat) (rest : List Turn) (b : Bundle) (l : List (Nat × Instr)),
    s.agenda = .control k :: rest → k < 5544 →
    let p : State := { s with agenda := rest, here := k }
    controlHold p = none → decodeBundle false (p.t.buf.parcels p.t.ctl.cpc.toNat) = .ok b →
    p.slotsLeft p.t.ctl.cpc b.slots = l.map (fun x => (x.1, .ok x.2)) →
    ((∀ g ∈ p.t.ctl.granted, g.1 ≠ .sm) → p.slotsLeft p.t.ctl.cpc b.slots = b.slots) ∧
    (∀ t, Say.ran l (Say.opened b p) t → t.bun.waits = [] → step s = .next (closeControl t)) ∧
    (∀ t, Say.ran l (Say.opened b p) t → t.bun.waits ≠ [] → step s = .next (stallBundle b t.bun.waits p)) ∧
    (∀ before n i after t u c, l = before ++ (n, i) :: after → Say.ran before (Say.opened b p) t →
      exec i { t with bun := { t.bun with slot := BitVec.ofNat 4 n } } = .next u → u.bun.raised = some c →
      step s = .next (bundleFault c u.bun p))

/-- R31, R357, R101: a bundle that has issued leaves no bundle open and no wait, its CPC where its slots put it, its registers and
memory as its slots left them. -/
def Say.issuedBundle : Prop :=
  ∀ s : State, s.bun.late = none → (∀ g ∈ s.t.ctl.granted, g.1 ≠ .sm) →
    (closeControl s).bun = Bun.none ∧ (closeControl s).t.ctl.waits = [] ∧ (closeControl s).t.ctl.cpc = s.t.ctl.cpc ∧
    (∀ r, Say.reg (closeControl s) r = Say.reg s r) ∧ (∀ a, (closeControl s).t.buf.byte a = s.t.buf.byte a) ∧
    (closeControl s).t.lane = s.t.lane ∧ (closeControl s).t.ctl.trap = s.t.ctl.trap ∧ (closeControl s).t.sync = s.t.sync ∧
    (∀ k, k ≠ s.here → (closeControl s).tile k = s.tile k)

/-- R31, R39: a stalled bundle changes nothing of its tile but what it waits for and since when, unless its one wait is for what an
earlier slot of it must precede; it will issue again from its own CPC. -/
def Say.stalledBundle : Prop :=
  ∀ (p : State) (b : Bundle) (ws : List (Wait × Instr)), (∀ w, ws = [w] → earlierSlots w = []) →
    let t := stallBundle b ws p
    t.t.ctl.waits = ws ∧ t.t.ctl.cpc = p.t.ctl.cpc ∧ (∀ r, Say.reg t r = Say.reg p r) ∧ t.t.buf = p.t.buf ∧
    t.t.lane = p.t.lane ∧ t.t.sync = p.t.sync ∧ t.t.fab = p.t.fab ∧ t.t.winch = p.t.winch ∧ t.t.ctl.granted = p.t.ctl.granted

/-- R32, R387: a turn of a lane sequencer whose block runs issues the lane bundle at its LPC in the same way; a faulting slot
stops the lanes and its fault waits for the control slice's turn of the cycle. -/
def Say.stepRunsLaneBundle : Prop :=
  ∀ (s : State) (k : Nat) (rest : List Turn) (b : Bundle) (l : List (Nat × Instr)) (blk : Block),
    s.agenda = .lane k :: rest → k < 5544 →
    let p : State := { s with agenda := rest, here := k }
    p.isHeld = false → p.t.lane.stop = false → p.t.lane.replay = false → p.t.ctl.blk = some blk → blk.off = false →
    p.t.buf.badFetch blk.lpc.toNat (lengthAt (p.t.buf.parcels blk.lpc.toNat)) = none →
    decodeBundle true (p.t.buf.parcels blk.lpc.toNat) = .ok b → b.slots = l.map (fun x => (x.1, .ok x.2)) →
    (∀ t, Say.ran l (openBundle true blk.lpc b p) t → step s = .next (closeLane b.last t)) ∧
    (∀ before n i after t u c, l = before ++ (n, i) :: after → Say.ran before (openBundle true blk.lpc b p) t →
      exec i { t with bun := { t.bun with slot := BitVec.ofNat 4 n } } = .next u → u.bun.raised = some c →
      step s = .next (laneFault c (p.readAt u.bun.touch).2))

/-- R37, R38: a bundle that does not decode raises the fault its header or its slots name, and nothing of it happens. -/
def Say.stepOfIllegalBundle : Prop :=
  ∀ (s : State) (k : Nat) (rest : List Turn) (c : Byte),
    s.agenda = .control k :: rest → k < 5544 →
    let p : State := { s with agenda := rest, here := k }
    controlHold p = none → decodeBundle false (p.t.buf.parcels p.t.ctl.cpc.toNat) = .error c →
    step s = .next (p.trapEntry { code := c, arg := 0, slot := 15, async := false, lane := false, val := 0 })

/-- R2: an event of the opcode table whose turn has come runs by its meaning, at its tile; a turn of a tile outside the 5544 logical
tiles stops with a fault; with no turn left the cycle ends and the next begins. -/
def Say.stepRunsEvents : Prop :=
  ∀ (s : State) (k : Nat) (i : Instr) (rest : List Turn),
    (s.agenda = .event k i :: rest → k < 5544 → step s = exec i { s with agenda := rest, here := k }) ∧
    (s.agenda = .event k i :: rest → 5544 ≤ k → step s = .fault .noSuchTile) ∧
    (s.agenda = [] → step s = .next s.tick ∧ s.tick.cycle = s.betweenCycles.cycle + 1 ∧
      s.tick.clock = s.betweenCycles.clock.tick (s.betweenCycles.cycle + 1))


/-! ### Buffers: SM loads, stores and atomics (13_control_slice.md R378-R381; 05_tile_buffers.md R128-R141) -/

namespace Sys2Proof.Say

open Sys2Proof Sys2Proof.Machine

/-- The little-endian value of n bytes of a memory at address a. -/
def little (byte : Nat → Byte) (a : Nat) : Nat → Nat
  | 0 => 0
  | n + 1 => little byte a n + (byte (a + n)).toNat * 2 ^ (8 * n)

/-- R379: the loads of the SM slot: bytes, and whether the value is signed. -/
def loads (m : SmAddr) (xd : XReg) : List (Instr × Nat × Bool) :=
  [(.ldb m xd, 1, true), (.ldbu m xd, 1, false), (.ldh m xd, 2, true), (.ldhu m xd, 2, false), (.ldw m xd, 4, true),
   (.ldwu m xd, 4, false), (.ldd m xd, 8, false)]

/-- R379: the stores of the SM slot. -/
def stores (m : SmAddr) (xd : XReg) : List (Instr × Nat) := [(.stb m xd, 1), (.sth m xd, 2), (.stw m xd, 4), (.std m xd, 8)]

/-- R116: the new value of an atomic on n bits. -/
def atomic {n : Nat} (op : AOp) (old b cmp : BitVec n) : BitVec n :=
  match op with
  | .add => old + b
  | .and => old &&& b
  | .or => old ||| b
  | .xor => old ^^^ b
  | .min => if b.toInt < old.toInt then b else old
  | .max => if old.toInt < b.toInt then b else old
  | .minu => if b.toNat < old.toNat then b else old
  | .maxu => if old.toNat < b.toNat then b else old
  | .swap => b
  | .cas => if old = cmp then b else old

/-- R380: the atomics of the SM slot. -/
def atomics (m : SmAtom) (xd xb : XReg) : List (Instr × AOp) :=
  [(.amoadd m xd xb, .add), (.amoand m xd xb, .and), (.amoor m xd xb, .or), (.amoxor m xd xb, .xor), (.amomin m xd xb, .min),
   (.amomax m xd xb, .max), (.amominu m xd xb, .minu), (.amomaxu m xd xb, .maxu), (.amoswap m xd xb, .swap), (.amocas m xd xb, .cas)]

/-- Nothing outside the present tile changes. -/
def elsewhere (s t : State) : Prop :=
  (∀ k, k ≠ s.here → t.tile k = s.tile k) ∧ t.net = s.net ∧ t.far = s.far ∧ t.host = s.host ∧ t.ctrl = s.ctrl ∧ t.clock = s.clock

/-- One packet enters the fabric at the present tile, for a tile, with a body (R275). -/
def sends (s t : State) (dest : Nat) (body : Body) : Prop :=
  ∃ p : Packet, t.net = s.net ++ [p] ∧ p.dest = dest ∧ p.at_ = s.here ∧ p.body = body

end Sys2Proof.Say

/-- R128, R147, R148, R378: where an SM access goes. In C, the offset; in A, bit 20 names the side, and with no phase pair the offset
stands there. An address that is no byte of the buffer is fault 0x0A, a misaligned one 0x09. -/
def Say.smAddresses : Prop :=
  ∀ (s : State) (ea : Word) (n : Nat), 0 < n →
    (ea.toNat < 0x60000 → ea.toNat % n = 0 → s.smAt true ea n = .ok (0x300000 + ea.toNat)) ∧
    (ea.toNat < 0x60000 → ea.toNat % n ≠ 0 → s.smAt true ea n = .error 0x09) ∧
    (0x60000 ≤ ea.toNat → s.smAt true ea n = .error 0x0A) ∧
    (s.t.buf.pairs = [] → ea.toNat < 0x200000 → ea.toNat % 0x100000 < 0xC0000 → ea.toNat % n = 0 → s.smAt false ea n = .ok ea.toNat) ∧
    (ea.toNat < 0x200000 → ea.toNat % 0x100000 < 0xC0000 → ea.toNat % n ≠ 0 → s.smAt false ea n = .error 0x09) ∧
    ((0x200000 ≤ ea.toNat ∨ 0xC0000 ≤ ea.toNat % 0x100000) → s.smAt false ea n = .error 0x0A)

/-- R399, R400: the RAMOs that an access of a class to n bytes at a place of a home follows have all performed: those of its class, and those
to its location. -/
def Say.ordered (s : State) (cls : BitVec 4) (home place n : Nat) : Prop :=
  ∀ o ∈ s.t.fab.ramos, o.resp = none → o.det = false → o.cls ≠ cls ∧ (o.home = home → o.place + o.size ≤ place ∨ place + n ≤ o.place)

/-- R379, R381: a load writes the little-endian value it reads, sign extended where it is signed; a bad address faults with the address
in TVAL; poisoned data is fault 0x80 and leaves the register. It waits for the RAMOs ordered before it (R399, R400). -/
def Say.scalarLoads : Prop :=
  ∀ (s : State) (m : SmAddr) (xd : XReg), s.hazard [m.xa] = .none → ∀ l ∈ Say.loads m xd,
    (∀ a, s.smAt m.cbuf (s.smEa m l.2.1) l.2.1 = .ok a → ¬ Say.ordered s m.cls s.here (ramoPlace m.cbuf (s.smEa m l.2.1).toNat) l.2.1 →
      exec l.1 s = .next (s.stall .ramo l.1)) ∧
    (∀ a, s.smAt m.cbuf (s.smEa m l.2.1) l.2.1 = .ok a → Say.ordered s m.cls s.here (ramoPlace m.cbuf (s.smEa m l.2.1).toNat) l.2.1 →
      anyPoison (s.readAt (run a l.2.1)).1 = false →
      let t := (s.readAt (run a l.2.1)).2
      let v := Say.little t.t.buf.byte a l.2.1
      exec l.1 s = .next (Say.put t xd (if l.2.2 && decide (2 ^ (8 * l.2.1 - 1) ≤ v) then (v : Int) - 2 ^ (8 * l.2.1) else v))) ∧
    (∀ c, s.smAt m.cbuf (s.smEa m l.2.1) l.2.1 = .error c → exec l.1 s = .next (s.raiseVal c (s.smEa m l.2.1))) ∧
    (∀ a, s.bun.active = true → s.smAt m.cbuf (s.smEa m l.2.1) l.2.1 = .ok a →
      Say.ordered s m.cls s.here (ramoPlace m.cbuf (s.smEa m l.2.1).toNat) l.2.1 → anyPoison (s.readAt (run a l.2.1)).1 = true →
      ∃ t, exec l.1 s = .next t ∧ t.bun.raised.isSome = true ∧ (∀ r, Say.reg t r = Say.reg s r) ∧ t.t.buf = s.t.buf)

/-- R138, R141: reading the buffers changes nothing that an instruction stored outside the accumulator frames, where a lost word may be
rebuilt: no other byte, no register, no other unit, no other tile. -/
def Say.readFrame : Prop :=
  ∀ (s : State) (as : List Nat), (s.readAt as).1.length = as.length ∧
    (∀ x, x < 0x300000 ∨ 0x310000 ≤ x → (s.readAt as).2.t.buf.byte x = s.t.buf.byte x) ∧
    (s.readAt as).2.t.ctl = s.t.ctl ∧ (s.readAt as).2.t.lane = s.t.lane ∧ (s.readAt as).2.t.mx = s.t.mx ∧
    (s.readAt as).2.t.winch = s.t.winch ∧ (s.readAt as).2.t.fab = s.t.fab ∧ (s.readAt as).2.t.red = s.t.red ∧
    (s.readAt as).2.t.sync = s.t.sync ∧ (∀ k, k ≠ s.here → (s.readAt as).2.tile k = s.tile k) ∧
    (s.readAt as).2.far = s.far ∧ (s.readAt as).2.net = s.net ∧ (s.readAt as).2.bun = s.bun

/-- R379: a store puts the low bytes of its register at its address, the lowest byte first, and changes no other byte of memory, no
register and nothing outside the tile; of the synchronisation state only the running digest moves. It waits for the RAMOs ordered before it (R399, R400). -/
def Say.scalarStores : Prop :=
  ∀ (s : State) (m : SmAddr) (xd : XReg), s.hazard [m.xa, xd] = .none → ∀ l ∈ Say.stores m xd,
    (∀ a, s.smAt m.cbuf (s.smEa m l.2) l.2 = .ok a → ¬ Say.ordered s m.cls s.here (ramoPlace m.cbuf (s.smEa m l.2).toNat) l.2 →
      exec l.1 s = .next (s.stall .ramo l.1)) ∧
    (∀ a, s.smAt m.cbuf (s.smEa m l.2) l.2 = .ok a → Say.ordered s m.cls s.here (ramoPlace m.cbuf (s.smEa m l.2).toNat) l.2 →
      ∃ t, exec l.1 s = .next t ∧
      (∀ k, k < l.2 → t.t.buf.byte (a + k) = bits (8 * k) 8 (s.x xd)) ∧
      (∀ x, x < a ∨ a + l.2 ≤ x → t.t.buf.byte x = s.t.buf.byte x) ∧
      (∀ r, Say.reg t r = Say.reg s r) ∧ t.t.ctl = s.t.ctl ∧ t.t.lane = s.t.lane ∧ t.t.mx = s.t.mx ∧ t.t.winch = s.t.winch ∧
      t.t.fab = s.t.fab ∧ t.t.red = s.t.red ∧ t.t.sync = { s.t.sync with run := t.t.sync.run } ∧ Say.elsewhere s t) ∧
    (∀ c, s.smAt m.cbuf (s.smEa m l.2) l.2 = .error c → exec l.1 s = .next (s.raiseVal c (s.smEa m l.2)))

/-- R380, R116: an atomic replaces the 64-bit word at its address by the result of its operation on the old value, which goes to its
register; nothing else of memory changes; a bad address faults. It waits for the RAMOs ordered before it (R399, R400). -/
def Say.scalarAtomics : Prop :=
  ∀ (s : State) (m : SmAtom) (xd xb : XReg), s.hazard [m.xa, xb, xd] = .none → s.hazard [m.xa, xb] = .none →
    ∀ l ∈ Say.atomics m xd xb,
    (∀ a, s.smAt m.cbuf (s.x m.xa) 8 = .ok a → ¬ Say.ordered s m.cls s.here (ramoPlace m.cbuf (s.x m.xa).toNat) 8 →
      exec l.1 s = .next (s.stall .ramo l.1)) ∧
    (∀ a, s.smAt m.cbuf (s.x m.xa) 8 = .ok a → Say.ordered s m.cls s.here (ramoPlace m.cbuf (s.x m.xa).toNat) 8 →
      anyPoison (s.readAt (run a 8)).1 = false →
      let r := (s.readAt (run a 8)).2
      let old : Word := BitVec.ofNat 64 (Say.little r.t.buf.byte a 8)
      let new := Say.atomic l.2 old (s.x xb) (s.x xd)
      ∃ t, exec l.1 s = .next t ∧ (xd ≠ 0 → Say.reg t xd = old) ∧ (∀ q, q ≠ xd → Say.reg t q = Say.reg s q) ∧
        (∀ k, k < 8 → t.t.buf.byte (a + k) = bits (8 * k) 8 new) ∧
        (∀ x, x < a ∨ a + 8 ≤ x → t.t.buf.byte x = r.t.buf.byte x) ∧ t.t.lane = s.t.lane ∧ t.t.mx = s.t.mx ∧
        t.t.ctl.trap = s.t.ctl.trap ∧ t.t.winch = s.t.winch ∧ (∀ k, k ≠ s.here → t.tile k = s.tile k)) ∧
    (∀ c, s.smAt m.cbuf (s.x m.xa) 8 = .error c → exec l.1 s = .next (s.raiseVal c (s.x m.xa)))

/-! ### Channels and remote atomics (10_fabric.md R283, R298-R302) -/

/-- Only the counters of one channel change, to the value given; ESC follows the phase (R434). -/
def Say.channel (s t : State) (ch : Byte) (c : Chan) : Prop :=
  t.chan ch = c ∧ (∀ d, d ≠ ch → t.chan d = s.chan d) ∧ t.t.fab.route = s.t.fab.route ∧ (∀ r, Say.reg t r = Say.reg s r) ∧
  t.t.buf = s.t.buf ∧ t.t.lane = s.t.lane ∧ t.t.mx = s.t.mx ∧ t.t.sync.sem = s.t.sync.sem ∧ t.t.sync.inph = s.t.sync.inph ∧
  Say.elsewhere s t

/-- R283, R298: CHRSV takes its reservations when flits in flight, reservations and n together fit in the window; it is fault 0x64 on
a channel that is no windowed send channel, 0x65 beyond the window, and otherwise waits. -/
def Say.channelReservation : Prop :=
  ∀ (s : State) (ch : Byte) (xa : XReg), s.hazard [xa] = .none → s.granted .chrsv = false →
    (chSendWin (s.userEnt ch) = false → exec (.chrsv ch xa) s = .next (s.raise 0x64)) ∧
    (chSendWin (s.userEnt ch) = true →
      (chWin (s.userEnt ch) < (s.x xa).toNat → exec (.chrsv ch xa) s = .next (s.raiseVal 0x65 (s.x xa))) ∧
      ((s.chan ch).inf + (s.chan ch).rsv + (s.x xa).toNat ≤ chWin (s.userEnt ch) →
        ∃ t, exec (.chrsv ch xa) s = .next t ∧
          Say.channel s t ch { s.chan ch with rsv := (s.chan ch).rsv + (s.x xa).toNat } ∧ t.t.sync = s.t.sync) ∧
      ((s.x xa).toNat ≤ chWin (s.userEnt ch) → chWin (s.userEnt ch) < (s.chan ch).inf + (s.chan ch).rsv + (s.x xa).toNat →
        exec (.chrsv ch xa) s = .next (s.stall .chrsv (.chrsv ch xa)))) ∧
    (s.t.ctl.waits = [(.chrsv, .chrsv ch xa)] → (s.chan ch).inf + (s.chan ch).rsv + (s.x xa).toNat ≤ chWin (s.chEnt ch) →
      ∃ t, exec .chrsvGrant s = .next t ∧ Say.channel s t ch { s.chan ch with rsv := (s.chan ch).rsv + (s.x xa).toNat } ∧
        t.t.ctl.waits = [] ∧ t.granted .chrsv = true ∧ t.agenda = .control s.here :: s.agenda) ∧
    (s.t.ctl.waits = [(.chrsv, .chrsv ch xa)] → chWin (s.chEnt ch) < (s.chan ch).inf + (s.chan ch).rsv + (s.x xa).toNat →
      exec .chrsvGrant s = .next s)

/-- R283, R298, R434: CHWAIT claims arrived flits of a windowed receive channel when that many are available, and escapes; otherwise
it waits, and CHWAIT_GRANT claims them for it. -/
def Say.channelClaim : Prop :=
  ∀ (s : State) (ch : Byte) (xa : XReg), s.hazard [xa] = .none → s.granted .chwait = false →
    let c := s.chan ch
    let n := (s.x xa).toNat
    (chRecvWin (s.userEnt ch) = false → exec (.chwait ch xa) s = .next (s.raise 0x64)) ∧
    (chRecvWin (s.userEnt ch) = true →
      (chWin (s.userEnt ch) < n → exec (.chwait ch xa) s = .next (s.raiseVal 0x65 (s.x xa))) ∧
      (n ≤ chWin (s.userEnt ch) → n ≤ c.avl → ∃ t, exec (.chwait ch xa) s = .next t ∧
        Say.channel s t ch { c with avl := c.avl - n, clm := c.clm + n } ∧ t.t.sync.esc = (s.t.sync.esc || s.t.sync.inph)) ∧
      (n ≤ chWin (s.userEnt ch) → c.avl < n → exec (.chwait ch xa) s = .next (s.stall .chwait (.chwait ch xa)))) ∧
    (s.t.ctl.waits = [(.chwait, .chwait ch xa)] → n ≤ c.avl →
      ∃ t, exec .chwaitGrant s = .next t ∧ Say.channel s t ch { c with avl := c.avl - n, clm := c.clm + n } ∧
        t.t.ctl.waits = [] ∧ t.granted .chwait = true ∧ t.agenda = .control s.here :: s.agenda)

/-- R298, R299: CHREL gives up n reservations or claims, all of them for n = 0; on a static receive channel it drops stored flits
and clears the overrun; CHSTAT reads the channel's status word. -/
def Say.channelReleaseAndStatus : Prop :=
  ∀ (s : State) (ch : Byte) (xa xd : XReg), s.hazard [xa] = .none →
    let c := s.chan ch
    let n := (s.x xa).toNat
    (chSendWin (s.userEnt ch) = true → ∃ t, exec (.chrel ch xa) s = .next t ∧
      Say.channel s t ch { c with rsv := if n = 0 then 0 else c.rsv - n } ∧ t.t.sync.esc = (s.t.sync.esc || s.t.sync.inph)) ∧
    (chRecvWin (s.userEnt ch) = true → ∃ t, exec (.chrel ch xa) s = .next t ∧
      Say.channel s t ch { c with
        clm := c.clm - (if n = 0 then c.clm else Min.min n c.clm), avl := c.avl + (if n = 0 then c.clm else Min.min n c.clm) } ∧
      t.t.sync.esc = (s.t.sync.esc || s.t.sync.inph)) ∧
    (chRecvStat (s.userEnt ch) = true → ∃ t, exec (.chrel ch xa) s = .next t ∧ Say.channel s t ch { c with ovr := false } ∧
      t.stored ch = (if n = 0 then [] else (s.stored ch).drop n) ∧ (∀ d, d ≠ ch → t.stored d = s.stored d)) ∧
    (chSendWin (s.userEnt ch) = false → chRecvWin (s.userEnt ch) = false → chRecvStat (s.userEnt ch) = false →
      exec (.chrel ch xa) s = .next (s.raise 0x64)) ∧
    (∃ v : Word, exec (.chstat xd ch) s = .next (s.setX xd v) ∧
      (c.rsv < 128 → c.clm < 128 → c.avl < 128 → c.inf < 128 → (s.stored ch).length < 128 →
        bit 63 v = chV (s.chEnt ch) ∧ bit 62 v = chRecv (s.chEnt ch) ∧ bit 61 v = chStatic (s.chEnt ch) ∧ bit 60 v = c.brk ∧
        bit 59 v = c.ovr ∧ (bits 52 7 v).toNat = chWin (s.chEnt ch) ∧
        bits 36 16 v = (if chRecv (s.chEnt ch) then c.exp else c.nxt) ∧ bits 20 16 v = (if chRecv (s.chEnt ch) then c.con else c.ack) ∧
        (bits 13 7 v).toNat = (if chRecv (s.chEnt ch) then c.clm else c.rsv) ∧ bits 0 6 v = c.nak))

/-- R300, R301, R399, R400: RAMO sends its request to the home of its location and records that its register awaits the old value; it waits
while sixteen are outstanding or one ordered before it has not performed; a bad location is fault 0x66, and DET outside a deterministic phase
0x67. -/
def Say.remoteAtomicRequest : Prop :=
  ∀ (s : State) (cls : BitVec 4) (xd xa xb : XReg) (aop : AOp) (sz : Bool), s.hazard [xa, xb, xd] = .none → s.hazard [xa, xb] = .none →
    let cbuf := locBuf (s.x xa) == .c
    let place := ramoPlace cbuf (ramoEa (s.x xa))
    let n := sizeBits sz / 8
    let out := (s.t.fab.ramos.filter fun o => o.resp.isNone).length
    (∀ h, s.ramoHome (s.x xa) sz = some (.tile h) → out < 16 → Say.ordered s cls h place n →
      let r : RamoReq := { src := s.here, rid := s.t.fab.nextRid, cbuf := cbuf, side := locSide (s.x xa), phn := s.t.sync.phn
                           off := bits 0 20 (s.x xa), aop := aop, sz := sz, det := false, b := s.x xb, cmp := s.x xd }
      let o : RamoOut := { rid := s.t.fab.nextRid, cls := cls, xd := xd, det := false, gateway := false, home := h, place := place
                           size := n, held := false, resp := none }
      ∃ t, exec (.ramo cls xd xa aop sz false xb) s = .next t ∧ Say.sends s t h (Body.ramo r) ∧ t.t.fab.ramos.getLast? = some o ∧
        t.t.fab.nextRid = s.t.fab.nextRid + 1 ∧ (∀ r, Say.reg t r = Say.reg s r) ∧ t.t.buf = s.t.buf ∧
        t.t.sync.esc = (s.t.sync.esc || s.t.sync.inph)) ∧
    (∀ h det, s.ramoHome (s.x xa) sz = some h → (det = true → s.t.sync.det = true ∧ s.t.sync.inph = true ∧ ∀ ch, h ≠ .gateway ch) →
      16 ≤ out ∨ ¬ Say.ordered s cls h.number place n → exec (.ramo cls xd xa aop sz det xb) s = .next (s.stall .ramo (.ramo cls xd xa aop sz det xb))) ∧
    (∀ det, s.ramoHome (s.x xa) sz = none → exec (.ramo cls xd xa aop sz det xb) s = .next (s.raiseVal 0x66 (s.x xa))) ∧
    (∀ h, s.ramoHome (s.x xa) sz = some h → (s.t.sync.det = false ∨ s.t.sync.inph = false ∨ ∃ ch, h = .gateway ch) →
      exec (.ramo cls xd xa aop sz true xb) s = .next (s.raiseVal 0x67 (s.x xa)))

/-- R301, R302: the home performs the operation on its word and answers with the old value, or holds a deterministic request; the
response writes the requester's register. -/
def Say.remoteAtomicPerformance : Prop :=
  ∀ (s : State) (r : RamoReq) (q : RamoResp) (o : RamoOut),
    (r.det = false → r.sz = true → r.src < 5544 →
      let a := s.t.buf.addr r.cbuf r.side r.off.toNat
      let u := (s.readAt (run a 8)).2
      let old : Word := BitVec.ofNat 64 (Say.little u.t.buf.byte a 8)
      let q : RamoResp := { rid := r.rid, old := old, poison := anyPoison (s.readAt (run a 8)).1 }
      ∃ t, exec (.ramoHomePerform r) s = .next t ∧ Say.sends s t r.src (Body.ramoResp q) ∧
        (∀ k, k < 8 → t.t.buf.byte (a + k) = bits (8 * k) 8 (Say.atomic r.aop old r.b r.cmp)) ∧
        (∀ x, x < a ∨ a + 8 ≤ x → t.t.buf.byte x = u.t.buf.byte x) ∧ (∀ x, Say.reg t x = Say.reg s x)) ∧
    (r.det = true → (s.t.fab.held.filter fun x => x.phn == r.phn).length < 1024 → ∃ t, exec (.ramoHomePerform r) s = .next t ∧ t.t.fab.held = s.t.fab.held ++ [r] ∧
      t.t.buf = s.t.buf ∧ t.net = s.net) ∧
    (s.t.fab.ramos.find? (fun x => x.rid == q.rid) = some o → o.held = true →
      ∃ t, exec (.ramoResponse q) s = .next t ∧ (∀ x, Say.reg t x = Say.reg s x) ∧ t.t.buf = s.t.buf ∧
        ∀ x ∈ t.t.fab.ramos, x.rid = q.rid → x.resp = some (q.old, q.poison)) ∧
    (s.t.fab.ramos.find? (fun x => x.rid == q.rid) = some o → o.held = false → o.xd ≠ 0 →
      ∃ t, exec (.ramoResponse q) s = .next t ∧ Say.reg t o.xd = q.old ∧ (∀ x, x ≠ o.xd → Say.reg t x = Say.reg s x) ∧
        t.t.ctl.xpois.getLsbD o.xd.toNat = q.poison ∧ (∀ x ∈ t.t.fab.ramos, x.rid ≠ q.rid) ∧ t.t.buf = s.t.buf)

/-- R302: when the phase barrier of the region for a phase is complete, a home applies the deterministic requests of that phase it holds;
one request held is performed as it would have been on arrival, and none of the phase is held after. Those of other phases stay held. -/
def Say.deterministicRemoteAtomics : Prop :=
  ∀ s : State,
    ((∀ r ∈ s.t.fab.held, s.phaseOver r.phn = false) →
      ∃ t, exec .detRamoApply s = .next t ∧ t.t.fab.held = s.t.fab.held ∧ t.t.buf = s.t.buf ∧ t.net = s.net) ∧
    (∃ t, exec .detRamoApply s = .next t ∧ t.t.fab.held = s.t.fab.held.filter (fun r => !s.phaseOver r.phn)) ∧
    (∀ n, s.phaseOver n = true → (∀ p ∈ s.net, ∀ r : RamoReq, p.body = Body.ramo r → r.det = true → r.phn = n → r.src ∉ s.regionTiles) ∧
      ∃ k ∈ s.regionTiles, (s.tile k).sync.phn = n + 1) ∧
    (∀ r : RamoReq, s.phaseOver r.phn = true → s.t.fab.held = [r] →
      let u := s.modFab fun f => { f with held := [] }
      ∃ t, exec .detRamoApply s = .next t ∧ exec (.ramoHomePerform { r with det := false }) u = .next t ∧ t.t.fab.held = [])


/-! ### Semaphores, barriers and waits (15_sync_time_phases.md R421-R429; 11_exact_reduction.md R330, R331) -/

/-- No stream or port conflict stands in the lane bundle at issue (R39, R132, R188). -/
def Say.noConflict (s : State) : Prop := s.bun.active = true ∧ s.bun.dsts = [] ∧ hasDup s.bun.ports = false

/-- The one instruction a stalled control bundle waits for. -/
def Say.waitsFor (s : State) (w : Wait) (i : Instr) : Prop := s.t.ctl.waits = [(w, i)]

/-- A wait was satisfied: the bundle issues next, its grant noted. -/
def Say.goesOn (s t : State) (w : Wait) : Prop :=
  t.t.ctl.waits = [] ∧ t.granted w = true ∧ t.agenda = .control s.here :: s.agenda ∧ (∀ r, Say.reg t r = Say.reg s r)

/-- R422: a semaphore takes a value; its fellows, the registers and memory stay. -/
def Say.semaphore (s t : State) (n : Byte) (v : BitVec 16) : Prop :=
  t.sem n = v ∧ (∀ k, k ≠ n → t.sem k = s.sem k) ∧ (∀ r, Say.reg t r = Say.reg s r) ∧ t.t.buf = s.t.buf ∧ t.t.lane = s.t.lane ∧
  t.t.mx = s.t.mx ∧ t.t.fab = s.t.fab ∧ t.t.winch = s.t.winch ∧ t.t.red = s.t.red ∧ t.t.sync.wt = s.t.sync.wt ∧
  (∀ k, k ≠ s.here → t.tile k = s.tile k)

/-- R422, R424: SEMSIG adds and clamps at 65535, where SEMST records the semaphore; SEMSET sets and SEMRD reads; a value above
65535 is fault 0x03. A lane SEMSIG is queued behind the lane writes in flight (R409). -/
def Say.semaphores : Prop :=
  ∀ (s : State) (h : SyHead) (sem : Byte) (inc : BitVec 12) (xa xd : XReg),
    (h.lane = false → s.ramosDone s.bun.scope (fun _ => true) = true →
      ∃ t, exec (.semsig h sem inc) s = .next t ∧
        Say.semaphore s t sem (BitVec.ofNat 16 (Min.min ((s.sem sem).toNat + inc.toNat) 65535)) ∧
        t.t.sync.ov = (s.t.sync.ov || decide (65535 < (s.sem sem).toNat + inc.toNat)) ∧
        (65535 < (s.sem sem).toNat + inc.toNat → t.t.sync.ovSem = sem)) ∧
    (h.lane = false → s.ramosDone s.bun.scope (fun _ => true) = false →
      exec (.semsig h sem inc) s = .next (s.stall .ramo (.semsig h sem inc))) ∧
    (∀ on, h.lane = true → s.guard h.guard = .ok on → on 0 = true → Say.noConflict s →
      ∃ t d, exec (.semsig h sem inc) s = .next t ∧
        t.t.lane.pending = s.t.lane.pending ++ [{ due := d, issued := s.cycle, target := .sem sem inc.toNat }] ∧
        s.cycle ≤ d ∧ (∀ w ∈ s.t.lane.pending, w.due < d) ∧ (∀ k, t.sem k = s.sem k) ∧ t.t.buf = s.t.buf) ∧
    (s.hazard [xa] = .none → (s.x xa).toNat < 65536 → s.ramosDone s.bun.scope (fun _ => true) = true →
      ∃ t, exec (.semset sem xa) s = .next t ∧ Say.semaphore s t sem ((s.x xa).setWidth 16)) ∧
    (s.hazard [xa] = .none → 65536 ≤ (s.x xa).toNat → exec (.semset sem xa) s = .next (s.raiseVal 0x03 (s.x xa))) ∧
    exec (.semrd xd sem) s = .next (Say.put s xd (s.sem sem).toNat)

/-- R422, R423: SEMWAIT takes its threshold off a semaphore that has reached it and otherwise waits; SEMWAIT_SATISFY takes it for
the waiting bundle. -/
def Say.semaphoreWaits : Prop :=
  ∀ (s : State) (sem : Byte) (xa : XReg), s.hazard [xa] = .none → s.granted .semwait = false →
    ((s.x xa).toNat ≤ (s.sem sem).toNat → ∃ t, exec (.semwait sem xa) s = .next t ∧
      Say.semaphore s t sem (BitVec.ofNat 16 ((s.sem sem).toNat - (s.x xa).toNat)) ∧ t.t.ctl = s.t.ctl) ∧
    ((s.sem sem).toNat < (s.x xa).toNat → (s.x xa).toNat < 65536 →
      exec (.semwait sem xa) s = .next (s.stall .semwait (.semwait sem xa))) ∧
    (65536 ≤ (s.x xa).toNat → exec (.semwait sem xa) s = .next (s.raiseVal 0x03 (s.x xa))) ∧
    (Say.waitsFor s .semwait (.semwait sem xa) → (s.x xa).toNat ≤ (s.sem sem).toNat →
      ∃ t, exec .semwaitSatisfy s = .next t ∧ Say.goesOn s t .semwait ∧
        Say.semaphore s t sem (BitVec.ofNat 16 ((s.sem sem).toNat - (s.x xa).toNat))) ∧
    (Say.waitsFor s .semwait (.semwait sem xa) → (s.sem sem).toNat < (s.x xa).toNat → exec .semwaitSatisfy s = .next s)

/-- R330, R331: whether a local arrival is in order: V = 1, a COUNT, and no more than two episodes ahead. -/
def Say.mayArrive (s : State) (nb : BitVec 7) : Prop :=
  (s.bar nb).ent.getLsbD 31 = true ∧ (bits 8 16 (s.bar nb).ent).toNat ≠ 0 ∧
  (s.bar nb).pend + (s.t.lane.pending.filter fun w => w.target == .arrive nb).length + 1 ≤ 2 * (bits 8 16 (s.bar nb).ent).toNat

/-- R425: an episode has been released past the ticket of a barrier. -/
def Say.episodeReleased (s : State) (nb : BitVec 7) : Prop :=
  1 ≤ ((s.bar nb).done - s.ticket nb).toNat ∧ ((s.bar nb).done - s.ticket nb).toNat ≤ 32767

/-- R425, R434, R409: ARRIVE counts one arrival and escapes; a lane ARRIVE is queued behind the lane writes in flight; an entry
with V = 0 or COUNT = 0 is fault 0xAA, and an arrival too far ahead 0xA9. -/
def Say.barrierArrivals : Prop :=
  ∀ (s : State) (h : SyHead) (nb : BitVec 7),
    (h.lane = false → Say.mayArrive s nb → s.ramosDone s.bun.scope (fun _ => true) = true →
      ∃ t, exec (.arrive h nb) s = .next t ∧ t.bar nb = { s.bar nb with pend := (s.bar nb).pend + 1 } ∧
        (∀ k, k ≠ nb → t.bar k = s.bar k) ∧ t.t.sync.esc = (s.t.sync.esc || s.t.sync.inph) ∧
        t.agenda = .auto s.here .barrier :: s.agenda ∧ t.t.ctl = s.t.ctl ∧ t.t.buf = s.t.buf ∧ t.t.lane = s.t.lane) ∧
    (∀ on, h.lane = true → s.guard h.guard = .ok on → on 0 = true → Say.noConflict s → Say.mayArrive s nb →
      ∃ t d, exec (.arrive h nb) s = .next t ∧
        t.t.lane.pending = s.t.lane.pending ++ [{ due := d, issued := s.cycle, target := .arrive nb }] ∧
        (∀ w ∈ s.t.lane.pending, w.due < d) ∧ t.t.sync.esc = (s.t.sync.esc || s.t.sync.inph) ∧ (∀ k, t.bar k = s.bar k)) ∧
    (h.lane = false → ((s.bar nb).ent.getLsbD 31 = false ∨ (bits 8 16 (s.bar nb).ent).toNat = 0) →
      exec (.arrive h nb) s = .next (s.raise 0xAA)) ∧
    (h.lane = false → (s.bar nb).ent.getLsbD 31 = true → (bits 8 16 (s.bar nb).ent).toNat ≠ 0 → ¬ Say.mayArrive s nb →
      exec (.arrive h nb) s = .next (s.raise 0xA9))

/-- R425, R426: WAIT consumes one released episode or waits; ARRWAIT arrives first; BARRIER_WAIT_SATISFY consumes it for the waiting
bundle; BARSET reads DONE, the ticket and the arrivals, and sets the ticket. -/
def Say.barrierWaits : Prop :=
  ∀ (s : State) (nb : BitVec 7) (xa xd : XReg) (w : Bool), s.granted .barrier = false →
    ((s.bar nb).ent.getLsbD 31 = true → Say.episodeReleased s nb → ∃ t, exec (.wait nb) s = .next t ∧
      t.ticket nb = s.ticket nb + 1 ∧ (∀ k, k ≠ nb → t.ticket k = s.ticket k) ∧ t.t.red = s.t.red ∧ t.t.ctl = s.t.ctl ∧
      t.t.buf = s.t.buf) ∧
    ((s.bar nb).ent.getLsbD 31 = true → ¬ Say.episodeReleased s nb → exec (.wait nb) s = .next (s.stall .barrier (.wait nb))) ∧
    ((s.bar nb).ent.getLsbD 31 = false → exec (.wait nb) s = .next (s.raise 0xAA)) ∧
    (s.hasArrived nb = false → Say.mayArrive s nb → s.ramosDone s.bun.scope (fun _ => true) = true → Say.episodeReleased s nb →
      ∃ t, exec (.arrwait nb) s = .next t ∧ t.ticket nb = s.ticket nb + 1 ∧
        t.bar nb = { s.bar nb with pend := (s.bar nb).pend + 1 } ∧ t.t.sync.esc = (s.t.sync.esc || s.t.sync.inph)) ∧
    (s.hasArrived nb = true → Say.episodeReleased s nb →
      ∃ t, exec (.arrwait nb) s = .next t ∧ t.ticket nb = s.ticket nb + 1 ∧ t.bar nb = s.bar nb) ∧
    (s.hasArrived nb = true → ¬ Say.episodeReleased s nb → exec (.arrwait nb) s = .next (s.stall .barrier (.arrwait nb))) ∧
    (Say.waitsFor s .barrier (.wait nb) → Say.episodeReleased s nb →
      ∃ t, exec .barrierWaitSatisfy s = .next t ∧ Say.goesOn s t .barrier ∧ t.ticket nb = s.ticket nb + 1) ∧
    (Say.waitsFor s .barrier (.wait nb) → ¬ Say.episodeReleased s nb → exec .barrierWaitSatisfy s = .next s) ∧
    (s.hazard [xa] = .none → ∃ t v, exec (.barset xd nb xa w) s = .next t ∧ (xd ≠ 0 → Say.reg t xd = v) ∧
      bits 48 16 v = (s.bar nb).done ∧ bits 32 16 v = s.ticket nb ∧ bit 14 v = (s.bar nb).ent.getLsbD 31 ∧
      ((s.bar nb).pend < 2 ^ 17 → (bits 15 17 v).toNat = (s.bar nb).pend) ∧
      t.ticket nb = (if w then bits 0 16 (s.x xa) else s.ticket nb) ∧ (∀ r, r ≠ xd → Say.reg t r = Say.reg s r))

/-- R427: WAITA reads its word, whose place was resolved when it was issued; an equal word (NE: a different one) ends the wait with 0 and a timeout with 1; otherwise it
waits, and the wake and the timeout end the wait of its bundle. -/
def Say.wordWaits : Prop :=
  ∀ (s : State) (xd xa xb : XReg) (ne sz tmo : Bool) (a b : Nat),
    s.hazard [xa, xb, xd] = .none → s.hazard [xa, xb] = .none → s.localPlace (s.x xa) (if sz then 8 else 4) = some b →
    a = (if (∃ x ∈ s.t.ctl.waits, x.1 = Wait.waita) then s.t.ctl.waitAt else b) →
    (s.t.ctl.granted.find? fun g => g.1 == .waita) = none →
    let n := if sz then 8 else 4
    let u := (s.readAt (run a n)).2
    let w := Say.little u.t.buf.byte a n
    let i : Instr := .waita xd xa xb ne sz tmo
    let ended := (ne = false ∧ w = (s.x xb).toNat % 2 ^ (8 * n)) ∨ (ne = true ∧ w ≠ (s.x xb).toNat % 2 ^ (8 * n))
    let late := tmo = true ∧ s.waitStart + (s.x xd).toNat ≤ s.cycle
    anyPoison (s.readAt (run a n)).1 = false →
    (ended → exec i s = .next (Say.put u xd 0)) ∧ (¬ ended → late → exec i s = .next (Say.put u xd 1)) ∧
    (¬ ended → ¬ late → exec i s = .next (s.stall .waita i)) ∧
    (Say.waitsFor s .waita i → ended → ∃ t, exec .waitaWake s = .next t ∧ Say.goesOn s t .waita) ∧
    (Say.waitsFor s .waita i → ¬ ended → exec .waitaWake s = .next s) ∧
    (Say.waitsFor s .waita i → late → ∃ t, exec .waitaTimeout s = .next t ∧ Say.goesOn s t .waita ∧ t.t.buf = s.t.buf) ∧
    (Say.waitsFor s .waita i → ¬ late → exec .waitaTimeout s = .next s)

/-- R428, R429: RDTIME reads MTIME; WAITT ends once MTIME has reached its target, by the sign of their difference. -/
def Say.timeWaits : Prop :=
  ∀ (s : State) (xd xa : XReg),
    exec (.rdtime xd) s = .next (s.setX xd s.clock.mtime) ∧
    (s.hazard [xa] = .none → s.granted .waitt = false →
      (0 ≤ (s.clock.mtime - s.x xa).toInt → exec (.waitt xa) s = .next s) ∧
      ((s.clock.mtime - s.x xa).toInt < 0 → exec (.waitt xa) s = .next (s.stall .waitt (.waitt xa))) ∧
      (Say.waitsFor s .waitt (.waitt xa) → 0 ≤ (s.clock.mtime - s.x xa).toInt →
        ∃ t, exec .waittComplete s = .next t ∧ Say.goesOn s t .waitt ∧ t.t.buf = s.t.buf) ∧
      (Say.waitsFor s .waitt (.waitt xa) → (s.clock.mtime - s.x xa).toInt < 0 → exec .waittComplete s = .next s))

/-- R402-R406, R442: a FENCE of the control slice completes when the RAMOs of its classes that its scope waits for have returned; a lane
FENCE changes no read of its own party; DIGRD and DIGSET read and write the digests. -/
def Say.fencesAndDigests : Prop :=
  ∀ (s : State) (h : SyHead) (cm : BitVec 16) (xd xa : XReg),
    let early (o : RamoOut) : Prop := cm.getLsbD o.cls.toNat = true ∧ o.resp = none ∧
      s.bun.scope ≠ 0 ∧ (s.bun.scope = 3 ∨ o.gateway = false)
    (h.lane = false → s.granted .fence = false → (∀ o ∈ s.t.fab.ramos, ¬ early o) → exec (.fence h cm) s = .next s) ∧
    (h.lane = false → s.granted .fence = false → (∃ o ∈ s.t.fab.ramos, early o) →
      exec (.fence h cm) s = .next (s.stall .fence (.fence h cm))) ∧
    (∀ on, h.lane = true → s.guard h.guard = .ok on → on 0 = true → Say.noConflict s → exec (.fence h cm) s = .next s) ∧
    (Say.waitsFor s .fence (.fence h cm) → (∀ o ∈ s.t.fab.ramos, ¬ (cm.getLsbD o.cls.toNat = true ∧ o.resp = none)) →
      ∃ t, exec .fenceComplete s = .next t ∧ Say.goesOn s t .fence) ∧
    exec (.digrd xd false) s = .next (s.setX xd s.t.sync.dig) ∧ exec (.digrd xd true) s = .next (s.setX xd s.t.sync.run) ∧
    (s.hazard [xa] = .none →
      exec (.digset xa true) s = .next (s.modSync fun y => { y with dig := s.x xa }) ∧
      exec (.digset xa false) s = .next (s.modSync fun y => { y with expd := s.x xa }))

/-! ### Phases (15_sync_time_phases.md R431-R440) -/

/-- R432, R433: an open phase: INPH set, ESC and RUN clear, the snapshot and the semaphores' shadows as they stood. -/
def Say.phaseOpened (s t : State) : Prop :=
  t.t.sync.inph = true ∧ t.t.sync.esc = false ∧ t.t.sync.run = 0 ∧ t.t.sync.shadow = s.t.sync.sem ∧ t.t.sync.sem = s.t.sync.sem ∧
  (∃ p, t.t.sync.snap = some p ∧ p.x = s.t.ctl.x ∧ p.ret = s.t.ctl.ret ∧ p.restart = s.t.ctl.cpc ∧ p.p = s.t.lane.p ∧ p.q = s.t.lane.q ∧
    p.st = s.t.lane.st ∧ p.seed = s.t.lane.seed ∧ p.rb = s.t.ctl.rb ∧ p.depth = s.t.ctl.depth) ∧
  (∀ r, Say.reg t r = Say.reg s r) ∧ t.t.buf = s.t.buf ∧ t.t.lane = s.t.lane ∧ t.t.ctl.after = none

/-- R432: PHBEGIN opens a phase once the lanes are idle: at once, or by PHBEGIN_SNAPSHOT; inside a phase it is fault 0x12, and while a
close by copy is outstanding it waits. -/
def Say.phaseBegin : Prop :=
  ∀ s : State,
    (0 < s.t.sync.pcp → exec .phbegin s = .next (s.stall .phclose .phbegin)) ∧
    (s.t.sync.pcp = 0 → s.t.sync.inph = true → exec .phbegin s = .next (s.raise 0x12)) ∧
    (s.t.sync.pcp = 0 → s.t.sync.inph = false →
      (s.bun.active = true → exec .phbegin s = .next { s with bun := { s.bun with late := some .phbegin } }) ∧
      (s.bun.active = false → s.lanesIdle = true → ∃ t, exec .phbegin s = .next t ∧ Say.phaseOpened s t) ∧
      (s.bun.active = false → s.lanesIdle = false →
        exec .phbegin s = .next (s.modCtl fun c => { c with after := some .phbegin }))) ∧
    (s.t.ctl.after = some .phbegin → s.lanesIdle = true → s.t.ctl.trap.hnd = false →
      ∃ t, exec .phbeginSnapshot s = .next t ∧ Say.phaseOpened s t) ∧
    (s.lanesIdle = false → exec .phbeginSnapshot s = .next s)

/-- R435, R149, R153: what a commit does to a tile: every pair toggles, every READY weight region swaps, DIG takes in RUN, PHN counts
and the phase is over. -/
def Say.committed (s t : State) : Prop :=
  t.t.buf.pairs.map (fun p => (p.off, p.size, p.f)) = s.t.buf.pairs.map (fun p => (p.off, p.size, !p.f)) ∧
  t.t.buf.wregs.map (fun r => (r.base, r.gc, r.ready)) = s.t.buf.wregs.map (fun r => (r.base, r.gc != r.ready, false)) ∧
  t.t.sync.dig = s.t.sync.dig + s.t.sync.run ∧ t.t.sync.phn = s.t.sync.phn + 1 ∧ t.t.sync.inph = false ∧ t.t.sync.snap = none ∧
  (∀ a, t.t.buf.byte a = s.t.buf.byte a) ∧ (∀ r, Say.reg t r = Say.reg s r) ∧ t.t.lane = s.t.lane

/-- R435: PHCOMMIT outside a phase is fault 0x12 and on a digest mismatch 0x13; it waits until the lanes, the array and the copies into
pairs have drained; then it commits. -/
def Say.phaseCommit : Prop :=
  ∀ s : State, s.t.sync.commit = .none → s.t.sync.pcp = 0 → s.t.sync.det = false →
    (s.t.sync.inph = false → exec .phcommit s = .next (s.raise 0x12)) ∧
    (s.t.sync.inph = true → s.commitReady = false → exec .phcommit s = .next (s.stall .phcommit .phcommit)) ∧
    (s.t.sync.inph = true → s.commitReady = true → s.t.sync.ver = true → s.t.sync.run ≠ s.t.sync.expd →
      exec .phcommit s = .next (s.raise 0x13)) ∧
    (s.t.sync.inph = true → s.commitReady = true → (s.t.sync.ver = false ∨ s.t.sync.run = s.t.sync.expd) →
      (∃ t, exec .phcommit s = .next t ∧ Say.committed s t) ∧
      (Say.waitsFor s .phcommit .phcommit → ∃ t, exec .phcommitCommit s = .next t ∧ Say.committed s t ∧ t.t.sync.commit = .acked ∧
        t.t.ctl.waits = [])) ∧
    (Say.waitsFor s .phcommit .phcommit → s.commitReady = false → exec .phcommitCommit s = .next s)

/-- R435 step 4, R302: a deterministic commit ends when its round is over and its deterministic RAMOs have returned; PHCOMMIT's bundle
then issues. -/
def Say.phaseBarrier : Prop :=
  ∀ s : State,
    (s.t.sync.commit = .round → (s.coll 63).state ≠ .aborted → s.roundOver = true → s.detInFlight (s.t.sync.phn - 1) = false →
      ∃ t, exec .phaseBarrierComplete s = .next t ∧ t.t.sync.commit = .applied ∧ t.t.buf = s.t.buf) ∧
    (s.t.sync.commit = .applied → (∀ o ∈ s.t.fab.ramos, o.det = true → o.resp ≠ none) → s.t.sync.closing = 0 →
      Say.waitsFor s .phround .phcommit →
      ∃ t, exec .phaseBarrierComplete s = .next t ∧ t.t.sync.commit = .acked ∧ t.t.ctl.waits = [] ∧
        Turn.control s.here ∈ t.agenda) ∧
    (s.t.sync.commit = .applied → (∃ o ∈ s.t.fab.ramos, o.det = true ∧ o.resp = none) → exec .phaseBarrierComplete s = .next s) ∧
    (s.t.sync.commit = .acked → exec .phcommit s = .next (s.modSync fun y => { y with commit := .none }))

/-- R437, R438: PHCANCEL outside a phase is fault 0x12; with nothing escaped it begins the cancellation, whose last step restores the
registers, the lanes' predicates and streams, the semaphores and the restart point of the snapshot, and counts in CNC. -/
def Say.phaseCancel : Prop :=
  ∀ s : State,
    (0 < s.t.sync.pcp → exec .phcancel s = .next (s.stall .phclose .phcancel)) ∧
    (s.t.sync.pcp = 0 → s.t.sync.inph = false → exec .phcancel s = .next (s.raise 0x12)) ∧
    (s.t.sync.pcp = 0 → s.t.sync.inph = true → s.bun.active = false → s.t.sync.esc = false →
      ∃ t, exec .phcancel s = .next t ∧ t.t.sync.canceling = true ∧ Turn.auto s.here .cancel ∈ t.agenda ∧ t.t.buf = s.t.buf) ∧
    (s.t.sync.canceling = false → exec .phaseCancel s = .next s) ∧
    (∀ p, s.t.sync.canceling = true → s.t.sync.refilling = true → (∀ r ∈ s.t.winch.running, r.cmd.refill = false) →
      s.t.sync.snap = some p →
      ∃ t, exec .phaseCancel s = .next t ∧ t.t.ctl.x = p.x ∧ t.t.ctl.ret = p.ret ∧ t.t.ctl.cpc = p.restart ∧ t.t.ctl.rb = p.rb ∧
        t.t.ctl.depth = p.depth ∧ t.t.lane.p = p.p ∧ t.t.lane.q = p.q ∧ t.t.lane.st = p.st ∧ t.t.lane.seed = p.seed ∧ t.t.lane.rn = p.rn ∧
        t.t.sync.sem = s.t.sync.shadow ∧ t.t.sync.run = 0 ∧ t.t.sync.esc = false ∧ t.t.sync.canceling = false ∧
        t.t.sync.cnc.toNat = Min.min (s.t.sync.cnc.toNat + 1) 65535 ∧ t.t.buf.mem = s.t.buf.mem)

/-- R373: IFENCE waits for the commands that write the I-store and then makes visible every bank into which none still writes. -/
def Say.instructionFence : Prop :=
  ∀ s : State, s.granted .ifence = false →
    (s.iStoreQuiet = true → ∃ t, exec .ifence s = .next t ∧
      t.t.ctl.fv0 = (s.t.ctl.fv0 || !s.bankWriting false) ∧ t.t.ctl.fv1 = (s.t.ctl.fv1 || !s.bankWriting true) ∧ t.t.buf = s.t.buf ∧
      (∀ r, Say.reg t r = Say.reg s r)) ∧
    (s.iStoreQuiet = false → exec .ifence s = .next (s.stall .ifence .ifence)) ∧
    (Say.waitsFor s .ifence .ifence → s.iStoreQuiet = true → ∃ t, exec .ifenceComplete s = .next t ∧ Say.goesOn s t .ifence ∧
      t.t.ctl.fv0 = (s.t.ctl.fv0 || !s.bankWriting false)) ∧
    (Say.waitsFor s .ifence .ifence → s.iStoreQuiet = false → exec .ifenceComplete s = .next s)

/-! ### The Halyard queue and the lane sequencer (13_control_slice.md R382-R392; 08_vector.md R211-R215) -/

/-- R382, R383: the tokens of the HY slot with what each captures at issue. -/
def Say.tokens (s : State) (p q st : BitVec 4) (xa xb : XReg) (v : Word) (fld : BitVec 3) (l b : BitVec 7) : List (Instr × List XReg × List Word) :=
  [(.mask p xa xb, [xa, xb], [s.x xa, s.x xb]), (.param q (.reg xa), [xa], [s.x xa]), (.param q (.imm v), [], [v]),
   (.scfg st fld xa, [xa], [s.x xa]), (.ldepth l, [], []), (.rbset b, [], []), (.rseed xa, [xa], [s.x xa])]

/-- R382, R383, R471: an HY slot queues its token with the values it captured, waits while 64 are queued, and is fault 0x16 inside a
handler; an operand out of range is fault 0x03. The lanes change only when they take the token. -/
def Say.tokensQueued : Prop :=
  ∀ (s : State) (p q st : BitVec 4) (xa xb : XReg) (v : Word) (fld : BitVec 3) (l b : BitVec 7),
    fld.toNat < 6 → 1 ≤ l.toNat → l.toNat ≤ 80 → b.toNat < 80 →
    ∀ k ∈ Say.tokens s p q st xa xb v fld l b,
      (s.t.ctl.trap.hnd = true → exec k.1 s = .next (s.raise 0x16)) ∧
      (s.t.ctl.trap.hnd = false → s.hazard k.2.1 = .none → s.t.ctl.hq.length < 64 → ∃ t, exec k.1 s = .next t ∧
        t.t.ctl = { s.t.ctl with hq := s.t.ctl.hq ++ [{ instr := k.1, vals := k.2.2, enq := s.cycle, bad := false }] } ∧
        t.t.lane = s.t.lane ∧ t.t.buf = s.t.buf ∧ t.t.sync = s.t.sync ∧ Say.elsewhere s t) ∧
      (s.t.ctl.trap.hnd = false → s.hazard k.2.1 = .none → 64 ≤ s.t.ctl.hq.length → exec k.1 s = .next (s.stall .halyard k.1))

/-- R383, R386, R373, R392: DISPATCH queues its block with its trips; a count of 2^24 or more is fault 0x03, a block in a bank that is not
visible 0x07, and a rate above the limiter's level waits. -/
def Say.dispatch : Prop :=
  ∀ (s : State) (blk : BitVec 15) (xn : XReg) (imt rot se : Bool) (den : BitVec 6) (sem : Byte),
    s.t.ctl.trap.hnd = false → (se = true ∨ sem = 0) → s.hazard [xn] = .none →
    let i : Instr := .dispatch blk xn imt rot den se sem
    let n : Word := if imt then BitVec.ofNat 64 (xn.toNat + 1) else s.x xn
    let visible : Bool := if 0x4000 ≤ blk.toNat then s.t.ctl.fv1 else s.t.ctl.fv0
    (2 ^ 24 ≤ n.toNat → exec i s = .next (s.raiseVal 0x03 n)) ∧
    (n.toNat < 2 ^ 24 → visible = false → exec i s = .next (s.raiseVal 0x07 (BitVec.ofNat 64 (2 * blk.toNat)))) ∧
    (n.toNat < 2 ^ 24 → visible = true → s.t.ctl.ramp.en = true → s.t.ctl.ramp.lvl < 1200 * den.toNat / 63 →
      exec i s = .next (s.stall .ramp i)) ∧
    (n.toNat < 2 ^ 24 → visible = true → (s.t.ctl.ramp.en = false ∨ 1200 * den.toNat / 63 ≤ s.t.ctl.ramp.lvl) →
      s.t.ctl.hq.length < 64 → ∃ t, exec i s = .next t ∧
        t.t.ctl = { s.t.ctl with hq := s.t.ctl.hq ++ [{ instr := i, vals := [n], enq := s.cycle, bad := false }] } ∧ t.t.lane = s.t.lane ∧
        t.t.buf = s.t.buf)

/-- R386-R388: what the lanes do with the head token once it is due and no block runs. -/
def Say.tokensTaken : Prop :=
  ∀ (s : State) (i : Instr) (vals : List Word) (enq : Nat) (rest : List Token) (a c : Word) (blk : BitVec 15) (xn xa xb : XReg)
    (imt rot se : Bool) (den : BitVec 6) (sem : Byte) (p q st : BitVec 4) (src : ParamSrc) (fld : BitVec 3) (l b : BitVec 7),
    s.t.ctl.hq = { instr := i, vals := vals, enq := enq, bad := false } :: rest → s.t.ctl.blk = none → s.t.lane.stop = false →
    s.t.ctl.frozen = false → enq + 2 ≤ s.cycle → s.t.ctl.laneFree ≤ s.cycle →
    (i = .dispatch blk xn imt rot den se sem → vals = [a] → a ≠ 0 → ∃ t, exec .tokenTake s = .next t ∧ t.t.ctl.hq = rest ∧
      t.t.ctl.blk = some { blk := blk, rot := rot, se := se, sem := sem, lpc := blk ++ 0#1, off := false, trip := a.toNat, since := s.cycle } ∧
      t.agenda = .lane s.here :: s.agenda ∧ t.t.lane = s.t.lane) ∧
    (i = .mask p xa xb → vals = [a, c] → ∃ t, exec .tokenTake s = .next t ∧ t.t.ctl.hq = rest ∧ t.pred p = .ok (c ++ a) ∧
      t.t.lane.v = s.t.lane.v) ∧
    (i = .param q src → vals = [a] → ∃ t, exec .tokenTake s = .next t ∧ t.t.ctl.hq = rest ∧ SMap.get 0 t.t.lane.q q.toNat = a ∧
      (∀ k, k ≠ q.toNat → SMap.get 0 t.t.lane.q k = SMap.get 0 s.t.lane.q k) ∧ t.t.lane.v = s.t.lane.v) ∧
    (i = .scfg st fld xa → vals = [a] → ∃ t, exec .tokenTake s = .next t ∧ t.t.ctl.hq = rest ∧ t.sf st.toNat fld.toNat = bits 0 32 a ∧
      (∀ k f : Nat, f < 8 → (k ≠ st.toNat ∨ f ≠ fld.toNat) → t.sf k f = s.sf k f)) ∧
    (i = .ldepth l → vals = [] → ∃ t, exec .tokenTake s = .next t ∧ t.t.ctl.hq = rest ∧ t.t.ctl.depth = l.toNat ∧ t.t.ctl.rb = s.t.ctl.rb) ∧
    (i = .rbset b → vals = [] → ∃ t, exec .tokenTake s = .next t ∧ t.t.ctl.hq = rest ∧ t.t.ctl.rb = b.toNat ∧ t.t.ctl.depth = s.t.ctl.depth) ∧
    (i = .rseed xa → vals = [a] → ∃ t, exec .tokenTake s = .next t ∧ t.t.ctl.hq = rest ∧ t.t.lane.seed = a ∧ t.t.lane.rn = 0)

/-- R211-R215: a lane write lands in the cycle it is due, into the bits it writes of a live register, and not before; the signal
of a block's end is applied in its cycle. -/
def Say.laneLandings : Prop :=
  ∀ (s : State) (f due : Nat) (m d : BitVec 1024) (k c : BitVec 4) (sem : Byte),
    (s.t.lane.pending = [{ due := due, issued := due, target := .vec f m d k c }] → s.t.lane.sigs = [] →
      (s.cycle < due → ∃ t, exec .laneWriteLand s = .next t ∧ t.t.lane.pending = s.t.lane.pending ∧ t.t.lane.v = s.t.lane.v) ∧
      (due ≤ s.cycle → livePhys s.t.ctl.rb s.t.ctl.depth f = true → ∃ t, exec .laneWriteLand s = .next t ∧ t.t.lane.pending = [] ∧
        (∀ j, (SMap.get 0 t.t.lane.v f).getLsbD j = if m.getLsbD j then d.getLsbD j else (SMap.get 0 s.t.lane.v f).getLsbD j) ∧
        (∀ g, g ≠ f → SMap.get 0 t.t.lane.v g = SMap.get 0 s.t.lane.v g) ∧ t.t.lane.p = s.t.lane.p ∧ t.t.buf = s.t.buf ∧
        t.t.ctl = s.t.ctl)) ∧
    (s.t.lane.sigs = [{ sem := sem, due := due }] →
      (s.cycle < due → ∃ t, exec .blockEndSignal s = .next t ∧ (∀ n, t.sem n = s.sem n) ∧ t.t.lane.sigs = s.t.lane.sigs) ∧
      (due ≤ s.cycle → ∃ t, exec .blockEndSignal s = .next t ∧ t.t.lane.sigs = [] ∧
        t.sem sem = BitVec.ofNat 16 (Min.min ((s.sem sem).toNat + 1) 65535) ∧ (∀ n, n ≠ sem → t.sem n = s.sem n)))

/-- R390-R392: at the end of a window of 1200 cycles the limiter's level and floor follow the beats it counted. -/
def Say.rampWindow : Prop :=
  ∀ s : State, let r := s.t.ctl.ramp
    (s.cycle < r.wstart + 1200 → exec .rampWindowEnd s = .next s) ∧
    (r.wstart + 1200 ≤ s.cycle → ∃ t, exec .rampWindowEnd s = .next t ∧ t.t.ctl.ramp.beats = 0 ∧ t.t.ctl.ramp.mlast = r.beats ∧
      t.t.ctl.ramp.lvl = Min.min 1200 ((if r.held then Max.max r.lvl r.beats else r.beats) + r.up) ∧
      (t.t.ctl.ramp.floor : Int) = Max.max 0 ((r.beats : Int) - Min.min r.dn 1200) ∧ t.t.ctl.ramp.wstart = r.wstart + 1200 ∧
      t.t.ctl.ramp.held = false ∧ t.t.ctl.ramp.whw = (if r.held then Min.min (r.whw + 1) 65535 else r.whw))


/-! ### The Winch: the WN slot (04_winch.md R92-R102, R120, R122, R125) -/

/-- R102: the registers and the captured values of a command's completion options: word location, word value, record location. -/
def Say.options (s : State) (o : WOpts) : List XReg × List Word :=
  match o.cw, o.cr with
  | none, none => ([], [0, 0, 0])
  | none, some r => ([r], [0, 0, s.x r])
  | some (a, b), none => ([a, b], [s.x a, s.x b, 0])
  | some (a, b), some r => ([a, b, r], [s.x a, s.x b, s.x r])

/-- R93, R99: the six fields of a shape register that a command captures. -/
def Say.shape (s : State) : Option (BitVec 3) → List Word
  | none => []
  | some sh => [s.shape sh 0, s.shape sh 1, s.shape sh 2, s.shape sh 3, s.shape sh 4, s.shape sh 5]

/-- R94, R115-R125: the commands of the WN slot, with their completion options, the registers whose values they capture and the shapes
they name. -/
def Say.commands (h : WHead) (ssh dsh : BitVec 3) (dm : BitVec 4) (fw pc sz alg : Bool) (hw : BitVec 3) (aop : AOp) (xa xb xc xd : XReg)
    (si : BitVec 6) (fq kind : BitVec 2) (o : WOpts) (ba : WBar) (tag : BitVec 16) :
    List (Instr × WOpts × List XReg × Option (BitVec 3) × Option (BitVec 3)) :=
  [(.wcopy h ssh dsh o ba pc tag, o, [], some ssh, some dsh), (.whalo h ssh dm fw hw o tag, o, [], some ssh, some ssh),
   (.wamo h aop sz xa xb xc o tag, o, [xa, xb, xc], none, none), (.wamor h aop sz xa xb xc xd o tag, o, [xa, xb, xc, xd], none, none),
   (.wcrc h ssh alg xa o tag, o, [xa], some ssh, none), (.wfillw h ssh dsh xa si o tag, o, [xa], some ssh, some dsh),
   (.wsig h o ba tag, o, [], none, none), (.wflush h fq, { cw := none, cr := none }, [], none, none),
   (.wtlbp h xa kind o tag, o, [xa], none, none), (.wscrubInterval h xa si o tag, o, [xa], none, none),
   (.wscrubNow h xa si o tag, o, [xa], none, none), (.wscrubDrop h xa si o tag, o, [xa], none, none)]

/-- R92: the commands outstanding in a queue. -/
def Say.outstanding (w : Winch) (q : BitVec 2) : Nat :=
  (w.queued.filter fun c => c.q == q).length + (w.running.filter fun r => r.cmd.q == q && !r.cmd.refill).length

/-- R92, R93: a WN command enters its queue with everything it captured at issue, and its bundle waits while sixteen are outstanding
there; registers, buffers and lanes stay. -/
def Say.commandsIssued : Prop :=
  ∀ (s : State) (h : WHead) (ssh dsh : BitVec 3) (dm : BitVec 4) (fw pc sz alg : Bool) (hw : BitVec 3) (aop : AOp) (xa xb xc xd : XReg)
    (si : BitVec 6) (fq kind : BitVec 2) (o : WOpts) (ba : WBar) (tag : BitVec 16),
    dm ≠ 0 → ((s.x xa).toNat % 2 ^ 32 = 0 ∨ 4096 ≤ (s.x xa).toNat % 2 ^ 32) → s.hazard [xa] = .none →
    ∀ k ∈ Say.commands h ssh dsh dm fw pc sz alg hw aop xa xb xc xd si fq kind o ba tag,
      s.hazard ((Say.options s k.2.1).1 ++ k.2.2.1) = .none →
      (Say.outstanding s.t.winch h.q < 16 → ∃ t c, exec k.1 s = .next t ∧ t.t.winch.queued = s.t.winch.queued ++ [c] ∧ c.op = k.1 ∧
        c.q = h.q ∧ c.vals = (Say.options s k.2.1).2 ++ k.2.2.1.map s.x ∧ c.src = Say.shape s k.2.2.2.1 ∧
        c.dst = Say.shape s k.2.2.2.2 ∧ c.inPhase = s.t.sync.inph ∧ c.packet = none ∧ t.t.winch.running = s.t.winch.running ∧
        t.t.ctl = s.t.ctl ∧ t.t.buf = s.t.buf ∧ t.t.lane = s.t.lane ∧ t.t.sync.sem = s.t.sync.sem ∧ Say.elsewhere s t ∧
        ((∃ b, k.1 = Instr.wcopy h ssh dsh o b true tag) → t.t.sync.pcp = s.t.sync.pcp + 1)) ∧
      (16 ≤ Say.outstanding s.t.winch h.q → exec k.1 s = .next (s.stall .winch k.1))

/-- R115, R120: WHALO with no direction is fault 0x02, and a scrub interval of 1 to 4095 fault 0x03. -/
def Say.commandsRefused : Prop :=
  ∀ (s : State) (h : WHead) (sh hw : BitVec 3) (fw : Bool) (xa : XReg) (si : BitVec 6) (o : WOpts) (tag : BitVec 16),
    exec (.whalo h sh 0 fw hw o tag) s = .next (s.raise 0x02) ∧
    (s.hazard [xa] = .none → 1 ≤ (s.x xa).toNat % 2 ^ 32 → (s.x xa).toNat % 2 ^ 32 ≤ 4095 →
      exec (.wscrubInterval h xa si o tag) s = .next (s.raise 0x03))

/-- R101, R125, R122: WSHP notes its field, WSHRD and WSTAT read; a queue or ring configuration within its limits takes effect with its
position at zero, any other is fault 0x03. -/
def Say.winchImmediate : Prop :=
  ∀ (s : State) (sh fld : BitVec 3) (n : BitVec 2) (xa xb xd : XReg),
    (s.hazard [xa] = .none → exec (.wshp sh fld xa) s = .next (s.modCtl fun c =>
      { c with wshp := c.wshp ++ [{ sh := sh, fld := fld, val := s.x xa, left := 3 }] })) ∧
    exec (.wshrd xd sh fld) s = .next (s.setX xd (SMap.get 0 s.t.winch.sh (8 * sh.toNat + fld.toNat))) ∧
    (∃ v : Word, exec (.wstat xd) s = .next (s.setX xd v) ∧
      ((∀ q, Say.outstanding s.t.winch q < 32) → ∀ q : Nat, q < 4 → (bits (5 * q) 5 v).toNat = Say.outstanding s.t.winch (BitVec.ofNat 2 q)) ∧
      ((∀ q, Say.outstanding s.t.winch q < 32) → bit 28 v = s.t.winch.checking.isSome)) ∧
    (s.hazard [xa, xb] = .none →
      let a := s.x xa
      let b := s.x xb
      (rqOk a b = false → exec (.wrqcfgRq n xa xb) s = .next (s.raise 0x03)) ∧
      (rqOk a b = true → ∃ t q, exec (.wrqcfgRq n xa xb) s = .next t ∧ t.t.winch.rqOf n.toNat = q ∧ q.en = bit 63 a ∧
        q.wq = bits 61 2 a ∧ q.lg = (bits 57 4 a).toNat ∧ q.side = bit 56 a ∧ q.base = (bits 0 20 a).toNat ∧
        q.wix = (bits 20 20 b).toNat ∧ q.rix = (bits 0 20 b).toNat ∧ q.rd = 0 ∧ t.t.buf = s.t.buf ∧ t.t.winch.queued = s.t.winch.queued) ∧
      (s.crOk a b = false → exec (.wrqcfgCr n xa xb) s = .next (s.raise 0x03)) ∧
      (s.crOk a b = true → ∃ t q, exec (.wrqcfgCr n xa xb) s = .next t ∧ t.t.winch.crOf n.toNat = q ∧ q.loc = a ∧
        q.lg = (bits 0 4 b).toNat ∧ q.wp = 0 ∧ t.t.buf = s.t.buf ∧ t.t.winch.queued = s.t.winch.queued))

/-- R101: a WSHP write shows with the third bundle after its own. -/
def Say.shapeWritesShow : Prop :=
  ∀ (s : State) (sh fld : BitVec 3) (v : Word) (n : Nat), s.bun.late = none →
    s.t.ctl.wshp = [{ sh := sh, fld := fld, val := v, left := n + 1 }] →
    (n = 0 → (closeControl s).shape sh fld.toNat = v ∧ (closeControl s).t.ctl.wshp = []) ∧
    (0 < n → (∀ r f, (closeControl s).shape r f = s.shape r f) ∧
      (closeControl s).t.ctl.wshp = [{ sh := sh, fld := fld, val := v, left := n }])

/-! ### The Winch: events (04_winch.md R95-R97, R111-R126) -/

/-- R95, R508: the head of a queue starts when its semaphore has reached WTH, which it takes; a command whose fields are refused starts and
ends in its fault. With no head that may start nothing happens. -/
def Say.commandStart : Prop :=
  ∀ (s : State) (q : BitVec 2) (c : WCmd),
    (s.startable q = none → exec (.winchCommandStart q) s = .next s) ∧
    (s.startable q = some c →
      ∃ t r, exec (.winchCommandStart q) s = .next t ∧ r ∈ t.t.winch.running ∧ r.cmd = c ∧ (∀ x ∈ t.t.winch.queued, x.id ≠ c.id) ∧
        t.sem c.info.wsem = BitVec.ofNat 16 ((s.sem c.info.wsem).toNat - c.info.wth.toNat) ∧
        (∀ n, n ≠ c.info.wsem → t.sem n = s.sem n) ∧ (∀ x, Say.reg t x = Say.reg s x))

/-- R95: a head waits for its semaphore, and with ORD for the commands of its queue that started before it. -/
def Say.commandHeadWaits : Prop :=
  ∀ (s : State) (q : BitVec 2) (c : WCmd), s.t.winch.queued.find? (fun c => c.q == q) = some c →
    (((s.sem c.info.wsem).toNat < c.info.wth.toNat ∨
      (c.info.ord = true ∧ ∃ r ∈ s.t.winch.running, r.cmd.q = q ∧ r.cmd.refill = false ∧ r.cmd.id < c.id) ∨ s.t.ctl.frozen = true) →
      exec (.winchCommandStart q) s = .next s)

/-- R96, R112: a command that has moved everything completes: it leaves the running commands, its semaphore takes SINC, clamped, and its
record stands in the C buffer where it asked for one there. -/
def Say.commandComplete : Prop :=
  ∀ (s : State) (id : Nat) (r : WRun),
    s.t.winch.running.find? (fun r => r.cmd.id == id) = some r → r.phase = .ready → r.fault = none → r.canceled = false → r.wrote = [] →
    r.cmd.info.ba = none → r.cmd.info.pc = false → r.cmd.packet = none → (∀ n, r.cmd.op ≠ .requestPacketSig n) →
    ∃ t, exec (.winchCommandComplete id) s = .next t ∧ (∀ x ∈ t.t.winch.running, x.cmd.id ≠ id) ∧
      (r.cmd.info.sinc ≠ 0 → t.sem r.cmd.info.ssem = BitVec.ofNat 16 (Min.min ((s.sem r.cmd.info.ssem).toNat + r.cmd.info.sinc) 65535)) ∧
      (∀ n, (n ≠ r.cmd.info.ssem ∨ r.cmd.info.sinc = 0) → t.sem n = s.sem n) ∧ (∀ x, Say.reg t x = Say.reg s x) ∧
      (r.cmd.info.o.cr = none → ∀ a, t.t.buf.byte a = s.t.buf.byte a) ∧
      (∀ o : Nat, r.cmd.info.o.cr ≠ none → o % 16 = 0 → o + 16 ≤ 0x60000 → r.cmd.crLoc = BitVec.ofNat 64 (2 ^ 61 + o) →
        (∀ k, k < 16 → t.t.buf.byte (0x300000 + o + k) = r.record.getD k 0) ∧
        (∀ a, a < 0x300000 + o ∨ 0x300000 + o + 16 ≤ a → t.t.buf.byte a = s.t.buf.byte a))

/-- R112: a completion record: TAG, CODE, STATUS and AUX in its second word. -/
def Say.completionRecord : Prop :=
  ∀ r : WRun, r.record.length = 16 ∧
    leAt 8 8 r.record = 2 ^ 48 * r.cmd.info.tag.toNat +
      (match r.fault with
       | some f => 2 ^ 40 * f.code.toNat + 2 ^ 32 * (if f.code = 0x4C then 4 else 2) + f.aux.toNat
       | none => 2 ^ 32 * (if r.canceled then 3 else if r.poison then 1 else 0))

/-- R122-R124: a request packet at the read position of an enabled queue enters its Winch queue as the command its OPC names, with the packet's
words; PUT and AMO escape. -/
def Say.requestPackets : Prop :=
  ∀ (s s' : State) (n : BitVec 2) (q : ReqQueue) (ws : List Word), s.packetAt n = some (q, ws, s') →
    let opc := (bits 0 8 (ws.getD 0 0)).toNat
    (∀ k ∈ ([(.requestPacketPut n, 2), (.requestPacketAmo n, 3), (.requestPacketSig n, 4)] : List (Instr × Nat)),
      (opc = k.2 → ∃ t c, exec k.1 s = .next t ∧ t.t.winch.queued = s'.t.winch.queued ++ [c] ∧ c.op = k.1 ∧ c.q = q.wq ∧
        c.vals = [0, 0, 0] ++ ws ∧ c.packet = some n ∧ (k.2 ≠ 4 → t.t.sync.esc = (s'.t.sync.esc || s'.t.sync.inph))) ∧
      (opc ≠ k.2 → exec k.1 s = .next s)) ∧
    ((opc = 1 ∨ opc = 0 ∨ 4 < opc) → ∃ t c, exec (.requestPacketGet n) s = .next t ∧ t.t.winch.queued = s'.t.winch.queued ++ [c] ∧
      c.op = .requestPacketGet n ∧ c.q = q.wq ∧ c.vals = [0, 0, 0] ++ ws ∧ c.packet = some n) ∧
    ((opc = 2 ∨ opc = 3 ∨ opc = 4) → exec (.requestPacketGet n) s = .next s)

/-- R120: the scrubber rests until its interval is over; then it begins to check the next valid shard. A shard whose digest stands is left
as it is; any other becomes BAD. -/
def Say.scrubInterval : Prop :=
  ∀ s : State,
    (s.t.winch.checking = none → (s.t.winch.scrubInt = 0 ∨ s.cycle < s.t.winch.scrubDue) → exec .scrubIntervalExpire s = .next s) ∧
    (s.t.winch.checking = none → s.t.winch.scrubInt ≠ 0 → s.t.winch.scrubDue ≤ s.cycle → s.t.winch.shards = [] →
      exec .scrubIntervalExpire s = .next (s.modWinch fun w => { w with scrubDue := s.cycle + w.scrubInt.toNat })) ∧
    (∀ e : Shard, s.t.winch.checking = none → s.t.winch.scrubInt ≠ 0 → s.t.winch.scrubDue ≤ s.cycle →
      s.t.winch.shards = [(s.t.winch.scrubIdx, e)] → s.t.winch.scrubIdx < 64 → e.state = .valid →
      ∃ t, exec .scrubIntervalExpire s = .next t ∧ t.t.winch.shards = s.t.winch.shards ∧ t.t.winch.checking = some s.t.winch.scrubIdx ∧
        t.t.winch.scrubIdx = (s.t.winch.scrubIdx + 1) % 64 ∧ t.t.winch.scrubDue = s.cycle + s.t.winch.scrubInt.toNat) ∧
    (∀ (i : Nat) (e : Shard), s.t.winch.checking = some i → SMap.find? s.t.winch.shards i = some e → e.state = .valid →
      ((s.shardDigest e).1 = e.code → ∃ t, exec .scrubIntervalExpire s = .next t ∧ t.t.winch.shards = s.t.winch.shards ∧
        t.t.winch.checking = none) ∧
      ((s.shardDigest e).1 ≠ e.code → ∃ t, exec .scrubIntervalExpire s = .next t ∧ t.t.winch.checking = none ∧
        SMap.find? t.t.winch.shards i = some { e with state := .bad } ∧ ∀ j, j ≠ i → SMap.find? t.t.winch.shards j = SMap.find? s.t.winch.shards j))

/-- The tile's switch answers a remote Winch's request (R97). -/
def Say.answers (s t : State) (r : RemoteReq) (b : WRespBody) : Prop :=
  Say.sends s t r.src (Body.winchResp (WResp.mk r.cmd r.elem b))

/-- R130, R116: a remote Winch's access to the C buffer is performed by the tile's switch and answered: a read with the bytes, a write
after it, an atomic with the old bytes; an access outside the buffer is refused with code 0x48 and changes nothing. -/
def Say.remoteWinchAccess : Prop :=
  ∀ (s : State) (r : RemoteReq), r.src < 5544 → r.buf = 2 → r.side = false →
    let a := 0x300000 + r.off.toNat
    (∀ n, r.op = .read n → r.off.toNat + n ≤ 0x60000 →
      let u := (s.readAt (run a n)).2
      ∃ t bs, exec (.remoteWinchRequest r) s = .next t ∧
        Say.answers s t r (WRespBody.data bs ((s.readAt (run a n)).1.map fun x => x.2)) ∧
        bs.length = n ∧ (∀ k, k < n → bs.getD k 0 = u.t.buf.byte (a + k)) ∧ t.t.buf = u.t.buf) ∧
    (∀ data poison, r.op = .write data poison → poison.length = data.length → r.off.toNat + data.length ≤ 0x60000 →
      ∃ t, exec (.remoteWinchRequest r) s = .next t ∧ Say.answers s t r WRespBody.written ∧
        (∀ k, k < data.length → t.t.buf.byte (a + k) = data.getD k 0) ∧
        (∀ x, x < a ∨ a + data.length ≤ x → t.t.buf.byte x = s.t.buf.byte x) ∧ (∀ q, Say.reg t q = Say.reg s q)) ∧
    (∀ op x cmp, r.op = .atomic op true x cmp → r.off.toNat % 8 = 0 → r.off.toNat + 8 ≤ 0x60000 →
      let u := (s.readAt (run a 8)).2
      let old : Word := BitVec.ofNat 64 (Say.little u.t.buf.byte a 8)
      ∃ t, exec (.remoteWinchRequest r) s = .next t ∧
        Say.answers s t r (WRespBody.data (toBytes 8 old.toNat) (List.replicate 8 (anyPoison (s.readAt (run a 8)).1))) ∧
        (∀ k, k < 8 → t.t.buf.byte (a + k) = bits (8 * k) 8 (Say.atomic op old x cmp)) ∧
        (∀ y, y < a ∨ a + 8 ≤ y → t.t.buf.byte y = u.t.buf.byte y)) ∧
    (∀ n, r.op = .read n → 0x60000 < r.off.toNat + n → ∃ t, exec (.remoteWinchRequest r) s = .next t ∧
      Say.answers s t r (WRespBody.refused 0x48) ∧ t.t.buf = s.t.buf)

/-- R126, R130, R152, R154: every request of a remote Winch completes at its target, whichever buffer it names: a read with as many bytes
as it asks for, an atomic with the old word, a write with its bytes put; what lies outside the buffer, or in the I-store, is refused; a
write into a generation that an open plane load has latched comes again; the end of a peer's command only settles its region. -/
def Say.remoteWinchCompletes : Prop :=
  ∀ (s : State) (r : RemoteReq), ∃ t, exec (.remoteWinchRequest r) s = .next t ∧
    (∀ ok, r.op = .over ok → t.net = s.net ∧ t.t.buf.mem = s.t.buf.mem ∧ t.t.ctl = s.t.ctl) ∧
    (r.src < 5544 →
      (∀ n, r.op = .read n → s.refuses r n = false → ∃ bs ps, Say.answers s t r (WRespBody.data bs ps) ∧ bs.length = n ∧ ps.length = n) ∧
      (∀ n, r.op = .read n → s.refuses r n = true → Say.answers s t r (WRespBody.refused 0x48) ∧ t.t.buf = s.t.buf) ∧
      (∀ op sz x cmp, r.op = .atomic op sz x cmp →
        let n := if sz then 8 else 4
        (s.refuses r n = false → bufOf r.buf ≠ .w → r.off.toNat % n = 0 →
          ∃ bs ps, Say.answers s t r (WRespBody.data bs ps) ∧ bs.length = n ∧ ps.length = n) ∧
        ((s.refuses r n = true ∨ bufOf r.buf = .w ∨ r.off.toNat % n ≠ 0) → Say.answers s t r (WRespBody.refused 0x48) ∧ t.t.buf = s.t.buf)) ∧
      (∀ data ps, r.op = .write data ps →
        (s.refuses r data.length = true → Say.answers s t r (WRespBody.refused 0x48) ∧ t.t.buf = s.t.buf) ∧
        (s.refuses r data.length = false → bufOf r.buf ≠ .w → Say.answers s t r WRespBody.written) ∧
        (s.refuses r data.length = false → bufOf r.buf = .w →
          (s.t.latchedIdle (regionIndex s.t.buf.wregs r.off.toNat) = true → Say.sends s t s.here (Body.winch r) ∧ t.t.buf = s.t.buf) ∧
          (s.t.latchedIdle (regionIndex s.t.buf.wregs r.off.toNat) = false → Say.answers s t r WRespBody.written))))

/-- R97, R126: the answer of a remote tile lets its command go on; a refusal ends it with its code; an answer to nothing is
dropped. -/
def Say.winchAnswers : Prop :=
  ∀ (s : State) (x : WResp) (r : WRun) (p : WPart) (d : List (Byte × Bool)),
    (s.t.winch.running.find? (fun r => r.cmd.id == x.cmd) = none → exec (.winchResponse x) s = .next s) ∧
    (s.t.winch.running.find? (fun r => r.cmd.id == x.cmd) = some r → s.accessOf r = some (p, d) → r.hold = .resp → x.elem = 8 * r.idx + r.sub →
      (x.body = .written → (r.phase = .moving ∨ r.phase = .word) → ∃ t q, exec (.winchResponse x) s = .next t ∧ q ∈ t.t.winch.running ∧
        q.cmd = r.cmd ∧ q.hold = .free ∧ t.t.buf = s.t.buf) ∧
      (∀ bs ps, x.body = .data bs ps → r.phase = .moving → ∃ t q, exec (.winchResponse x) s = .next t ∧ q ∈ t.t.winch.running ∧
        q.cmd = r.cmd ∧ q.hold = .free ∧ t.t.buf = s.t.buf) ∧
      (∀ c, x.body = .refused c → r.phase = .moving → ∃ t q f, exec (.winchResponse x) s = .next t ∧ q ∈ t.t.winch.running ∧
        q.cmd = r.cmd ∧ q.fault = some f ∧ f.code = c ∧ t.t.buf = s.t.buf)) ∧
    (∀ r, s.t.winch.running.find? (fun r => r.cmd.id == x.cmd) = some r → (r.hold ≠ .resp ∨ x.elem ≠ 8 * r.idx + r.sub) →
      exec (.winchResponse x) s = .next s) ∧
    (∃ t, exec (.winchResponse x) s = .next t ∧ t.t.ctl = s.t.ctl ∧ t.t.lane = s.t.lane ∧ t.t.mx = s.t.mx ∧ t.t.sync = s.t.sync ∧
      t.t.buf = s.t.buf ∧ Say.elsewhere s t)

/-- R70, R91, R97, R477: a far access that has its translation is performed at its memory port: a read changes no byte, a completion word puts
its eight bytes there and changes no other; where its stack has no port left it is fault 0x58. -/
def Say.farMemoryAccess : Prop :=
  ∀ (s : State) (id : Nat) (r : WRun) (p : WPart) (d : List (Byte × Bool)) (pa vbase size : Nat),
    s.t.winch.running.find? (fun r => r.cmd.id == id) = some r → r.hold = .far pa vbase size → s.accessOf r = some (p, d) →
    (s.servingPort pa = none → r.phase = .moving → ∃ t q f, exec (.farMemoryRequest id) s = .next t ∧ q ∈ t.t.winch.running ∧
      q.cmd = r.cmd ∧ q.fault = some f ∧ f.code = 0x58 ∧ t.far.mem = s.far.mem ∧ t.t.buf = s.t.buf) ∧
    (s.servingPort pa ≠ none →
    (p.act = .read → r.phase = .moving → ∃ t q, exec (.farMemoryRequest id) s = .next t ∧ q ∈ t.t.winch.running ∧ q.cmd = r.cmd ∧
      q.hold = .free ∧ t.far.mem = s.far.mem ∧ t.t.buf = s.t.buf) ∧
    (r.phase = .word → ∃ t q, exec (.farMemoryRequest id) s = .next t ∧ q ∈ t.t.winch.running ∧ q.cmd = r.cmd ∧ q.hold = .free ∧
      q.phase ≠ .word ∧ (∀ k, k < 8 → SMap.get 0 t.far.mem (pa + k) = bits (8 * k) 8 r.cmd.cwVal) ∧
      (∀ a, a < pa ∨ pa + 8 ≤ a → SMap.get 0 t.far.mem a = SMap.get 0 s.far.mem a) ∧ t.t.buf = s.t.buf))

/-! ### Translation (03_far_memory.md R71-R90) -/

/-- R73-R75: a walk that ends in a leaf has found a page that covers the address, of a legal size, aligned and inside far memory; a walk
changes no byte of it. -/
def Obligations.PageWalks : Prop :=
  ∀ (s : State) (asid : BitVec 16) (va : Nat) (l : Leaf),
    (s.walk asid va).2.far.mem = s.far.mem ∧
    ((s.walk asid va).1 = .leaf l → l.vbase ≤ va ∧ va < l.vbase + l.size ∧ (l.size = 2 ^ 16 ∨ l.size = 2 ^ 21 ∨ l.size = 2 ^ 29) ∧
      l.vbase % l.size = 0 ∧ l.base % l.size = 0 ∧ l.base + l.size ≤ 0x18000000000) ∧
    (bit 63 (SMap.get 0 s.far.asids asid.toNat) = false → (s.walk asid va).1 = .fault 0x57 0 0)

/-- A fill goes to the far-TLB that missed, from the attachment tile of side k that takes that tile's misses (R80, R83). -/
def Say.fills (s t : State) (k : Nat) (m : XMiss) (r : WalkResult) : Prop :=
  ∃ p : Packet, t.net = s.net ++ [p] ∧ p.dest = m.tile ∧ p.at_ = State.sideTile { s with here := m.tile } k ∧
    p.body = Body.xfill (XFill.mk m r)

/-- R79, R80, R82: a miss at a slice is answered from it, joins the walk of its 2 MiB, or begins one; with no side left it is answered
with fault 0x56. -/
def Say.translationMisses : Prop :=
  ∀ (s : State) (m : XMiss) (k : Nat),
    (s.servingSide (m.va.toNat / 2 ^ 39 % 4) = none →
      ∃ t, exec (.xlatMissArrive m) s = .next t ∧ Say.fills s t (m.va.toNat / 2 ^ 39 % 4) m (WalkResult.fault 0x56 0 0)) ∧
    (s.servingSide (m.va.toNat / 2 ^ 39 % 4) = some k →
      (∀ e, (s.side k).slice.find? (fun e => e.1 == m.asid && leafCovers e.2 m.va.toNat) = some e →
        ∃ t, exec (.xlatMissArrive m) s = .next t ∧ Say.fills s t k m (WalkResult.leaf e.2)) ∧
      ((s.side k).slice.find? (fun e => e.1 == m.asid && leafCovers e.2 m.va.toNat) = none → (s.side k).waiting < 8192 →
        (∀ w ∈ (s.side k).walks, w.asid ≠ m.asid ∨ w.region ≠ m.va.toNat / 2 ^ 21) →
        ∃ t w, exec (.xlatMissArrive m) s = .next t ∧ (t.side k).walks = (s.side k).walks ++ [w] ∧ w.asid = m.asid ∧
          w.region = m.va.toNat / 2 ^ 21 ∧ w.waiting = [m] ∧ w.stale = false ∧ t.net = s.net) ∧
      ((s.side k).slice.find? (fun e => e.1 == m.asid && leafCovers e.2 m.va.toNat) = none → (s.side k).waiting < 8192 →
        (∃ w ∈ (s.side k).walks, w.asid = m.asid ∧ w.region = m.va.toNat / 2 ^ 21) →
        ∃ t, exec (.xlatMissArrive m) s = .next t ∧ (t.side k).walks = (s.side k).walks.map (fun w =>
          if w.asid = m.asid ∧ w.region = m.va.toNat / 2 ^ 21 then { w with waiting := w.waiting ++ [m] } else w) ∧ t.net = s.net) ∧
      ((s.side k).slice.find? (fun e => e.1 == m.asid && leafCovers e.2 m.va.toNat) = none → 8192 ≤ (s.side k).waiting →
        ∃ t, exec (.xlatMissArrive m) s = .next t ∧ t.side k = s.side k ∧ t.net = s.net ∧
          ∀ r, (s.tile m.tile).winch.running = [r] → r.cmd.id = m.cmd → r.hold = .miss →
            (t.tile m.tile).winch.running = [{ r with hold := .retry (s.cycle + 256) }])) ∧
    (∃ t, exec (.xlatMissArrive m) s = .next t ∧ t.far.mem = s.far.mem ∧ t.t.ctl = s.t.ctl ∧ t.t.buf = s.t.buf) ∧
    (∃ t, exec (.xlatMissRetry m) s = .next t ∧ t.far = s.far ∧ t.t.ctl = s.t.ctl ∧ t.t.buf = s.t.buf) ∧
    (s.t.winch.running.find? (fun r => r.cmd.id == m.cmd) = none → exec (.xlatMissRetry m) s = .next s) ∧
    (∀ r c, s.t.winch.running.find? (fun r => r.cmd.id == m.cmd) = some r → r.hold = .retry c →
      (s.cycle < c → exec (.xlatMissRetry m) s = .next s) ∧
      (c ≤ s.cycle → s.servingSide (m.va.toNat / 2 ^ 39 % 4) = some k →
        ∃ t q, exec (.xlatMissRetry m) s = .next t ∧
        Say.sends s t (s.sideTile k) (Body.xmiss (XMiss.mk s.here r.cmd.q r.cmd.id s.asid m.va m.kind)) ∧
        q ∈ t.t.winch.running ∧ q.cmd = r.cmd ∧ q.hold = .miss))

/-- R82, R83: a walk that ends in a leaf fills its slice, counts the page and answers its miss; a walk an invalidation has made stale fills
nothing. -/
def Say.walkCompletes : Prop :=
  ∀ (s s' : State) (side : BitVec 2) (w : Walk) (m : XMiss) (l : Leaf),
    (s.side side.toNat).walks = [w] →
    (w.stale = true → exec (.xlatWalkComplete side w.id) s = .next s) ∧
    (∃ t, exec (.xlatWalkComplete side w.id) s = .next t ∧ t.far.mem = s.far.mem ∧ (w.stale = false → (t.side side.toNat).walks = [])) ∧
    (∀ c v e, w.stale = false → w.waiting = [m] →
      ((s.modSide side.toNat fun x => { x with walks := [] }).walk w.asid m.va.toNat).1 = .fault c v e →
      ∃ t, exec (.xlatWalkComplete side w.id) s = .next t ∧ (t.side side.toNat).slice = (s.side side.toNat).slice ∧
        (t.side side.toNat).count = (s.side side.toNat).count ∧ Say.fills s t side.toNat m (WalkResult.fault c v e)) ∧
    (w.stale = false → w.waiting = [m] →
      (s.modSide side.toNat fun x => { x with walks := [] }).walk w.asid m.va.toNat = (.leaf l, s') →
      ∃ t, exec (.xlatWalkComplete side w.id) s = .next t ∧ (t.side side.toNat).walks = [] ∧
        (t.side side.toNat).slice.head? = some (w.asid, l) ∧ (t.side side.toNat).count = (s.side side.toNat).count + 1 ∧
        Say.fills s t side.toNat m (WalkResult.leaf l) ∧ t.far.mem = s.far.mem)

/-- R76, R78, R83: a fill enters the far-TLB and its queue goes on; a fill with a fault ends its command with that code. A WTLBP whose own
access faults on the leaf installs nothing (R125). -/
def Say.translationFills : Prop :=
  ∀ (s : State) (f : XFill) (r : WRun),
    (∀ l, f.result = .leaf l → s.probeFault f.miss l = none →
      ∃ t, exec (.xlatFillArrive f) s = .next t ∧ t.t.winch.tlb.head? = some (f.miss.asid, l) ∧ t.t.buf = s.t.buf) ∧
    (∀ l e, f.result = .leaf l → s.probeFault f.miss l = some e → ∃ t, exec (.xlatFillArrive f) s = .next t ∧ t.t.winch.tlb = s.t.winch.tlb) ∧
    (s.t.winch.running.find? (fun r => r.cmd.id == f.miss.cmd) = some r → r.hold = .miss →
      (∀ l, f.result = .leaf l → s.probeFault f.miss l = none →
        ∃ t q, exec (.xlatFillArrive f) s = .next t ∧ q ∈ t.t.winch.running ∧ q.cmd = r.cmd ∧ q.hold = .free) ∧
      (∀ c v e, f.result = .fault c v e → r.phase = .moving → ∃ t q g, exec (.xlatFillArrive f) s = .next t ∧ q ∈ t.t.winch.running ∧
        q.cmd = r.cmd ∧ q.fault = some g ∧ g.code = c ∧ g.aux = e ∧ t.t.winch.tlb = s.t.winch.tlb))

/-- R80, R87, R88: a side that fails loses its slice and its walks; an invalidation that nothing in flight depends on removes what it covers
from every far-TLB and every slice, and makes room for one that waited while 16 were outstanding. -/
def Say.translationSidesAndInvalidation : Prop :=
  ∀ s : State,
    (∀ side : BitVec 2, (s.side side.toNat).live = true → ∃ t, exec (.xlatSideFail side) s = .next t ∧ (t.side side.toNat).live = false ∧
      (t.side side.toNat).slice = [] ∧ (t.side side.toNat).walks = [] ∧ (∀ k, k ≠ side.toNat → t.side k = s.side k) ∧ t.far.mem = s.far.mem) ∧
    (∀ side : BitVec 2, (s.side side.toNat).live = false → exec (.xlatSideFail side) s = .next s) ∧
    (s.far.invals = [] → exec .invalidationComplete s = .next s) ∧
    (∀ v rest, s.far.invals = v :: rest → s.inFlight v = true → exec .invalidationComplete s = .next s) ∧
    (∀ v rest, s.far.invals = v :: rest → s.inFlight v = false → ∃ t, exec .invalidationComplete s = .next t ∧
      (s.far.invalWait = [] → t.far.invals = rest) ∧
      (∀ u more, s.far.invalWait = u :: more → rest.length < 16 → t.far.invals = rest ++ [u] ∧ t.far.invalWait = more) ∧
      (∀ k, ∀ e ∈ (t.tile k).winch.tlb, v.hits e.1 e.2 = false) ∧ (∀ k, k < 4 → ∀ e ∈ (t.side k).slice, v.hits e.1 e.2 = false) ∧
      t.far.mem = s.far.mem)


/-! ### Lanes: what a VA or VB slot writes (08_vector.md R210-R219; 07_streams_registers.md R184-R197) -/

namespace Sys2Proof.Say

open Sys2Proof Sys2Proof.Machine

/-- R211: a write that the present cycle has queued to land after `lat` cycles. -/
def waiting (s t : State) (lat : Nat) (g : LaneTarget) : Prop :=
  ({ due := s.cycle + lat, issued := s.cycle, target := g } : LaneWrite) ∈ t.t.lane.pending

/-- R193: the physical register of a vector register name. -/
def phys (s : State) (k : Nat) : Nat := if k < 16 then k else 16 + (k - 16 + s.t.ctl.rb) % 80

/-- A destination that can be written: a live register name, or a stream with a group of units to push (R187, R193), and no conflict
between this slot and the others of its bundle (R132, R188). -/
def room (s : State) (d : VCode) (w : Width) : Prop :=
  (d.toNat < 96 ∧ d.toNat < 16 + s.t.ctl.depth ∧ ∃ u, s.slotEnd = .ok u) ∨
  (112 ≤ d.toNat ∧ ∃ as u v, s.claim (d.toNat - 112) (unitsOf w) = .ok (as, u) ∧ u.slotEnd = .ok v)

/-- R48, R187, R193, R196: the write on its way to a destination: the bits of `D` that the guard enables, with the poison of their lane
groups: into a register under a mask, or as bytes of the group a push claimed. -/
def target (s t : State) (d : VCode) (w : Width) (lat : Nat) (on : Nat → Bool) (D : BitVec 1024) (bad : Nat → Bool) : Prop :=
  if d.toNat < 96 then
    ∃ m k c, waiting s t lat (.vec (phys s d.toNat) m D k c) ∧ (∀ b, b < 1024 → m.getLsbD b = on b) ∧
      ∀ g, g < 4 → k.getLsbD g = (bad g && (upto 1024).any fun b => b / 256 == g && on b)
  else
    ∃ as u cs, s.claim (d.toNat - 112) (unitsOf w) = .ok (as, u) ∧ waiting s t lat (.mem cs false) ∧
      ∀ x, x ∈ cs ↔ ∃ b, b < w.bits / 8 ∧ on (8 * b) = true ∧ x = (as.getD b 0, bits (8 * b) 8 D, bad (b / 32))

/-- R176: the flags that n elements of e bits raise, each in the lane group that executes it, and others. -/
def raised (s t : State) (w : Width) (e n lat : Nat) (on : Nat → Bool) (f : Nat → Flags) (others : BitVec 20) : Prop :=
  ∃ fl : BitVec 20, (fl ≠ 0 → waiting s t lat (.flags fl)) ∧
    ∀ g j, g < 4 → j < 5 → fl.getLsbD (5 * g + j) =
      (others.getLsbD (5 * g + j) || (upto n).any fun i => on (e * i / 8) && s.laneGroup w (e * i / 8) == g && (f i).getLsbD j)

/-- R210, R211: the results of n elements of e bits, each written where the guard enables its first byte. -/
def lands (s t : State) (d : VCode) (w : Width) (e n lat : Nat) (on bad : Nat → Bool) (f : Nat → Nat × Flags) (others : BitVec 20) :
    Prop :=
  (∃ D : BitVec 1024, (∀ i, i < n → on (e * i / 8) = true → nbits (e * i) e D.toNat = (f i).1 % 2 ^ e) ∧
    target s t d w lat (fun b => decide (b < e * n) && on (e * (b / e) / 8)) D bad) ∧
  raised s t w e n lat on (fun i => (f i).2) others

/-- R210, R223: the predicate bits that n elements of e bits set or clear, each where the guard enables its first byte; the mark when a
source is poisoned (R218). -/
def judges (s t : State) (p : BitVec 4) (w : Width) (e n lat : Nat) (on : Nat → Bool) (bad : Bool) (f : Nat → Bool × Flags) : Prop :=
  (∃ m D k, waiting s t lat (.prd (if p.toNat < 8 then p.toNat else 8 + (p.toNat - 8 + s.t.ctl.rb) % 8) m D k) ∧
    (∀ b, b < 128 → m.getLsbD b = (decide (8 * b < e * n) && on (e * (8 * b / e) / 8))) ∧
    (∀ b, b < 128 → m.getLsbD b = true → D.getLsbD b = (f (8 * b / e)).1) ∧ k = bad) ∧
  raised s t w e n lat on (fun i => (f i).2) 0

/-- What a lane slot leaves as it finds it once its sources are read: every register and predicate, the flags, the parameters, every
stream but the one it pushes to, the writes of earlier cycles, the buffers, the other units and everything outside the tile. -/
def laneKeeps (s t : State) (d : Nat) : Prop :=
  t.t.lane.v = s.t.lane.v ∧ t.t.lane.vmark = s.t.lane.vmark ∧ t.t.lane.p = s.t.lane.p ∧ t.t.lane.pmark = s.t.lane.pmark ∧
  t.t.lane.q = s.t.lane.q ∧ t.t.lane.flags = s.t.lane.flags ∧ t.t.lane.drm = s.t.lane.drm ∧ t.t.lane.seed = s.t.lane.seed ∧
  (∀ k, (d < 112 ∨ k ≠ 8 * (d - 112) + 5) → SMap.get 0 t.t.lane.st k = SMap.get 0 s.t.lane.st k) ∧
  (∀ w ∈ s.t.lane.pending, w.issued ≠ s.cycle → w ∈ t.t.lane.pending) ∧ t.t.ctl = s.t.ctl ∧ t.t.buf = s.t.buf ∧ t.t.winch = s.t.winch ∧
  t.t.fab = s.t.fab ∧ t.t.red = s.t.red ∧ t.t.sync = s.t.sync ∧ elsewhere s t

/-- R172, R175: the rounding mode in force. -/
def mode (s : State) (rm : RMode) : RMode :=
  if rm = .dyn then
    (match s.t.lane.drm.toNat with
     | 0 => .rne
     | 1 => .rtz
     | 2 => .rdn
     | 3 => .rup
     | _ => .sr)
  else rm

/-- What a lane instruction computes from: whether its guard enables a byte, the rounding mode, the random bits (from a bit position, so
many), the source elements (source, size in bits, index), the lane group that executes a byte, and whether what it reads is poisoned. -/
structure LaneIn where
  on : Nat → Bool
  m : RMode
  rnd : Nat → Nat → Nat
  x : Nat → Nat → Nat → Nat
  group : Nat → Nat
  bad : Bool

/-- An instruction of the lanes: its sources, its rounding, the size and number of the elements it writes, its latency, whether it
crosses elements, how many bits of its sources it reads under a guard, its result in each element, the flags it raises beside its elements',
and the bytes of a stream source that a guard makes it read (R44): those of the elements enabled at their first byte. -/
structure LaneOp where
  instr : Instr
  srcs : List VCode
  rm : RMode
  e : Nat
  n : Nat
  lat : Nat
  cross : Bool
  reads : (Nat → Bool) → Nat
  f : LaneIn → Nat → Nat × Flags
  others : LaneIn → BitVec 20
  use : (Nat → Bool) → Nat → Nat → Bool := fun on _ b => on (elemByte e b)

/-- R218: is lane group g of the result poisoned? -/
def fouled (vs : List Src) (reads : Nat) (cross : Bool) (g : Nat) : Bool :=
  vs.any fun v => (upto 4).any fun k => decide (256 * k < reads) && v.marks.getLsbD k && (cross || k == g)

/-- What an instruction computes from, with its sources read. -/
def laneIn (u : State) (w : Width) (on : Nat → Bool) (vs : List Src) (rm : RMode) (reads : Nat) : LaneIn :=
  { on := on, m := mode u rm
    rnd := rndAt (if mode u rm = .sr then randEntry u.t.lane.seed u.t.lane.rn else 0)
    x := fun j e i => nbits (e * i) e ((vs.map Src.data).getD j 0).toNat
    group := u.laneGroup w, bad := fouled vs reads true 0 }

/-- R48, R172, R210, R211, R218: with its guard and its sources read and a destination that can be written, the instruction completes:
its results are on their way to land after its latency, everything else stays, and SR has taken one random entry. -/
def completes (s : State) (h : VHead) (d : VCode) (o : LaneOp) : Prop :=
  ∀ on vs u, s.guard h.guard = .ok on → s.srcs h.w (o.use on) o.srcs = .ok (vs, u) → room u d h.w →
    let x := laneIn u h.w on vs o.rm (o.reads on)
    ∃ t, exec o.instr s = .next t ∧
      lands u t d h.w o.e o.n o.lat on (fouled vs (o.reads on) o.cross) (o.f x) (o.others x) ∧
      laneKeeps u t d.toNat ∧ t.t.mx = u.t.mx ∧
      t.t.lane.rn = (if mode u o.rm = .sr then u.t.lane.rn + 1 else u.t.lane.rn)

/-- R193: every register that operand codes name is live. -/
def live (s : State) (cs : List VCode) : Prop := ∀ c ∈ cs, c.toNat < 96 → c.toNat < 16 + s.t.ctl.depth

/-- R37, R39: a source name that is not live is fault 0x22, found before the slot reads its guard; a guard or a source that cannot be read, and
a destination that is not live, is the slot's fault. -/
def refuses (s : State) (h : VHead) (d : VCode) (o : LaneOp) : Prop :=
  (¬ live s o.srcs → exec o.instr s = .next (s.raise 0x22)) ∧
  (∀ c, live s o.srcs → s.guard h.guard = .error c → exec o.instr s = .next (s.raise c)) ∧
  (∀ c on, live s o.srcs → s.guard h.guard = .ok on → s.srcs h.w (o.use on) o.srcs = .error c → exec o.instr s = .next (s.raise c)) ∧
  (∀ on vs u, s.guard h.guard = .ok on → s.srcs h.w (o.use on) o.srcs = .ok (vs, u) → d.toNat < 96 → 16 + s.t.ctl.depth ≤ d.toNat →
    exec o.instr s = .next (s.raise 0x22))

/-- R220: the value of an e-bit integer element. -/
def rd (e : Nat) (u : Bool) (x : Nat) : Int := if u = false ∧ 2 ^ (e - 1) ≤ x then (x : Int) - 2 ^ e else x

/-- R220: an exact value clamped to its range where it saturates, then wrapped. -/
def fit (e : Nat) (u sat : Bool) (r : Int) : Nat :=
  ((if sat then (if u then max 0 (min (2 ^ e - 1) r) else max (-2 ^ (e - 1)) (min (2 ^ (e - 1) - 1) r)) else r) % 2 ^ e).toNat

/-- R220, R221: the integer arithmetic of the lanes. -/
noncomputable def laneInts (h : VHead) (d a b c : VCode) (ty : Fmt) (u sat : Bool) : List LaneOp :=
  let e := ty.bits
  let op (i : Instr) (srcs : List VCode) (f : (Nat → Nat) → Nat) : LaneOp :=
    { instr := i, srcs := srcs, rm := .rne, e := e, n := h.w.bits / e, lat := 1, cross := false, reads := fun _ => h.w.bits
      f := fun v i => (f fun j => v.x j e i, 0), others := fun _ => 0 }
  [op (.vadd h d a b ty u sat) [a, b] fun x => fit e u sat (rd e u (x 0) + rd e u (x 1)),
   op (.vsub h d a b ty u sat) [a, b] fun x => fit e u sat (rd e u (x 0) - rd e u (x 1)),
   op (.vmul h d a b ty u sat) [a, b] fun x => fit e u sat (rd e u (x 0) * rd e u (x 1)),
   op (.vmulh h d a b ty u) [a, b] fun x => fit e u false (rd e u (x 0) * rd e u (x 1) / 2 ^ e),
   op (.vmad h d a b c ty u sat) [a, b, c] fun x => fit e u sat (rd e u (x 0) * rd e u (x 1) + rd e u (x 2)),
   op (.vneg h d a ty sat) [a] fun x => fit e false sat (-rd e false (x 0)),
   op (.vabs h d a ty sat) [a] fun x => fit e false sat |rd e false (x 0)|,
   op (.vmin h d a b ty) [a, b] fun x => fit e false false (min (rd e false (x 0)) (rd e false (x 1))),
   op (.vmax h d a b ty) [a, b] fun x => fit e false false (max (rd e false (x 0)) (rd e false (x 1))),
   op (.vminu h d a b ty) [a, b] fun x => min (x 0) (x 1),
   op (.vmaxu h d a b ty) [a, b] fun x => max (x 0) (x 1),
   { instr := .vdot4 h d a b c u sat, srcs := [a, b, c], rm := .rne, e := 32, n := h.w.bits / 32, lat := 2, cross := true
     reads := fun _ => h.w.bits
     f := fun v j =>
       let p (k : Nat) : Int := rd 8 u (v.x 0 8 (4 * j + k)) * rd 8 u (v.x 1 8 (4 * j + k))
       (fit 32 false sat (rd 32 false (v.x 2 32 j) + p 0 + p 1 + p 2 + p 3), 0)
     others := fun _ => 0 }]

/-- R222: the bitwise operations, counts and shifts of the lanes. -/
noncomputable def laneBits (h : VHead) (d a b c : VCode) (ty : Fmt) (k : BitVec 6) : List LaneOp :=
  let e := ty.bits
  let op (i : Instr) (srcs : List VCode) (e : Nat) (f : (Nat → BitVec e) → BitVec e) : LaneOp :=
    { instr := i, srcs := srcs, rm := .rne, e := e, n := h.w.bits / e, lat := 1, cross := false, reads := fun _ => h.w.bits
      f := fun v i => ((f fun j => BitVec.ofNat e (v.x j e i)).toNat, 0), others := fun _ => 0 }
  [op (.vand h d a b) [a, b] 8 fun x => x 0 &&& x 1, op (.vor h d a b) [a, b] 8 fun x => x 0 ||| x 1,
   op (.vxor h d a b) [a, b] 8 fun x => x 0 ^^^ x 1, op (.vandn h d a b) [a, b] 8 fun x => x 0 &&& ~~~x 1,
   op (.vnot h d a) [a] 8 fun x => ~~~x 0, op (.vbsel h d a b c) [a, b, c] 8 fun x => (x 0 &&& x 2) ||| (x 1 &&& ~~~x 2),
   op (.vpopc h d a ty) [a] e fun x => BitVec.ofNat e ((upto e).filter fun i => (x 0).getLsbD i).length,
   op (.vclz h d a ty) [a] e fun x => BitVec.ofNat e ((upto e).filter fun i => decide ((x 0).toNat < 2 ^ i)).length,
   op (.vshl h d a b ty) [a, b] e fun x => x 0 <<< (x 1).toNat, op (.vshr h d a b ty) [a, b] e fun x => x 0 >>> (x 1).toNat,
   op (.vsra h d a b ty) [a, b] e fun x => (x 0).sshiftRight (x 1).toNat, op (.vshli h d a ty k) [a] e fun x => x 0 <<< k.toNat,
   op (.vshri h d a ty k) [a] e fun x => x 0 >>> k.toNat, op (.vsrai h d a ty k) [a] e fun x => (x 0).sshiftRight k.toNat,
   op (.vmov h d a) [a] 8 fun x => x 0]

end Sys2Proof.Say

/-- R48, R193, R197: a lane source is a live register with its marks, or a parameter repeated in every 64-bit word; a name that is not
live is fault 0x22, a poisoned predicate 0x2D; a guard holds at a byte when its predicate's bit there differs from the sense. -/
def Say.laneSources : Prop :=
  ∀ (s : State) (c : VCode) (w : Width) (g : Guard) (use : Nat → Bool),
    (c.toNat < 96 → c.toNat < 16 + s.t.ctl.depth → s.src c w use =
      .ok ({ data := SMap.get 0 s.t.lane.v (Say.phys s c.toNat)
             marks := SMap.get 0 s.t.lane.vmark (Say.phys s c.toNat) ||| SMap.get 0 s.t.lane.vbad (Say.phys s c.toNat) }, s)) ∧
    (c.toNat < 96 → 16 + s.t.ctl.depth ≤ c.toNat → s.src c w use = .error 0x22) ∧
    (96 ≤ c.toNat → c.toNat < 112 → ∃ v, s.src c w use = .ok (v, s) ∧ v.marks = 0 ∧
      ∀ k, k < 16 → bits (64 * k) 64 v.data = SMap.get 0 s.t.lane.q (c.toNat - 96)) ∧
    (let p := if g.g.toNat < 8 then g.g.toNat else 8 + (g.g.toNat - 8 + s.t.ctl.rb) % 8
     (SMap.get false s.t.lane.pmark p = true → s.guard (some g) = .error 0x2D) ∧
     (SMap.get false s.t.lane.pmark p = false → ∃ on, s.guard (some g) = .ok on ∧
       ∀ b, on b = ((SMap.get 0 s.t.lane.p p).getLsbD b ^^ g.sn))) ∧
    ∃ on, s.guard none = .ok on ∧ ∀ b, on b = true

/-- R44, R184-R188, R204: a stream that no slot of the bundle has named gives the units from its position on, and moves past them; what its
fields or its position do not allow is a fault: 0x28 the fields, 0x2A the alignment, 0x2B the end, 0x29 outside the buffer, 0x2E a port
still held. Of a guarded pop the bytes guarded off are not read and count as clean zeros. -/
def Say.streamPops : Prop :=
  ∀ (s : State) (st g : Nat), st < 16 → (g = 2 ∨ g = 4 ∨ g = 8) → s.bun.popped = [] → s.bun.claimed = [] → s.bun.reached = [] →
    let v := s.stream st
    let total := v.rows * v.units
    let ports := portsOf (s.groupAddrs st g v.pos)
    ((s.streamLegal st = false ∨ v.buf = 1 ∨ (v.order = true ∧ v.skew = false ∧ v.pitch / 16 % 2 = 0)) → s.pop st g = .error 0x28) ∧
    (s.streamLegal st = true → v.buf ≠ 1 → (v.order = true → v.skew = true ∨ v.pitch / 16 % 2 = 1) →
      ((v.pos % g ≠ 0 ∨ (if v.order then v.rows else v.units) % g ≠ 0) → s.pop st g = .error 0x2A) ∧
      (v.pos % g = 0 → (if v.order then v.rows else v.units) % g = 0 →
        (total ≤ v.pos → s.pop st g = .error 0x2B) ∧
        (v.pos < total → (∃ j, j < g ∧ v.limit < v.unit (v.pos + j) + 16) → s.pop st g = .error 0x29) ∧
        (v.pos < total → (∀ j, j < g → v.unit (v.pos + j) + 16 ≤ v.limit) →
          ((∃ p ∈ ports, s.portHeld p = true) → s.pop st g = .error 0x2E) ∧
          ((∀ p ∈ ports, s.portHeld p = false) → ∃ bs t, s.pop st g = .ok (bs, t) ∧ bs = (s.readAt (s.groupAddrs st g v.pos)).1 ∧
            (t.stream st).pos = (if v.pos + g = total ∧ v.wrapAt then 0 else v.pos + g) % 2 ^ 32 ∧
            (∀ k, k ≠ 8 * st + 5 → SMap.get 0 t.t.lane.st k = SMap.get 0 s.t.lane.st k) ∧ t.t.ctl = s.t.ctl ∧ t.t.mx = s.t.mx ∧
            t.t.lane.v = s.t.lane.v ∧ t.t.lane.pending = s.t.lane.pending ∧
            ∀ use, ∃ cs u, s.popSome st g use = .ok (cs, u) ∧ cs.length = 16 * g ∧ (u.stream st).pos = (t.stream st).pos ∧
              (∀ i, i < 16 * g → use i = false → cs.getD i (1, true) = (0, false)) ∧
              (∀ i, i < 16 * g → use i = true → (cs.getD i (0, false)).1 = u.t.buf.byte ((s.groupAddrs st g v.pos).getD i 0)) ∧
              ((∀ i, use i = false) → u.t.buf = s.t.buf)))))

/-- R220, R221: the integer arithmetic of the lanes: the exact value, clamped where it saturates, wrapped, in every element the guard
enables, one cycle later (two for VDOT4). -/
def Say.laneIntegers : Prop :=
  ∀ (s : State) (h : VHead) (d a b c : VCode) (ty : Fmt) (u sat : Bool),
    ∀ o ∈ Say.laneInts h d a b c ty u sat, wf o.instr = true → Say.completes s h d o ∧ Say.refuses s h d o

/-- R222, R239: the bitwise operations, counts, shifts and moves of the lanes; a shift by the width or more leaves no bit, or the sign
alone; an immediate count of the width or more is fault 0x21. -/
def Say.laneBitsRule : Prop :=
  ∀ (s : State) (h : VHead) (d a b c : VCode) (ty : Fmt) (k : BitVec 6),
    (∀ o ∈ Say.laneBits h d a b c ty k, wf o.instr = true → Say.completes s h d o ∧ Say.refuses s h d o) ∧
    (ty.bits ≤ k.toNat → exec (.vshli h d a ty k) s = .next (s.raise 0x21) ∧ exec (.vshri h d a ty k) s = .next (s.raise 0x21) ∧
      exec (.vsrai h d a ty k) s = .next (s.raise 0x21))

/-! ### Lanes: floating point, conversions, permutations, reductions (08_vector.md R224-R239) -/

namespace Sys2Proof.Say

open Sys2Proof Sys2Proof.Machine

/-- R225: a float result: the canonical NaN of the first NaN operand, the invalid operation, or the exact value rounded once. -/
def float (ty : Fmt) (m : RMode) (sat : Bool) (r : Nat) (xs : List Exact) (v : Option Exact) : Nat × Flags :=
  match xs.find? Exact.isNan, v with
  | some x, _ => (canonNan ty x.sign, 0)
  | none, none => (canonNan ty false, fNV)
  | none, some y => roundToFloat y ty m sat r

/-- R224-R228, R238: the float arithmetic of the lanes and the special functions. -/
noncomputable def laneFloats (h : VHead) (d a b c : VCode) (ty : Fmt) (rm : RMode) (sat : Bool) : List LaneOp :=
  let e := ty.bits
  let op (i : Instr) (srcs : List VCode) (rm : RMode) (lat : Nat) (f : LaneIn → Nat → (Nat → Nat) → Nat × Flags) : LaneOp :=
    { instr := i, srcs := srcs, rm := rm, e := e, n := h.w.bits / e, lat := lat, cross := false, reads := fun _ => h.w.bits
      f := fun v i => f v (v.rnd (e * i) ty.srBits) fun j => v.x j e i
      others := fun _ => 0 }
  let arith (i : Instr) (srcs : List VCode) (f : RMode → (Nat → Exact) → Option Exact) : LaneOp :=
    op i srcs rm 4 fun v r x =>
      float ty v.m sat r ((upto srcs.length).map fun j => ofFloat ty (x j)) (f v.m fun j => ofFloat ty (x j))
  let exact (i : Instr) (srcs : List VCode) (f : (Nat → Nat) → Nat) : LaneOp :=
    op i srcs .rne 2 fun _ _ x =>
      match ((upto srcs.length).map fun j => ofFloat ty (x j)).find? Exact.isNan with
      | some y => (canonNan ty y.sign, 0)
      | none => (f x, 0)
  let below (x y : Nat) : Bool := belowZ (ofFloat ty x) (ofFloat ty y)
  let special (i : Instr) (f : SpFun) : LaneOp := op i [a] rm 12 fun v r x => f.elem ty v.m sat r (x 0)
  [arith (.vfadd h d a b ty rm sat) [a, b] fun m x => (x 0).add m (x 1),
   arith (.vfmul h d a b ty rm sat) [a, b] fun _ x => (x 0).mul (x 1),
   arith (.vfsub h d a b ty rm sat) [a, b] fun m x => (x 0).add m (x 1).neg,
   arith (.vfma h d a b c ty rm sat) [a, b, c] fun m x => ((x 0).mul (x 1)).bind fun p => p.add m (x 2),
   arith (.vfms h d a b c ty rm sat) [a, b, c] fun m x => ((x 0).mul (x 1)).bind fun p => p.add m (x 2).neg,
   arith (.vfnma h d a b c ty rm sat) [a, b, c] fun m x => ((x 0).mul (x 1)).bind fun p => p.neg.add m (x 2),
   exact (.vfmin h d a b ty) [a, b] fun x => if below (x 0) (x 1) then x 0 else x 1,
   exact (.vfmax h d a b ty) [a, b] fun x => if below (x 0) (x 1) then x 1 else x 0,
   exact (.vfabs h d a ty) [a] fun x => x 0 % 2 ^ (e - 1), exact (.vfneg h d a ty) [a] fun x => x 0 ^^^ 2 ^ (e - 1),
   op (.vfscale h d a b ty rm sat) [a, b] rm 4 fun v r x => scaleElem ty v.m sat r (x 0) (x 1),
   special (.vrcp h d a ty rm sat) .rcp, special (.vrsq h d a ty rm sat) .rsq, special (.vsqrt h d a ty rm sat) .sqrt,
   special (.vexp2 h d a ty rm sat) .exp2, special (.vlog2 h d a ty rm sat) .log2, special (.vtanh h d a ty rm sat) .tanh,
   special (.vsigm h d a ty rm sat) .sigm]

/-- R229, R232, R233: the conversions between registers. -/
noncomputable def laneConversions (h : VHead) (d a : VCode) (ty df : Fmt) (u sat : Bool) (rm : RMode) : List LaneOp :=
  let n := h.w.bits / max ty.bits df.bits
  let blocks (i : Instr) (f : Nat → Nat → RMode → (Nat → Nat) → Nat × Nat × Flags) : LaneOp :=
    { instr := i, srcs := [a], rm := rm, e := 256, n := h.w.bits / 256, lat := 3, cross := false, reads := fun _ => h.w.bits
      f := fun v j =>
        let b := v.x 0 256 j
        let r := f (b % 2 ^ 128) (b / 2 ^ 128 % 2 ^ 8) v.m fun c => v.rnd (256 * j + 4 * c) 4
        (r.1 + 2 ^ 128 * r.2.1, r.2.2)
      others := fun _ => 0 }
  [{ instr := .vcvt h d a ty df u rm sat, srcs := [a], rm := rm, e := df.bits, n := n, lat := 3, cross := ty.bits != df.bits
     reads := fun _ => ty.bits * n, use := fun on _ b => cvtUse ty.bits df.bits n on b, f := fun v i => cvtElem ty df u v.m sat (v.rnd (df.bits * i) df.srBits) (v.x 0 ty.bits i)
     others := fun _ => 0 },
   blocks (.vcvtmx h d a rm) mxToHb4, blocks (.vcvtxm h d a rm) hb4ToMx,
   { instr := .vcvtscl h d a ty true rm sat, srcs := [a], rm := rm, e := h.w.bits, n := 1, lat := 6, cross := true
     reads := fun _ => ty.bits, use := fun on _ b => on 0 && decide (8 * b < ty.bits)
     f := fun v _ => ((sclEncode (laOf (elemValue ty false (v.x 0 ty.bits 0)))).toNat, 0), others := fun _ => 0 },
   { instr := .vcvtscl h d a ty false rm sat, srcs := [a], rm := rm, e := ty.bits, n := h.w.bits / ty.bits, lat := 6, cross := true
     reads := fun on => if on 0 then 512 else 0, use := fun on _ b => on 0 && decide (8 * b < 512)
     f := fun v i =>
       if i = 0 then
         let r := if v.bad then (La.zero, false) else sclRead (BitVec.ofNat 512 (v.x 0 512 0))
         let y := laRound r.1 ty v.m sat (v.rnd 0 ty.srBits)
         (y.1, if r.2 then y.2 ||| fNV else y.2)
       else (0, 0)
     others := fun _ => 0 }]

/-- R234, R239: the permutations, and the moves that read no register. -/
noncomputable def lanePerms (h : VHead) (d a b c : VCode) (ty : Fmt) (sel k8 : Byte) (k : BitVec 7) (hi : Bool) (imm : Word) : List LaneOp :=
  let e := ty.bits
  let n := h.w.bits / e
  let op (i : Instr) (srcs : List VCode) (e : Nat) (f : (Nat → Nat → Nat) → Nat → Nat) : LaneOp :=
    { instr := i, srcs := srcs, rm := .rne, e := e, n := h.w.bits / e, lat := 2, cross := true, reads := fun _ => h.w.bits
      use := fun _ _ _ => true, f := fun v i => (f (fun j i => v.x j e i) i, 0), others := fun _ => 0 }
  let z := if hi then 1 else 0
  [op (.vperm h d a b c ty) [a, b, c] e fun x i => if x 1 i < n then x 0 (x 1 i) else if x 1 i < 2 * n then x 2 (x 1 i - n) else 0,
   op (.vshuf h d a sel) [a] 8 fun x i => x 0 (i / 16 * 16 + 4 * (bits (2 * (i / 4 % 4)) 2 sel).toNat + i % 4),
   op (.vrot h d a ty k) [a] e fun x i => if i < k.toNat then x 0 (i + n - k.toNat) else x 0 (i - k.toNat),
   op (.vslide h d a b ty k8) [a, b] e fun x i => if i + k8.toNat < n then x 0 (i + k8.toNat) else x 1 (i + k8.toNat - n),
   op (.vzipl h d a b ty) [a, b] e fun x i => x (i % 2) (i / 2), op (.vziph h d a b ty) [a, b] e fun x i => x (i % 2) (i / 2 + n / 2),
   op (.vuzpe h d a b ty) [a, b] e fun x i => if i < n / 2 then x 0 (2 * i) else x 1 (2 * (i - n / 2)),
   op (.vuzpo h d a b ty) [a, b] e fun x i => if i < n / 2 then x 0 (2 * i + 1) else x 1 (2 * (i - n / 2) + 1),
   op (.vbcst h d a ty k) [a] e fun x _ => x 0 k.toNat,
   op (.vtrn h d a b ty hi) [a, b] e fun x i => if i % 2 = 0 then x 0 (i + z) else x 1 (i - 1 + z),
   { instr := .vmovx h d imm, srcs := [], rm := .rne, e := 8, n := h.w.bits / 8, lat := 1, cross := false, reads := fun _ => h.w.bits
     f := fun _ i => ((bits (8 * (i % 8)) 8 imm).toNat, 0), others := fun _ => 0 },
   { instr := .vrnd h d, srcs := [], rm := .sr, e := 8, n := h.w.bits / 8, lat := 1, cross := false, reads := fun _ => h.w.bits
     f := fun v i => (v.rnd (8 * i) 8, 0), others := fun _ => 0 }]

/-- R235, R236: the reduction of the enabled elements by the tree, and the running combinations. -/
noncomputable def laneReductions (h : VHead) (d a : VCode) (ty : Fmt) (op : RedOp) (u sat : Bool) (rm : RMode) : List LaneOp :=
  let e := ty.bits
  let n := h.w.bits / e
  let both (v : LaneIn) (p : Nat) : Nat → Nat → Nat × Flags := redCombine ty op u v.m sat (v.rnd (e * p) ty.srBits)
  let tree (v : LaneIn) : Option Nat × Flags :=
    redTree (both v) 8 1 ((upto n).map fun j => if v.on (e * j / 8) then some (v.x 0 e j) else none)
  [{ instr := .vred h d a ty op u rm sat, srcs := [a], rm := rm, e := e, n := n, lat := 8, cross := true, reads := fun _ => h.w.bits
     f := fun v _ => ((tree v).1.getD 0, 0), others := fun v => (tree v).2.setWidth 20 <<< (5 * v.group 0) },
   { instr := .vscan h d a ty op u rm sat, srcs := [a], rm := rm, e := e, n := n, lat := 8, cross := true, reads := fun _ => h.w.bits
     f := fun v i => (((scanList (both v) none (((upto n).filter fun j => v.on (e * j / 8)).map fun j => (j, v.x 0 e j))).find?
       fun r => r.1 == i).map fun r => r.2).getD (0, 0)
     others := fun _ => 0 }]

/-- A compare of the lanes: its sources, its element size, its latency, and its verdict on their elements. -/
structure LaneTest where
  instr : Instr
  srcs : List VCode
  e : Nat
  lat : Nat
  f : (Nat → Nat) → Bool × Flags

/-- R223, R227, R239: the compares of the lanes. -/
noncomputable def laneTests (h : VHead) (p : BitVec 4) (a b : VCode) (ty : Fmt) (cm : BitVec 9) : List LaneTest :=
  let e := ty.bits
  let ints (i : Instr) (u : Bool) (f : Int → Int → Bool) : LaneTest :=
    { instr := i, srcs := [a, b], e := e, lat := 1, f := fun x => (f (rd e u (x 0)) (rd e u (x 1)), 0) }
  let floats (i : Instr) (nv : Flags) (f : Ordering → Bool) : LaneTest :=
    { instr := i, srcs := [a, b], e := e, lat := 2
      f := fun x =>
        let v := ofFloat ty (x 0)
        let w := ofFloat ty (x 1)
        if v.isNan || w.isNan then (false, nv) else (f (v.cmp w), 0) }
  [ints (.vcmpeq h p a b ty) false fun x y => x == y, ints (.vcmpne h p a b ty) false fun x y => x != y,
   ints (.vcmplt h p a b ty) false fun x y => decide (x < y), ints (.vcmple h p a b ty) false fun x y => decide (x ≤ y),
   ints (.vcmpltu h p a b ty) true fun x y => decide (x < y), ints (.vcmpleu h p a b ty) true fun x y => decide (x ≤ y),
   floats (.vfcmpeq h p a b ty) 0 fun o => o == .eq, floats (.vfcmplt h p a b ty) fNV fun o => o == .lt,
   floats (.vfcmple h p a b ty) fNV fun o => o != .gt,
   { instr := .vfcmpun h p a b ty, srcs := [a, b], e := e, lat := 2
     f := fun x => ((ofFloat ty (x 0)).isNan || (ofFloat ty (x 1)).isNan, 0) },
   { instr := .vfclass h p a ty cm, srcs := [a], e := e, lat := 2, f := fun x => (cm.getLsbD (floatClass ty (x 0)), 0) },
   { instr := .vtop h p a ty, srcs := [a], e := e, lat := 1, f := fun x => (x 0 != 0, 0) }]

end Sys2Proof.Say

/-- R224-R228, R238: the float arithmetic of the lanes: NaN, the invalid operation, else the exact value rounded once, after four
cycles; minimum, maximum and the sign operations after two; the special functions after twelve. A scale by more than 600 either way
counts as 600, and the special functions are the model's enclosures (log entries). -/
def Say.laneFloatsRule : Prop :=
  ∀ (s : State) (h : VHead) (d a b c : VCode) (ty : Fmt) (rm : RMode) (sat : Bool),
    ∀ o ∈ Say.laneFloats h d a b c ty rm sat, wf o.instr = true → Say.completes s h d o ∧ Say.refuses s h d o

/-- R229-R233: conversions between formats, blocks and accumulator images, in registers; VCVTHB, which reads blocks and their scales
from a stream; VCVTFHB, which pushes the codes and the scale of every block the guard enables. -/
def Say.laneConversionsRule : Prop :=
  ∀ (s : State) (h : VHead) (d a : VCode) (ty df : Fmt) (u sat : Bool) (rm : RMode) (th : BitVec 2),
    (∀ o ∈ Say.laneConversions h d a ty df u sat rm, wf o.instr = true → Say.completes s h d o ∧ Say.refuses s h d o) ∧
    (let st := a.toNat - 112
     let n := h.w.bits / df.bits
     wf (.vcvthb h d a df rm sat) = true → ∀ on, s.guard h.guard = .ok on →
       ((s.stream st).fmt ≠ 10 → exec (.vcvthb h d a df rm sat) s = .next (s.raise 0x28)) ∧
       ((s.stream st).fmt = 10 → ∀ bs u1 sc u, s.popSome st (n / 32) (fun b => on (b / 16 * (4 * df.bits))) = .ok (bs, u1) →
         u1.readScales st (s.posAt st) (n / 32) (fun j => on (j * (4 * df.bits))) = .ok (sc, u) →
         Say.room u d h.w → let v := Say.laneIn u h.w on [] rm 0
         ∃ t, exec (.vcvthb h d a df rm sat) s = .next t ∧
           Say.lands u t d h.w df.bits n 3 on (fun _ => anyPoison bs || anyPoison sc)
             (fun i => roundToFloat (hb4Elem ((sc.map fun y => y.1.toNat).getD (i / 32) 0)
               (nbits (4 * (i % 32)) 4 (nbits (128 * (i / 32)) 128 (bytesBits bs).toNat))) df v.m sat (v.rnd (df.bits * i) df.srBits)) 0 ∧
           Say.laneKeeps u t d.toNat)) ∧
    (let st := d.toNat - 112
     let n := h.w.bits / ty.bits
     wf (.vcvtfhb h d a ty th rm) = true → ∀ on vs u, s.guard h.guard = .ok on →
       s.srcs h.w (fun _ b => on (elemByte (32 * ty.bits) b)) [a] = .ok (vs, u) →
       ((u.stream st).fmt ≠ 10 → exec (.vcvtfhb h d a ty th rm) s = .next (s.raise 0x28)) ∧
       ((u.stream st).fmt = 10 → ∀ as u1 sc u2 u3, u.claim st (n / 32) = .ok (as, u1) →
         (upto (n / 32)).map (fun j => u.scaleAddr st (u.posAt st + j)) = sc.map some → u1.access sc = .ok u2 →
         u2.slotEnd = .ok u3 → let v := Say.laneIn u h.w on vs rm h.w.bits
         let start (i : Nat) : Bool := on (ty.bits * (32 * (i / 32)) / 8)
         let q (j : Nat) := hb4Quant ((upto 32).map fun c => ofFloat ty (v.x 0 ty.bits (32 * j + c))) th.toNat v.m fun c =>
           v.rnd (128 * j + 4 * c) 4
         ∃ t cs, exec (.vcvtfhb h d a ty th rm) s = .next t ∧ Say.waiting s t 3 (.mem cs false) ∧ Say.laneKeeps u t d.toNat ∧
           (∀ x, x ∈ cs ↔ ∃ j, j < n / 32 ∧ start (32 * j) = true ∧
             (x = (sc.getD j 0, BitVec.ofNat 8 (q j).2.1, Say.fouled vs h.w.bits true 0) ∨
              ∃ k, k < 16 ∧ x = (as.getD (16 * j + k) 0, BitVec.ofNat 8 (packCodes (q j).1 / 2 ^ (8 * k)), Say.fouled vs h.w.bits true 0))) ∧
           Say.raised u t h.w ty.bits n 3 (fun b => start (8 * b / ty.bits)) (fun i => (q (i / 32)).2.2.getD (i % 32) 0) 0))

/-- R234, R239: permutations of elements, by a register, a constant or a predicate; VMOVX, VRND and PTOV; VPOPRQ takes half a row of a
result queue, fault 0x24 when there is none. -/
def Say.lanePermutations : Prop :=
  ∀ (s : State) (h : VHead) (d a b c : VCode) (ty : Fmt) (sel k8 : Byte) (k : BitVec 7) (hi : Bool) (imm : Word) (p : BitVec 4)
    (q : BitVec 2),
    (∀ o ∈ Say.lanePerms h d a b c ty sel k8 k hi imm, wf o.instr = true → Say.completes s h d o ∧ Say.refuses s h d o) ∧
    (∀ v, s.pred p = .ok v →
      let e := ty.bits
      let n := h.w.bits / e
      let set (j : Nat) : Bool := v.getLsbD (e * j / 8)
      (ty.isI = true → destOk d = true →
        Say.completes s h d { instr := .vcmpr h d a p ty, srcs := [a], rm := .rne, e := e, n := n, lat := 2, cross := true, use := fun _ _ _ => true,
                              reads := fun _ => h.w.bits, others := fun _ => 0,
                              f := fun v i => ((((upto n).filter set)[i]?).elim 0 (v.x 0 e), 0) } ∧
        Say.completes s h d { instr := .vexpd h d a p ty, srcs := [a], rm := .rne, e := e, n := n, lat := 2, cross := true, use := fun _ _ _ => true,
                              reads := fun _ => h.w.bits, others := fun _ => 0,
                              f := fun v i => (if set i then v.x 0 e ((upto i).filter set).length else 0, 0) } ∧
        Say.completes s h d { instr := .ptov h d p ty, srcs := [], rm := .rne, e := e, n := n, lat := 1, cross := false,
                              reads := fun _ => h.w.bits, others := fun _ => 0, f := fun _ i => (if set i then 2 ^ e - 1 else 0, 0) })) ∧
    (∀ on, h.w = .w1024 → s.guard h.guard = .ok on →
      (s.t.mx.queue q.toNat = [] → exec (.vpoprq h d q) s = .next (s.raise 0x24)) ∧
      (∀ D m x, s.t.mx.popHalf q.toNat = some (D, m, x) → Say.room s d h.w → ∃ t, exec (.vpoprq h d q) s = .next t ∧
        Say.lands s t d h.w 8 128 2 on (fun g => m.getLsbD g) (fun i => (nbits (8 * i) 8 D.toNat, 0)) 0 ∧ Say.laneKeeps s t d.toNat ∧
        t.t.mx = x))

/-- R235-R237: reductions by the tree and running combinations; VREDX writes the image of the exact sum and its rounding, whatever the
guard. -/
def Say.laneReductionsRule : Prop :=
  ∀ (s : State) (h : VHead) (d a c : VCode) (ty : Fmt) (op : RedOp) (u sat acc : Bool) (rm : RMode),
    (∀ o ∈ Say.laneReductions h d a ty op u sat rm, wf o.instr = true → Say.completes s h d o ∧ Say.refuses s h d o) ∧
    (wf (.vredx h d a c acc rm sat) = true → ∀ on vs v, s.guard h.guard = .ok on →
      s.srcs h.w (fun j b => if j = 0 then on (elemByte 32 b) else decide (b < 64)) (if acc then [a, c] else [a]) = .ok (vs, v) →
      Say.room v d h.w →
      let x := Say.laneIn v h.w on vs rm 1024
      let sum := ((upto 32).filter fun i => on (4 * i)).foldl (fun la i => la.add (laOf (ofFloat .f32 (x.x 0 32 i)))) La.zero
      let old := if Say.fouled (vs.drop 1) 512 true 0 then (La.zero, false) else sclRead (BitVec.ofNat 512 (x.x 1 512 0))
      let la := if acc then sum.add old.1 else sum
      let y := laRound la .f32 x.m sat (x.rnd 512 24)
      ∃ t, exec (.vredx h d a c acc rm sat) s = .next t ∧
        Say.target v t d h.w 12 (fun _ => true) ((sclEncode la).setWidth 1024 ||| (BitVec.ofNat 1024 y.1 <<< (512 : Nat)))
          (fun _ => Say.fouled (vs.take 1) 1024 true 0 || (acc && Say.fouled (vs.drop 1) 512 true 0)) ∧
        Say.raised v t h.w 32 0 12 on (fun _ => 0)
          (y.2.setWidth 20 <<< (10 : Nat) ||| (if acc && old.2 then (fNV : Flags).setWidth 20 else 0)) ∧
        Say.laneKeeps v t d.toNat ∧ t.t.lane.rn = (if Say.mode v rm = .sr then v.t.lane.rn + 1 else v.t.lane.rn))

/-- R235: an integer sum that does not saturate is the sum of the enabled elements, modulo their width. -/
def Say.reductionSum : Prop :=
  ∀ (e k : Nat) (ty : Fmt) (u : Bool) (rm : RMode) (rnd : Nat → Nat) (v : List (Option Nat)), ty.isI = true → e = ty.bits →
    v.length = 2 ^ k → k ≤ 8 → (∀ x ∈ v, ∀ n, x = some n → n < 2 ^ e) → (∃ x ∈ v, x ≠ none) →
    (redTree (fun p => redCombine ty .sum u rm false (rnd p)) 8 1 v).1 = some ((v.map fun x => x.getD 0).sum % 2 ^ e)

/-- R223, R227, R197, R239: compares, classes and VTOP set or clear the predicate bits of every element the guard enables; predicate
operations work on the bits of the slot's width; a poisoned predicate is fault 0x2D. -/
def Obligations.LanePredicates : Prop :=
  ∀ (s : State) (h : VHead) (p : BitVec 4) (a b : VCode) (ty : Fmt) (cm : BitVec 9) (x y : BitVec 4),
    (∀ o ∈ Say.laneTests h p a b ty cm, wf o.instr = true → ∀ on vs u v, s.guard h.guard = .ok on →
      s.srcs h.w (fun _ b => on (elemByte o.e b)) o.srcs = .ok (vs, u) → u.slotEnd = .ok v → ∃ t, exec o.instr s = .next t ∧
        Say.judges u t p h.w o.e (h.w.bits / o.e) o.lat on (Say.fouled vs h.w.bits true 0)
          (fun i => o.f fun j => nbits (o.e * i) o.e ((vs.map Src.data).getD j 0).toNat) ∧
        Say.laneKeeps u t 0 ∧ t.t.mx = u.t.mx ∧ t.t.lane.rn = u.t.lane.rn) ∧
    (∀ o ∈ ([(.pand h p x y, fun i j => i && j), (.por h p x y, fun i j => i || j), (.pxor h p x y, fun i j => i ^^ j),
             (.pandn h p x y, fun i j => i && !j)] : List (Instr × (Bool → Bool → Bool))),
      ∀ on, s.guard h.guard = .ok on →
        (∀ c, s.pred x = .error c → exec o.1 s = .next (s.raise c)) ∧
        (∀ c v, s.pred x = .ok v → s.pred y = .error c → exec o.1 s = .next (s.raise c)) ∧
        (∀ v w u, s.pred x = .ok v → s.pred y = .ok w → s.slotEnd = .ok u → ∃ t, exec o.1 s = .next t ∧
          Say.judges s t p h.w 8 (h.w.bits / 8) 1 on false (fun i => (o.2 (v.getLsbD i) (w.getLsbD i), 0)) ∧
          Say.laneKeeps s t 0 ∧ t.t.mx = s.t.mx))


/-! ### The LD and ST slots (07_streams_registers.md R198-R208) -/

namespace Sys2Proof.Say

open Sys2Proof Sys2Proof.Machine

/-- R202, R203: bytes read from memory on their way to a register: (byte of the register, address) pairs, with the poison of the bytes
read in each lane group, and that of the groups in `bad`. `u` stands before the reading. -/
def loaded (u t : State) (d : VCode) (lat : Nat) (cells : List (Nat × Nat)) (bad : Nat → Bool) : Prop :=
  let r := u.readAt (cells.map fun x => x.2)
  ∃ m D k c, waiting u t lat (.vec (phys u d.toNat) m D k c) ∧ (∀ b, b < 1024 → m.getLsbD b = cells.any fun x => x.1 == b / 8) ∧
    (∀ x ∈ cells, bits (8 * x.1) 8 D = r.2.t.buf.byte x.2) ∧
    (∀ g, g < 4 → k.getLsbD g = (((cells.zip r.1).any fun y => y.1.1 / 32 == g && y.2.2) ||
      (bad g && cells.any fun x => x.1 / 32 == g))) ∧
    laneKeeps r.2 t 0 ∧ t.t.mx = u.t.mx ∧ t.t.lane.rn = u.t.lane.rn

/-- R201, R202, R196: bytes on their way to memory: of a value, those that a guard enables, with the poison of their lane groups. -/
def stored (u t : State) (lat n : Nat) (as : List Nat) (on : Nat → Bool) (v : BitVec 1024) (k : BitVec 4) : Prop :=
  ∃ cs, waiting u t lat (.mem cs true) ∧
    (∀ x, x ∈ cs ↔ ∃ b, b < n ∧ on b = true ∧ x = (as.getD b 0, bits (8 * b) 8 v, k.getLsbD (b / 32))) ∧ laneKeeps u t 0

/-- R203, R205: an index register, a stream whose base is used, an element size, and the addresses they give to the enabled elements. -/
def indexes (s : State) (sb : BitVec 4) (size n : Nat) (off : BitVec 1024) (on : Nat → Bool) (es : List (Nat × Nat)) : Prop :=
  es = ((upto n).filter fun i => on (size * i)).map fun i =>
    (i, s.t.buf.addr ((s.stream sb.toNat).buf == 2) (s.stream sb.toNat).side ((s.stream sb.toNat).off + size * nbits (8 * size * i) (8 * size) off.toNat))

/-- R205, R206: the vector atomics. -/
noncomputable def vamos (h : LHead) (d a : VCode) (ret sz : Bool) (sb : BitVec 4) (v : VCode) : List (Instr × AOp) :=
  [(.vamoor h d a ret sz sb v, .or), (.vamoand h d a ret sz sb v, .and), (.vamoxor h d a ret sz sb v, .xor),
   (.vamoadd h d a ret sz sb v, .add), (.vamomin h d a ret sz sb v, .min), (.vamomax h d a ret sz sb v, .max),
   (.vamoxchg h d a ret sz sb v, .swap), (.vamocas h d a ret sz sb v, .cas)]

/-- R206: elements of n bytes acted on in order: the memory they leave and the old values they found. -/
def acted (op : AOp) (n : Nat) (b cmp : Nat → Nat) : List (Nat × Nat) → (Nat → Byte) → (Nat → Byte) × List (Nat × Nat)
  | [], mem => (mem, [])
  | (i, a) :: rest, mem =>
    let old : BitVec (8 * n) := BitVec.ofNat (8 * n) (little mem a n)
    let new := atomic op old (BitVec.ofNat (8 * n) (b i)) (BitVec.ofNat (8 * n) (cmp i))
    let r := acted op n b cmp rest fun x => if a ≤ x ∧ x < a + n then bits (8 * (x - a)) 8 new else mem x
    (r.1, (i, old.toNat) :: r.2)

end Sys2Proof.Say

/-- R198, R201, R202: VLD takes a group of its stream, VLDB one a signed count of groups from the position at issue (of a stream that the
bundle also pops, the model's choice, log 121) and moves nothing, PLD one unit into a predicate: bytes the guard disables are neither read
nor written, and the result lands after 6 cycles. -/
def Say.laneLoads : Prop :=
  ∀ (s : State) (h : LHead) (d a : VCode) (p : BitVec 4) (off : BitVec 12) (on : Nat → Bool),
    s.guard h.guard = .ok on → d.toNat < 96 → d.toNat < 16 + s.t.ctl.depth → 112 ≤ a.toNat →
    (∀ as u v, s.popAddrs (a.toNat - 112) (unitsOf h.w) = .ok (as, u) → u.slotEnd = .ok v →
      ∃ t, exec (.vld h d a) s = .next t ∧
        Say.loaded u t d 6 (((upto (h.w.bits / 8)).filter fun b => on b).map fun b => (b, as.getD b 0)) fun _ => false) ∧
    (∀ c, s.popAddrs (a.toNat - 112) (unitsOf h.w) = .error c → exec (.vld h d a) s = .next (s.raise c)) ∧
    (∀ (q : Nat) u v, (q : Int) = s.posAt (a.toNat - 112) + off.toInt * unitsOf h.w →
      s.groupCheck (a.toNat - 112) (unitsOf h.w) q = .ok () →
      s.reach (a.toNat - 112) (s.groupAddrs (a.toNat - 112) (unitsOf h.w) q) = .ok u → (u.naming [a.toNat - 112] []).slotEnd = .ok v →
      ∃ t, exec (.vldb h d a off) s = .next t ∧
        Say.loaded u t d 6 (((upto (h.w.bits / 8)).filter fun b => on b).map fun b =>
          (b, (s.groupAddrs (a.toNat - 112) (unitsOf h.w) q).getD b 0)) fun _ => false) ∧
    (∀ (q : Nat) c, (q : Int) = s.posAt (a.toNat - 112) + off.toInt * unitsOf h.w →
      s.groupCheck (a.toNat - 112) (unitsOf h.w) q = .error c → exec (.vldb h d a off) s = .next (s.raise c)) ∧
    (∀ bs u v, on 0 = true → s.pop (a.toNat - 112) 1 = .ok (bs, u) → u.slotEnd = .ok v →
      ∃ t D, exec (.pld h p a) s = .next t ∧ Say.waiting s t 6 (.prd (physP s.t.ctl.rb p.toNat) (BitVec.allOnes 128) D (anyPoison bs)) ∧
        (∀ b, b < 16 → some (bits (8 * b) 8 D) = (bs[b]?).map Prod.fst) ∧ Say.laneKeeps u t 0)

/-- R203, R204: gathers: the elements the guard enables are read from their addresses and land after 10 cycles; an element outside its
buffer, a base outside A and C staging or at no element, or more than eight 128-bit words of one bank is fault 0x2C, and a stream that is
illegal or names W 0x28 (R184, R190); a group whose offsets are poisoned comes poisoned (R196). -/
def Say.gathers : Prop :=
  ∀ (s : State) (h : LHead) (d a : VCode) (sz : ESize) (sb : BitVec 4) (on : Nat → Bool) (x : Src),
    s.guard h.guard = .ok on → s.vreg a.toNat = .ok x → Say.live s [d] →
    let size := esizeBytes sz
    let n := h.w.bits / (8 * size)
    let v := s.stream sb.toNat
    (∀ es u w, s.indexed sb size n false x.data on = .ok (es, u) → u.slotEnd = .ok w → Say.indexes s sb size n x.data on es ∧
      (d.toNat < 96 → ∃ t, exec (.vldx h d a sz sb) s = .next t ∧
        Say.loaded u t d 10 (es.flatMap fun e => (upto size).map fun k => (size * e.1 + k, e.2 + k)) x.marks.getLsbD)) ∧
    (∀ c, s.indexed sb size n false x.data on = .error c → exec (.vldx h d a sz sb) s = .next (s.raise c)) ∧
    (let illegal : Prop := bits 20 9 (s.sf sb.toNat 0) ≠ 0 ∨ v.buf = 1 ∨ v.buf = 3 ∨ (v.side = true ∧ v.buf ≠ 0)
     let outside : Prop := (v.buf = 2 ∧ v.off < 0x10000) ∨ v.limit ≤ v.off ∨ v.off % size ≠ 0
     (illegal → s.indexed sb size n false x.data on = .error 0x28) ∧
     (¬illegal → outside → s.indexed sb size n false x.data on = .error 0x2C) ∧
     (¬illegal → ¬outside →
       (∃ i, i < n ∧ on (size * i) = true ∧ v.limit < v.off + size * nbits (8 * size * i) (8 * size) x.data.toNat + size) →
       s.indexed sb size n false x.data on = .error 0x2C))

/-- R198, R201-R203, R266: VST and RQST push the bytes the guard enables to a group of their stream, PST a predicate to one unit, VSTX an
element to each address; they perform one cycle later, RQST two. -/
def Say.laneStores : Prop :=
  ∀ (s : State) (h : LHead) (d a : VCode) (p : BitVec 4) (q : BitVec 2) (sz : ESize) (sb : BitVec 4) (on : Nat → Bool),
    s.guard h.guard = .ok on →
    (∀ x as u v, s.vreg d.toNat = .ok x → s.claim (a.toNat - 112) (unitsOf h.w) = .ok (as, u) → u.slotEnd = .ok v →
      ∃ t, exec (.vst h d a) s = .next t ∧ Say.stored u t 1 (h.w.bits / 8) as on x.data x.marks ∧ t.t.mx = s.t.mx) ∧
    (∀ x as u v, on 0 = true → s.pred p = .ok x → s.claim (a.toNat - 112) 1 = .ok (as, u) → u.slotEnd = .ok v →
      ∃ t, exec (.pst h p a) s = .next t ∧ Say.stored u t 1 16 as (fun _ => true) (x.setWidth 1024) 0 ∧ t.t.mx = s.t.mx) ∧
    (∀ D m x as u v, h.w = .w1024 → s.t.mx.popHalf q.toNat = some (D, m, x) →
      (s.modMx fun _ => x).claim (a.toNat - 112) 8 = .ok (as, u) → u.slotEnd = .ok v →
      ∃ t, exec (.rqst h q a) s = .next t ∧ Say.stored u t 2 128 as on D m ∧ t.t.mx = x) ∧
    (s.t.mx.queue q.toNat = [] → exec (.rqst h q a) s = .next (s.raise 0x24)) ∧
    (∀ x y es u v, s.vreg a.toNat = .ok x → s.vreg d.toNat = .ok y →
      s.indexed sb (esizeBytes sz) (h.w.bits / (8 * esizeBytes sz)) false x.data on = .ok (es, u) → u.slotEnd = .ok v →
      ∃ t cs, exec (.vstx h d a sz sb) s = .next t ∧ Say.waiting s t 1 (.mem cs true) ∧ Say.laneKeeps u t 0 ∧ t.t.mx = s.t.mx ∧
        ∀ c, c ∈ cs ↔ ∃ e ∈ es, ∃ k, k < esizeBytes sz ∧
          c = (e.2 + k, bits (8 * (esizeBytes sz * e.1 + k)) 8 y.data, y.marks.getLsbD (esizeBytes sz * e.1 / 32)))

/-- R205-R208, R213, R401: a vector atomic acts on its elements in order, as one action: at issue (within t to t + 8, the model's choice, log 25),
or where older stores are in flight once they have landed, by t + 8; each element's word takes the result of the operation, no other byte
changes, and with RET the old values come back after 14 cycles. -/
def Say.vectorAtomics : Prop :=
  ∀ (s : State) (h : LHead) (d a v : VCode) (ret sz : Bool) (sb : BitVec 4) (on : Nat → Bool) (x b : Src) (u w z : State)
    (es : List (Nat × Nat)),
    s.guard h.guard = .ok on → s.vreg a.toNat = .ok x → v.toNat < 112 → s.src v h.w (fun _ => true) = .ok (b, u) →
    let n := if sz then 8 else 4
    u.indexed sb n (h.w.bits / (8 * n)) true x.data on = .ok (es, w) → w.slotEnd = .ok z →
    (ret = true → d.toNat < 96 ∧ d.toNat < 16 + s.t.ctl.depth) →
    ∀ k ∈ Say.vamos h d a ret sz sb v, ∀ c : Src, (if k.2 = AOp.cas then s.vreg d.toNat = .ok c else c = { data := 0, marks := 0 }) →
      let r := Say.acted k.2 n (fun i => nbits (8 * n * i) (8 * n) b.data.toNat) (fun i => nbits (8 * n * i) (8 * n) c.data.toNat) es
      let olds (g : LaneTarget) (mem : Nat → Byte) : Prop := ∃ m D e f, g = .vec (Say.phys s d.toNat) m D e f ∧
        (∀ i, i < 1024 → m.getLsbD i = es.any fun q => q.1 == i / (8 * n)) ∧ ∀ q ∈ (r mem).2, nbits (8 * n * q.1) (8 * n) D.toNat = q.2
      Say.indexes s sb n (h.w.bits / (8 * n)) x.data on es ∧
      ∃ t, exec k.1 s = .next t ∧ t.t.lane.v = s.t.lane.v ∧ t.t.lane.p = s.t.lane.p ∧ t.t.ctl = s.t.ctl ∧ t.t.mx = s.t.mx ∧
        (w.storesBefore (es.flatMap fun e => run e.2 n) = none →
          (∀ i, t.t.buf.byte i = (r s.t.buf.byte).1 i) ∧ (ret = false → t.t.lane.pending = s.t.lane.pending) ∧
          (ret = true → ∃ g, Say.waiting s t 14 g ∧ olds g s.t.buf.byte)) ∧
        (∀ due, w.storesBefore (es.flatMap fun e => run e.2 n) = some due → (∀ i, t.t.buf.byte i = s.t.buf.byte i) ∧
          ∃ q ∈ t.t.lane.pending, q.due = min due (s.cycle + 8) ∧ q.issued = s.cycle ∧ ∀ y : State,
            (∀ i, (y.landOne q).t.buf.byte i = (r y.t.buf.byte).1 i) ∧
            (ret = false → y.landRest q = []) ∧
            (ret = true → ∃ g, y.landRest q = [{ due := s.cycle + 14, issued := s.cycle, target := g }] ∧ olds g y.t.buf.byte))

/-! ### The FB slot (10_fabric.md R279, R283, R294-R297) -/

namespace Sys2Proof.Say

open Sys2Proof Sys2Proof.Machine

/-- R279, R283, R296: the flit of a windowed send: it takes one reservation and the next number, stays in the send store until it is
acknowledged, carries the bytes the guard enables and zero for the others, and leaves for its channel's tile. -/
def flitSent (u t : State) (ch : Byte) (dest : Nat) (w : Width) (on : Nat → Bool) (v : BitVec 1024) (k : BitVec 4) (typ : BitVec 4)
    (sem : Byte) : Prop :=
  ∃ f : Flit, sends u t dest (.flit f) ∧ f.typ = typ ∧ f.seq = (u.chan ch).nxt ∧ f.dch = chPch (u.chEnt ch) ∧ f.sem = sem ∧
    (∀ b, b < 128 → bits (8 * b) 8 f.payload = if b < w.bits / 8 ∧ on b = true then bits (8 * b) 8 v else 0) ∧
    (∀ g, g < 4 → f.psn.getLsbD g = (k.getLsbD g && decide (256 * g < w.bits))) ∧
    (t.chan ch).nxt = (u.chan ch).nxt + 1 ∧ (t.chan ch).rsv = (u.chan ch).rsv - 1 ∧ (t.chan ch).ack = (u.chan ch).ack ∧
    (∀ c, c ≠ ch → t.chan c = u.chan c) ∧
    t.t.fab.sendStore = u.t.fab.sendStore ++ [{ ch := ch, seq := (u.chan ch).nxt, flit := f, bad := false }] ∧
    t.t.lane = u.t.lane ∧ t.t.buf = u.t.buf ∧ t.t.mx = u.t.mx ∧ t.t.sync.sem = u.t.sync.sem ∧
    t.t.sync.esc = (u.t.sync.esc || u.t.sync.inph)

/-- R297: bytes received on their way to a destination: those that the guard enables. -/
def received (u t : State) (d : VCode) (w : Width) (on : Nat → Bool) (f : Flit) : Prop :=
  target u t d w 2 (fun b => decide (b < w.bits) && on (b / 8)) f.payload (fun g => f.psn.getLsbD g && decide (256 * g < w.bits))

end Sys2Proof.Say

/-- R283, R295, R296: FSEND, FSENDQ and FSENDS on a windowed channel of the region send one flit against one reservation; a channel that
is not one to send on is fault 0x64, a broken one 0x69, and no reservation 0x60; a register that is not live is refused first (R37). -/
def Say.channelSends : Prop :=
  ∀ (s : State) (h : LHead) (d : VCode) (q : BitVec 2) (ch sem : Byte),
    let e := s.userEnt ch
    (∀ k ∈ ([(.fsend h d ch, false, [d]), (.fsendq h q ch, false, []), (.fsends h d ch sem, true, [d])] : List (Instr × Bool × List VCode)),
      (¬ Say.live s k.2.2 → exec k.1 s = .next (s.raise 0x22)) ∧
      (Say.live s k.2.2 → (chV e = false ∨ chRecv e = true ∨ (k.2.1 = true ∧ chStatic e = true)) → exec k.1 s = .next (s.raise 0x64)) ∧
      (Say.live s k.2.2 → chV e = true → chRecv e = false → (k.2.1 = true → chStatic e = false) → (s.chan ch).brk = true →
        exec k.1 s = .next (s.raise 0x69))) ∧
    (chSendWin e = true → (s.chan ch).brk = false → chGw e = false → ∀ on dest, s.guard h.guard = .ok on →
      s.relTile (chX e) (chY e) = some dest →
      (∀ v u z, s.src d h.w on = .ok (v, u) → u.slotEnd = .ok z →
        ((s.chan ch).rsv ≠ 0 →
          (∃ t, exec (.fsend h d ch) s = .next t ∧ Say.flitSent u t ch dest h.w on v.data v.marks 1 0) ∧
          (∃ t, exec (.fsends h d ch sem) s = .next t ∧ Say.flitSent u t ch dest h.w on v.data v.marks 2 sem)) ∧
        ((s.chan ch).rsv = 0 → exec (.fsend h d ch) s = .next (s.raise 0x60) ∧ exec (.fsends h d ch sem) s = .next (s.raise 0x60))) ∧
      (∀ D m x z, s.t.mx.popHalf q.toNat = some (D, m, x) → s.slotEnd = .ok z → (s.chan ch).rsv ≠ 0 →
        ∃ t, exec (.fsendq h q ch) s = .next t ∧ Say.flitSent (s.modMx fun _ => x) t ch dest h.w on D m 1 0)) ∧
    (chV e = true → chRecv e = false → chStatic e = true → (s.chan ch).brk = false → chGw e = false → ∀ on dest v u z,
      s.guard h.guard = .ok on → s.relTile (chX e) (chY e) = some dest → s.src d h.w on = .ok (v, u) → u.slotEnd = .ok z →
      ∃ t f, exec (.fsend h d ch) s = .next t ∧ Say.sends u t dest (.flit f) ∧ f.typ = 0 ∧ f.seq = 0 ∧ (∀ c, t.chan c = u.chan c) ∧
        t.t.fab.sendStore = u.t.fab.sendStore)

/-- R283, R288, R297: FRECV takes the claimed flit that is next on a windowed channel, FRECVT the oldest stored on a static one, into a
register or a push after 2 cycles; nothing claimed is fault 0x61, nothing stored 0x62, an overrun 0x63, any other channel 0x64. -/
def Say.channelReceives : Prop :=
  ∀ (s : State) (h : LHead) (d : VCode) (ch : Byte) (on : Nat → Bool), s.guard h.guard = .ok on →
    let c := s.chan ch
    let e := s.userEnt ch
    (¬ Say.live s [d] → exec (.frecv h d ch) s = .next (s.raise 0x22) ∧ exec (.frecvt h d ch) s = .next (s.raise 0x22)) ∧
    (Say.live s [d] →
      (chRecvWin e = false → exec (.frecv h d ch) s = .next (s.raise 0x64)) ∧
      (chRecvStat e = false → exec (.frecvt h d ch) s = .next (s.raise 0x64)) ∧
      (chRecvWin e = true →
        ((c.clm = 0 ∨ ∀ x ∈ s.t.fab.recvStore, x.ch = ch → x.seq ≠ c.con) → exec (.frecv h d ch) s = .next (s.raise 0x61)) ∧
        (∀ x, s.t.fab.recvStore.find? (fun x => x.ch == ch && x.seq == c.con) = some x → c.clm ≠ 0 → x.bad = false → Say.room s d h.w →
          ∃ t, exec (.frecv h d ch) s = .next t ∧ Say.received s t d h.w on x.flit ∧ (t.chan ch).con = c.con + 1 ∧
            (t.chan ch).clm = c.clm - 1 ∧ (∀ y ∈ t.t.fab.recvStore, y.ch = ch → y.seq ≠ c.con) ∧
            (∀ k, k ≠ ch → t.chan k = s.chan k ∧ t.stored k = s.stored k) ∧ t.agenda = .auto s.here (.ack ch) :: s.agenda ∧
            t.t.lane.v = s.t.lane.v ∧ t.t.buf = s.t.buf ∧ t.t.sync.esc = (s.t.sync.esc || s.t.sync.inph))) ∧
      (chRecvStat e = true →
        (c.ovr = true → exec (.frecvt h d ch) s = .next (s.raise 0x63)) ∧
        (c.ovr = false → s.stored ch = [] → exec (.frecvt h d ch) s = .next (s.raise 0x62)) ∧
        (∀ x rest, c.ovr = false → s.stored ch = x :: rest → x.bad = false → Say.room s d h.w →
          ∃ t, exec (.frecvt h d ch) s = .next t ∧ Say.received s t d h.w on x.flit ∧ t.stored ch = rest ∧
            (∀ k, k ≠ ch → t.stored k = s.stored k) ∧ t.t.lane.v = s.t.lane.v ∧ t.t.buf = s.t.buf)))


/-! ### The MX slot and the matrix array (09_matrix.md R240-R272) -/

namespace Sys2Proof.Say

open Sys2Proof Sys2Proof.Machine

/-- R257: a slot that a guard enables or disables whole: the MX slot, PLD and PST; the checks that its decoding makes, in their order with
their faults, the registers it names, and the streams it names as sources and as destinations. -/
structure Whole where
  instr : Instr
  checks : List (Bool × Byte)
  codes : List VCode
  srcs : List VCode
  dsts : List VCode

/-- R37, R249, R251, R255, R258, R260-R265: the slots of R257 with what their decoding checks. -/
noncomputable def wholes (m : Mx) (g : OptGuard) (h : LHead) (a sc d : VCode) (fr q spm : BitVec 2) (row ix : BitVec 6) (r7 : BitVec 7)
    (nw sp au zero rst sat : Bool) (af bf : Fmt) (p : BitVec 4) : List Whole :=
  let dense := decide (m.spm = 0)
  let operand : Bool × Byte := (decide (m.af = .hb4 → 112 ≤ a.toNat), 0x22)
  let plane : Bool × Byte := (decide (if au then r7 = 0 else r7.toNat < if m.spm = 0 then 64 else 128), 0x22)
  let one (all : Bool) : Bool × Byte := (decide (all = true → row = 0), 0x22)
  [⟨.mpushb g sc au r7, [(decide (112 ≤ sc.toNat), 0x22), plane], [], [sc], []⟩, ⟨.mpushbz g au r7, [plane], [], [], []⟩,
   ⟨.mflip g, [], [], [], []⟩, ⟨.mpusha g a fr row nw, [(dense, 0x21), operand], [a], [a], []⟩,
   ⟨.mpushas g a fr row ix, [(!dense, 0x21), operand], [a, ix.setWidth 7], [a], []⟩,
   ⟨.mpushan g a fr nw sp ix, [(sp != dense, 0x21), (sp || decide (ix = 0), 0x22), operand], if sp then [a, ix.setWidth 7] else [a], [a], []⟩,
   ⟨.mshift g, [], [], [], []⟩, ⟨.mdrain g q fr au row, [one au], [], [], []⟩, ⟨.mdrainz g q fr au row, [one au], [], [], []⟩,
   ⟨.mzero g fr zero row, [one zero], [], [], []⟩, ⟨.mchk g d sat, [(decide (d.toNat < 96), 0x22)], [d], [], []⟩,
   ⟨.mcfg g af bf spm sat rst, [(mxPair af bf, 0x21)], [], [], []⟩, ⟨.pld { h with guard := g } p a, [], [], [a], []⟩,
   ⟨.pst { h with guard := g } p a, [], [], [], [a]⟩]

/-- R243, R247: a row enters the pipeline of the array: the rows before it have aged one beat, it is new, and its column totals are those
of its operand and the active plane. -/
def rowEntered (u t : State) (v : BitVec 1024) (sc : List Nat) (ix : Nat) (fr : BitVec 2) (row : BitVec 6) (fresh : Bool) : Prop :=
  ∃ x : MxRow, t.t.mx.rows = u.advance.t.mx.rows ++ [x] ∧ x.age = 0 ∧ x.frame = fr ∧ x.row = row ∧ x.fresh = fresh ∧ x.sinceFlip = true ∧
    (∀ n, n < 64 → (bits (32 * n) 32 x.totals).toNat =
      (u.t.mx.column (rowElems u.t.mx.af v sc) ix u.advance.free n).1 % 2 ^ 32) ∧
    t.t.mx.cells = u.t.mx.cells ∧ t.t.mx.scales = u.t.mx.scales ∧ t.t.mx.active = u.t.mx.active ∧ t.t.mx.srow = u.t.mx.srow ∧
    t.t.mx.drow = u.t.mx.drow ∧ t.t.lane = u.t.lane ∧ t.t.ctl = u.t.ctl

/-- A plane row after a load: its cells, and every cell of the other rows and of the other plane as before (R251, R252, R260). -/
def planeRow (s t : State) (l : Nat) (cells : Nat → Nat) : Prop :=
  (∀ n, n < 64 → (t.t.mx.cell (!s.t.mx.active) l n).toNat = cells n % 2 ^ 16) ∧
  (∀ k n, n < 64 → k < 128 → k ≠ l → t.t.mx.cell (!s.t.mx.active) k n = s.t.mx.cell (!s.t.mx.active) k n) ∧
  (∀ k n, n < 64 → k < 128 → t.t.mx.cell s.t.mx.active k n = s.t.mx.cell s.t.mx.active k n) ∧ t.t.mx.active = s.t.mx.active ∧
  t.t.mx.rows = s.t.mx.rows ∧ t.t.mx.rq = s.t.mx.rq

end Sys2Proof.Say

/-- R257, R37, R36: a slot whose guard is off as a whole does nothing but name its streams; what its decoding refuses is refused whatever the
guard: the first check that fails names the fault, then a name that is not live is fault 0x22. -/
def Say.wholeSlotsOff : Prop :=
  ∀ (s : State) (g : OptGuard) (h : LHead) (a sc d : VCode) (fr q spm : BitVec 2) (row ix : BitVec 6) (r7 : BitVec 7)
    (nw sp au zero rst sat : Bool) (af bf : Fmt) (p : BitVec 4),
    ∀ k ∈ Say.wholes s.t.mx g h a sc d fr q spm row ix r7 nw sp au zero rst sat af bf p,
      (∀ x, k.checks.find? (fun x => !x.1) = some x → exec k.instr s = .next (s.raise x.2)) ∧
      ((∀ x ∈ k.checks, x.1 = true) → ¬ Say.live s k.codes → exec k.instr s = .next (s.raise 0x22)) ∧
      ((∀ x ∈ k.checks, x.1 = true) → Say.live s k.codes →
        (∀ c, s.guard g = .error c → exec k.instr s = .next (s.raise c)) ∧
        (∀ on, s.guard g = .ok on → on 0 = false →
          (∀ u, (s.naming (streamCodes k.srcs) (streamCodes k.dsts)).slotEnd = .ok u → exec k.instr s = .next u) ∧
          (∀ c, (s.naming (streamCodes k.srcs) (streamCodes k.dsts)).slotEnd = .error c → exec k.instr s = .next (s.raise c))))

/-- R242, R243, R247, R249, R258, R259: the pushes enter one row each, into the frame row they name or, for MPUSHAN, the one MROW names,
which advances; MPUSHA serves dense planes, MPUSHAS sparse ones with a metadata register, else fault 0x21; MSHIFT only moves the rows
in flight. -/
def Say.matrixPushes : Prop :=
  ∀ (s : State) (g : OptGuard) (a : VCode) (fr : BitVec 2) (row ix : BitVec 6) (nw : Bool) (on : Nat → Bool),
    s.guard g = .ok on → on 0 = true →
    (s.t.mx.spm ≠ 0 → exec (.mpusha g a fr row nw) s = .next (s.raise 0x21) ∧ exec (.mpushan g a fr nw false ix) s = .next (s.raise 0x21)) ∧
    (s.t.mx.spm = 0 → exec (.mpushas g a fr row ix) s = .next (s.raise 0x21) ∧ exec (.mpushan g a fr nw true ix) s = .next (s.raise 0x21)) ∧
    (∀ v p sc u z, (s.t.mx.af = .hb4 → 112 ≤ a.toNat) → s.pushOperand a = .ok (v, p, sc, u) → u.slotEnd = .ok z →
      (s.t.mx.spm = 0 →
        (∃ t, exec (.mpusha g a fr row nw) s = .next t ∧ Say.rowEntered u t v sc 0 fr row nw ∧ t.t.mx.mrow = s.t.mx.mrow) ∧
        (∃ t, exec (.mpushan g a fr nw false 0) s = .next t ∧ Say.rowEntered u t v sc 0 fr s.t.mx.mrow nw ∧
          t.t.mx.mrow = s.t.mx.mrow + 1)) ∧
      (s.t.mx.spm ≠ 0 → ∀ m q, s.metadata ix = .ok (m, q) →
        (∃ t, exec (.mpushas g a fr row ix) s = .next t ∧ Say.rowEntered u t v sc m fr row false ∧ t.t.mx.mrow = s.t.mx.mrow) ∧
        (∃ t, exec (.mpushan g a fr nw true ix) s = .next t ∧ Say.rowEntered u t v sc m fr s.t.mx.mrow nw ∧
          t.t.mx.mrow = s.t.mx.mrow + 1))) ∧
    (∀ z, s.slotEnd = .ok z → ∃ t, exec (.mshift g) s = .next t ∧ t.t.mx.rows = s.advance.t.mx.rows ∧ t.t.mx.cells = s.t.mx.cells ∧
      t.t.mx.mrow = s.t.mx.mrow ∧ t.t.lane = s.t.lane)

/-- R243, R247, R248: a row that completes: a fresh one replaces its frame row, another is added to it word by word; no other byte
changes. -/
def Say.rowCompleted (s t : State) (x : MxRow) : Prop :=
  let a := 0x300000 + 256 * (64 * x.frame.toNat + x.row.toNat)
  (∀ i, i < a ∨ a + 256 ≤ i → t.t.buf.byte i = s.t.buf.byte i) ∧
  ∀ n, n < 64 → t.t.buf.word32 (a + 4 * n) =
    if x.fresh then bits (32 * n) 32 x.totals
    else BitVec.ofNat 32 (frameAdd (s.t.mx.af == .i8) s.t.mx.sat (((s.t.buf.touchRow (64 * x.frame.toNat + x.row.toNat)).1.word32
      (a + 4 * n)).toNat) (bits (32 * n) 32 x.totals).toNat).1

/-- R243, R134: a beat ages the rows in flight; at its 64th the oldest completes, in a bundle at the end of the cycle, once every slot has read
and every write has been performed. -/
def Say.matrixBeats : Prop :=
  ∀ (s : State) (x : MxRow) (rest : List MxRow),
    ((∀ y ∈ s.t.mx.rows, y.age < 63) → s.advance.t.mx.rows = s.t.mx.rows.map (fun y => { y with age := y.age + 1 }) ∧
      s.advance.t.buf = s.t.buf) ∧
    (s.t.mx.rows = x :: rest → x.age = 63 → (∀ y ∈ rest, y.age < 63) →
      s.advance.t.mx.rows = rest.map (fun y => { y with age := y.age + 1 }) ∧
      (s.bun.active = false → Say.rowCompleted s s.advance x) ∧
      (s.bun.active = true → s.advance.t.buf = s.t.buf ∧ s.advance.t.mx.done = s.t.mx.done ++ [{ x with age := 64 }])) ∧
    (s.t.mx.done = [x] → Say.rowCompleted s s.accumulate x ∧ s.accumulate.t.mx.done = [])

/-- R242, R247: the column total of a dense INT8 push is the sum, modulo 2^32, of the products of the 128 elements of the row with the
column's. -/
def Obligations.MatrixInt8Totals : Prop :=
  ∀ (m : Mx) (a : BitVec 1024) (sc : List Nat) (ix free n : Nat), n < 64 → m.af = .i8 → m.bf = .i8 → m.spm = 0 → m.broken = [] →
    ((m.column (rowElems m.af a sc) ix free n).1 : Int) =
      ((List.range 128).map fun j => (bits (8 * j) 8 a).toInt * (bits (8 * (j % 2)) 8 (m.cell m.active (j / 2) n)).toInt).sum % 2 ^ 32

/-- R251-R253, R260: MPUSHB decodes the record at its stream's position into a row of the shadow plane and moves past it; MPUSHBZ makes
the row zero; the active plane stays. A row outside the plane is fault 0x22, a row in flight from before the last MFLIP 0x26, a stream
that is no B stream 0x28, a malformed record 0x2F. -/
def Say.matrixPlaneLoads : Prop :=
  ∀ (s : State) (g : OptGuard) (sc : VCode) (au : Bool) (row : BitVec 7) (on : Nat → Bool) (z : State),
    s.guard g = .ok on → on 0 = true → s.slotEnd = .ok z →
    let m := s.t.mx
    let st := sc.toNat - 112
    let v := s.stream st
    let rows := if m.spm = 0 then 64 else 128
    let l := if au then m.srow.toNat % rows else row.toNat
    (l < rows → (au = true → row = 0) → (∀ x ∈ m.rows, x.sinceFlip = true) →
      (∃ t, exec (.mpushbz g au row) s = .next t ∧ Say.planeRow s t l (fun _ => 0) ∧
        t.t.mx.srow = (if au then BitVec.ofNat 7 ((l + 1) % rows) else m.srow)) ∧
      (112 ≤ sc.toNat → s.bStream st = false → exec (.mpushb g sc au row) s = .next (s.raise 0x28)) ∧
      (112 ≤ sc.toNat → s.bStream st = true → v.pos % 2 = 0 → v.pos + 2 ≤ v.rows * v.units → v.off + 16 * (v.pos + 2) ≤ 0x100000 →
        let at_ (k : Nat) := (upto (16 * k)).map fun i => s.latch.latchedAddr (v.off + 16 * v.pos + i)
        let head := recordHead (valueOf (s.latch.readAt (at_ 1)).1) (m.bf == .hb4) l
        let len := recordUnits head.1 head.2.1
        (head.2.2 = false → exec (.mpushb g sc au row) s = .next (s.raise 0x2F)) ∧
        (∀ y, head.2.2 = true → v.pos + len ≤ v.rows * v.units → v.off + 16 * (v.pos + len) ≤ 0x100000 →
          (s.naming [st] []).slotEnd = .ok y → ∃ t, exec (.mpushb g sc au row) s = .next t ∧
          Say.planeRow s t l (fun n => (recordCells (valueOf (s.latch.readAt (at_ len)).1) head.1 head.2.1).1.getD n 0) ∧
          (t.stream st).pos = v.after v.pos len % 2 ^ 32 ∧ t.t.mx.srow = (if au then BitVec.ofNat 7 ((l + 1) % rows) else m.srow)))) ∧
    (l < rows → (au = true → row = 0) → (∃ x ∈ m.rows, x.sinceFlip = false) → 112 ≤ sc.toNat →
      exec (.mpushbz g au row) s = .next (s.raise 0x26) ∧ exec (.mpushb g sc au row) s = .next (s.raise 0x26)) ∧
    (rows ≤ l → 112 ≤ sc.toNat → exec (.mpushbz g au row) s = .next (s.raise 0x22) ∧ exec (.mpushb g sc au row) s = .next (s.raise 0x22))

/-- R261-R267, R269, R241: MFLIP exchanges the planes; a drain moves a frame row into a result queue when its bundle ends, MDRAINZ and
MZERO clear rows; MCHK reads the array's status; MCFG sets formats and modes and clears the planes: an illegal pair is fault 0x21, a
row in flight 0x27, a full queue 0x25. -/
def Obligations.MatrixControl : Prop :=
  ∀ (s : State) (g : OptGuard) (d : VCode) (q fr spm : BitVec 2) (row : BitVec 6) (au al clr sat rst : Bool) (af bf : Fmt)
    (on : Nat → Bool) (z : State),
    s.guard g = .ok on → on 0 = true → s.slotEnd = .ok z →
    let m := s.t.mx
    (∃ t, exec (.mflip g) s = .next t ∧ t.t.mx.active = !m.active ∧ t.t.mx.cells = m.cells ∧ t.t.mx.scales = m.scales ∧
      t.t.mx.latched = none ∧ t.t.mx.sr.ck = m.sr.ck + 1 ∧ (∀ x ∈ t.t.mx.rows, x.sinceFlip = false) ∧
      (t.t.mx.rows.map fun x => { x with sinceFlip := true }) = (m.rows.map fun x => { x with sinceFlip := true }) ∧ t.t.mx.beatNow = m.beatNow ∧ t.t.buf = s.t.buf ∧ t.t.lane = s.t.lane) ∧
    (let r := if au then m.drow else row
     let a := 0x300000 + 256 * (64 * fr.toNat + r.toNat)
     (au = true → row = 0) → s.rowsAfter q.toNat < 8 → ∀ u y, s.access (run a 256) = .ok u → u.slotEnd = .ok y →
       ∀ k ∈ ([(.mdrain g q fr au row, false), (.mdrainz g q fr au row, true)] : List (Instr × Bool)),
         ∃ t x, exec k.1 s = .next t ∧ (s.bun.active = true → t.bun.drain = some (q.toNat, x) ∧ t.t.mx.rq = m.rq) ∧
           (s.bun.active = false → t.t.mx.queue q.toNat = m.queue q.toNat ++ [x]) ∧
           (∀ i, i < 256 → some (bits (8 * i) 8 x.data) = ((u.readAt (run a 256)).1[i]?).map Prod.fst) ∧
           (k.2 = true → ∀ i, i < 256 → t.t.buf.byte (a + i) = 0) ∧
           (k.2 = false → t.t.buf = (u.readAt (run a 256)).2.t.buf) ∧ t.t.mx.drow = (if au then r + 1 else m.drow)) ∧
    (8 ≤ s.rowsAfter q.toNat → (au = true → row = 0) → exec (.mdrain g q fr au row) s = .next (s.raise 0x25) ∧
      exec (.mdrainz g q fr au row) s = .next (s.raise 0x25)) ∧
    ((al = true → row = 0) → ∀ u y, s.access [0x300000 + 256 * (64 * fr.toNat + row.toNat)] = .ok u → u.slotEnd = .ok y →
      ∃ t, exec (.mzero g fr al row) s = .next t ∧ t.t.mx = m ∧ t.t.lane = s.t.lane ∧
        ∀ i, t.t.buf.byte i =
          if 0x300000 + 256 * (64 * fr.toNat + row.toNat) ≤ i ∧ i < 0x300000 + 256 * (64 * fr.toNat + row.toNat) + (if al then 16384 else 256)
          then 0 else s.t.buf.byte i) ∧
    (d.toNat < 96 → d.toNat < 16 + s.t.ctl.depth → ∃ t c, exec (.mchk g d clr) s = .next t ∧
      Say.waiting s t 1 (.vec (Say.phys s d.toNat) (BitVec.allOnes 1024) ((m.cfgWord ++ m.sr.word : BitVec 128).setWidth 1024) 0 c) ∧
      (clr = false → t.t.mx = m)) ∧
    (mxPair af bf = false → exec (.mcfg g af bf spm sat rst) s = .next (s.raise 0x21)) ∧
    (mxPair af bf = true → m.rows ≠ [] → exec (.mcfg g af bf spm sat rst) s = .next (s.raise 0x27)) ∧
    (mxPair af bf = true → m.rows = [] → ∃ t, exec (.mcfg g af bf spm sat rst) s = .next t ∧ t.t.mx.af = af ∧ t.t.mx.bf = bf ∧
      t.t.mx.spm = spm ∧ t.t.mx.sat = sat ∧ (∀ p l n, t.t.mx.cell p l n = 0 ∧ t.t.mx.scale p l n = 0) ∧ t.t.mx.pmarks = [] ∧ t.t.mx.rows = [] ∧
      t.t.mx.beatNow = m.beatNow ∧
      (rst = true → t.t.mx.srow = 0 ∧ t.t.mx.mrow = 0 ∧ t.t.mx.drow = 0) ∧
      (rst = false → t.t.mx.srow = m.srow ∧ t.t.mx.mrow = m.mrow ∧ t.t.mx.drow = m.drow) ∧ t.t.mx.rq = m.rq ∧ t.t.buf = s.t.buf)


/-! ### Exact reductions (11_exact_reduction.md R304-R331) -/

namespace Sys2Proof.Say

open Sys2Proof Sys2Proof.Machine

/-- R305: the local tile takes part in a reduction id. -/
def member (s : State) (id : BitVec 6) : Prop := reV (s.redEnt id) = true ∧ reL (s.redEnt id) = true ∧ s.barrierId id = false

/-- Only the state of one reduction id changes; the registers, the lanes' registers, the buffers and every other tile stay. -/
def roundOnly (s t : State) (id : BitVec 6) (c : Coll) : Prop :=
  t.coll id = c ∧ (∀ k, k ≠ id → t.coll k = s.coll k) ∧ t.t.red.table = s.t.red.table ∧ t.t.buf = s.t.buf ∧ t.t.lane.v = s.t.lane.v ∧
  t.t.lane.pending = s.t.lane.pending ∧ (∀ r, reg t r = reg s r) ∧ ∀ k, k ≠ s.here → t.tile k = s.tile k

/-- As `roundOnly`, and nothing is sent. -/
def round (s t : State) (id : BitVec 6) (c : Coll) : Prop := roundOnly s t id c ∧ t.net = s.net

/-- R322: the acknowledgement of a tree flit goes back over the edge at a port, and nothing else is sent. -/
def treeAcks (s t : State) (port : Nat) (f : CollFlit) (seq : BitVec 15) : Prop :=
  ∃ p, t.net = s.net ++ [p] ∧ p.dest = neighbour s.here port ∧ p.at_ = s.here ∧
    p.body = Body.treeAck (BitVec.ofNat 3 ((port + 2) % 4)) f.typ f.idx f.rnd seq

/-- R312: contributions that hold a slot of the allowance: a slot comes back in the cycle after the switch has combined it. -/
def holding (s : State) (c : Coll) : List (Nat × Option Nat) :=
  c.slots.filter fun k => match k.2 with
    | none => true
    | some d => decide (s.cycle ≤ d)

/-- R319: the switch still waits for the header of some child, or for the local round. -/
def incomplete (s : State) (id : BitVec 6) : Prop :=
  (∃ p ∈ reKids (s.redEnt id), ∀ h ∈ (s.coll id).heads, h.1 ≠ p) ∨
  (reL (s.redEnt id) = true ∧ ((s.coll id).state ≠ .opened ∨ (s.coll id).rnd ≠ (s.coll id).act))

/-- R314: a contribution of n elements that is taken: `lane` for one of the lanes. -/
def mayContribute (s : State) (id : BitVec 6) (n : Nat) (lane : Bool) : Prop :=
  member s id ∧ (s.coll id).state = .opened ∧ (s.coll id).src ≠ lane ∧ (s.coll id).cur + n ≤ (s.coll id).len ∧
  (lane = true → (holding s (s.coll id)).length < (s.coll id).nslot)

/-- R314, R315: elements stand behind those that the tile has given already, and count. -/
def contributed (s t : State) (id : BitVec 6) (xs : List (CElem × Bool)) (lane : Bool) : Prop :=
  let c := s.coll id
  round s t id { c with
    cur := c.cur + xs.length, inq := SMap.set [] c.inq 0 (SMap.get [] c.inq 0 ++ xs.map fun x => x.1)
    malformed := c.malformed || xs.any fun x => x.2, slots := holding s c ++ if lane then [(c.cur + xs.length, none)] else [] }

/-- R321, R324: a round ended by an abort: its code, and the completion state of the tile. -/
def abortedBy (s t : State) (id : BitVec 6) (code : Byte) : Prop :=
  (t.coll id).active = false ∧ (t.coll id).lv = true ∧ (t.coll id).last = (s.coll id).act ∧ (t.coll id).lastCode = code ∧
  ((s.coll id).state = .opened → (t.coll id).state = .aborted) ∧ (∀ k, k ≠ id → t.coll k = s.coll k)

/-- R322: a flit crosses the tree edge to the neighbour at a port, its generation filled in. -/
def edge (s t : State) (port : Nat) (f : CollFlit) : Prop :=
  ∃ p ∈ t.net, p.dest = neighbour s.here port ∧ p.at_ = s.here ∧
    p.body = Body.coll (BitVec.ofNat 3 ((port + 2) % 4)) { f with gen := s.genOf (neighbour s.here port) }

/-- R322: a flit for the tree edge at a port: an element or result flit crosses at once where fewer than 32 of its id are on their way, none
waits and those on their way are of its round (log 139), and waits where 32 are; any other flit crosses at once. -/
def treeSent (s t : State) (port : Nat) (f : CollFlit) : Prop :=
  let k := treeKey f.typ f.idx port
  let w := s.treeOut k
  ((numbered f = false ∨ (w.flying.length < 32 ∧ ∀ x ∈ w.q, numbered x.1 = true → x.2 = true ∧ x.1.rnd = f.rnd)) →
    s.t.fab.linkDown.getLsbD port = false → edge s t port f) ∧
  (numbered f = true → 32 ≤ w.flying.length → (f, false) ∈ (t.treeOut k).q)

end Sys2Proof.Say

/-- R313, R304, R318: COLLOPEN opens the round it names, reserves its slots and makes the entry active; the checks in their order are
faults 0xA0 and 0xA1; with too few slots free it waits, and COLLOPEN_RESERVE opens for it; a round that has already ended by an abort
leaves the tile aborted. -/
def Say.roundsOpen : Prop :=
  ∀ (s : State) (id : BitVec 6) (xa xb : XReg), s.hazard [xa, xb, xb ||| 1] = .none → s.granted .collopen = false →
    let a := s.x xa
    let b := s.x xb
    let w := s.x (xb ||| 1)
    let c := s.coll id
    let r := bits 48 16 b
    let fresh : Prop := ¬(c.lv = true ∧ r = c.last ∧ c.lastCode ≠ 0)
    let slots := (bits 20 9 b).toNat
    let opened (t : State) : Prop :=
      (t.coll id).state = .opened ∧ (t.coll id).rnd = r ∧ (t.coll id).len = (bits 32 16 b).toNat ∧ (t.coll id).cur = 0 ∧
      (t.coll id).src = bit 29 b ∧ (t.coll id).nslot = slots ∧ (t.coll id).de = bit 31 b ∧ (t.coll id).dst = a ∧
      (t.coll id).cwe = bit 30 b ∧ (t.coll id).cwl = w ∧ (t.coll id).active = true ∧ (t.coll id).act = r ∧
      t.t.red.store = s.t.red.store + slots ∧ (∀ k, k ≠ id → t.coll k = s.coll k) ∧ t.t.buf = s.t.buf
    ((reV (s.redEnt id) = false ∨ reL (s.redEnt id) = false) → exec (.collopen id xa xb) s = .next (s.raise 0xA0)) ∧
    (reV (s.redEnt id) = true → reL (s.redEnt id) = true →
      (s.barrierId id = true ∨ c.state = .opened ∨ (bits 32 16 b).toNat = 0 ∨ bits 0 20 b ≠ 0 ∨ (bit 29 b = true ∧ slots ≠ 0) ∨
        (bit 29 b = false ∧ (slots = 0 ∨ 256 < slots))) → exec (.collopen id xa xb) s = .next (s.raise 0xA1)) ∧
    (s.openFault id a b w = none →
      (fresh → (c.active = true → c.act = r) → s.t.red.store + slots ≤ 256 → reKids (s.redEnt id) ≠ [] → c.heads = [] →
        (∃ t, exec (.collopen id xa xb) s = .next t ∧ opened t ∧ t.t.sync.esc = (s.t.sync.esc || s.t.sync.inph)) ∧
        (Say.waitsFor s .collopen (.collopen id xa xb) →
          ∃ t, exec .collopenReserve s = .next t ∧ opened t ∧ t.t.ctl.waits = [] ∧ t.agenda = .control s.here :: s.agenda)) ∧
      (fresh → (c.active = true → c.act = r) → 256 < s.t.red.store + slots →
        exec (.collopen id xa xb) s = .next (s.stall .collopen (.collopen id xa xb)) ∧
        (Say.waitsFor s .collopen (.collopen id xa xb) → exec .collopenReserve s = .next s)) ∧
      (¬fresh → bit 30 b = false → ∃ t, exec (.collopen id xa xb) s = .next t ∧
        Say.round s t id { c with state := .aborted, rnd := r }) ∧
      (¬fresh → bit 30 b = true → ∀ p, s.localPlace w 8 = some p → ∃ t, exec (.collopen id xa xb) s = .next t ∧
        t.coll id = { c with state := .aborted, rnd := r } ∧
        ∀ k, k < 8 → t.t.buf.byte (p + k) = bits (8 * k) 8 (complWord r c.lastCode.toNat 4 c.lastFlags.toNat)))

/-- R314-R316, R266: COLLV contributes the elements of a lane source, the identity where the guard is off; COLLQ those of half a queue
row; COLLB waits until the switch has read its range. A contribution out of order is fault 0xA2, by a tile that takes no part 0xA0; one
to an aborted round is discarded. -/
def Say.contributions : Prop :=
  ∀ (s : State) (h : LHead) (d : VCode) (q : BitVec 2) (id : BitVec 6) (xa xb : XReg) (on : Nat → Bool), s.guard h.guard = .ok on →
    let e := s.redEnt id
    let n := h.w.bits / redBits (redFmt (reIn e))
    ((reV e = false ∨ reL e = false) →
      exec (.collv h d id) s = .next (s.raise 0xA0) ∧ exec (.collq h q id) s = .next (s.raise 0xA0)) ∧
    (n ≠ 0 → Say.incomplete s id → ∀ v u z, s.src d h.w (fun b => on (elemByte (redBits (redFmt (reIn e))) b)) = .ok (v, u) →
      u.slotEnd = .ok z →
      (Say.mayContribute s id n true → ∃ t, exec (.collv h d id) s = .next t ∧ Say.contributed u t id (laneElems e n on v) true) ∧
      (Say.member s id → (s.coll id).state = .aborted → ∃ t, exec (.collv h d id) s = .next t ∧ Say.round u t id (s.coll id)) ∧
      (Say.member s id → (s.coll id).state ≠ .aborted → ¬Say.mayContribute s id n true →
        exec (.collv h d id) s = .next (s.raise 0xA2))) ∧
    ((redFmt (reIn e) = .f32 ∨ redFmt (reIn e) = .i32) → Say.incomplete s id → ∀ D m x z, s.t.mx.popHalf q.toNat = some (D, m, x) →
      s.slotEnd = .ok z → Say.mayContribute s id 32 true → ∃ t, exec (.collq h q id) s = .next t ∧ t.t.mx = x ∧
        Say.contributed s t id (laneElems e 32 on { data := D, marks := m }) true) ∧
    (s.hazard [xa, xb] = .none → s.granted .collb = false →
      let k := (s.x xb).toNat
      (k ≠ 0 → Say.mayContribute s id k false → ∀ as, s.collbRange id (s.x xa) k = some as →
        exec (.collb id xa xb) s = .next (s.stall .collb (.collb id xa xb)) ∧
        (Say.waitsFor s .collb (.collb id xa xb) → Say.incomplete s id →
          let r := s.readAt as
          ∃ t, exec .collbReadComplete s = .next t ∧ Say.contributed r.2 t id (bufElems e r.1) false ∧ t.t.ctl.waits = [] ∧
            t.granted .collb = true ∧ t.agenda = .control s.here :: r.2.agenda)) ∧
      (k ≠ 0 → Say.mayContribute s id k false → s.collbRange id (s.x xa) k = none → exec (.collb id xa xb) s = .next (s.raise 0xA2)) ∧
      (Say.member s id → (s.coll id).state = .aborted → ∃ t, exec (.collb id xa xb) s = .next t ∧ Say.round s t id (s.coll id)))

/-- R317, R324: COLLABT at the root of a tree of one module aborts the open round with code 0xA8; COLLST reads the state of an id. -/
def Say.roundStatus : Prop :=
  ∀ (s : State) (id : BitVec 6) (xd : XReg), let c := s.coll id
    (reV (s.redEnt id) = false → exec (.collabt id) s = .next (s.raise 0xA0)) ∧
    (reV (s.redEnt id) = true → s.barrierId id = true → exec (.collabt id) s = .next (s.raise 0xA1)) ∧
    (reV (s.redEnt id) = true → s.barrierId id = false →
      (c.state ≠ .opened → ∃ t, exec (.collabt id) s = .next t ∧ Say.round s t id c) ∧
      (c.state = .opened → c.active = true → rePar (s.redEnt id) = 0 → reRing (s.redEnt id) = false → c.successor = none →
        ∃ t, exec (.collabt id) s = .next t ∧ Say.abortedBy s t id 0xA8 ∧ t.t.sync.esc = (s.t.sync.esc || s.t.sync.inph))) ∧
    ∃ v : Word, exec (.collst xd id) s = .next (s.setX xd v) ∧
      (c.cur < 2 ^ 16 → c.nslot < 512 →
        bit 63 v = reV (s.redEnt id) ∧ bits 61 2 v = (match c.state with
          | .idle => 0
          | .opened => 1
          | .aborted => 2) ∧ bit 60 v = c.active ∧ bit 59 v = c.abp ∧ bits 43 16 v = c.rnd ∧ (bits 27 16 v).toNat = c.cur ∧
        bits 11 16 v = c.last ∧ (bits 2 9 v).toNat = c.nslot - (Say.holding s c).length ∧ bit 1 v = c.lv)

/-- R319: sums and bitwise reductions of elements give one result in whatever order the elements come. -/
def Obligations.ReductionOrder : Prop :=
  ∀ (op : Nat) (f : Fmt) (as bs : List (La × Bool)), op < 4 → as.Perm bs →
    let elem (x : La × Bool) : CElem := { v := if op < 2 then sclEncode x.1 else x.1.v.setWidth 512, p := x.2 }
    redFold op f (as.map elem) = redFold op f (bs.map elem)

/-- R318-R320, R322: what arrives on a tree edge while the switch waits, in the order of its numbers: the first flit of a child is its header,
a later one its elements; a result flit goes on to every child and its elements to the destination; an idle entry becomes active; each is
acknowledged; a copy is acknowledged again and a flit out of order dropped; detour halves act as the flit they carry. -/
def Say.treeFlits : Prop :=
  ∀ (s : State) (port : BitVec 3) (f : CollFlit) (x y : DetourFlit),
    let id : BitVec 6 := f.idx.setWidth 6
    let c := s.coll id
    let e := s.redEnt id
    let seen (p : Nat) : Nat := SMap.get 0 c.exp p
    let counted (p : Nat) : List (Nat × Nat) := SMap.set 0 c.exp p (seen p + 1)
    let due (p : Nat) : Prop := f.seq = BitVec.ofNat 15 (seen p)
    let ahead (p : Nat) : Nat := (f.seq - BitVec.ofNat 15 (seen p)).toNat
    let mine : Prop := reL e = true ∧ c.state = .opened ∧ c.rnd = f.rnd
    (reV e = true → port.toNat ∈ reKids e → c.active = true → f.rnd = c.act → due port.toNat → Say.incomplete s id → (reL e = true → ¬mine) →
      ((∀ h ∈ c.heads, h.1 ≠ port.toNat) → reL e = true → ∃ t, exec (.collUpwardFlit port f) s = .next t ∧
        Say.roundOnly s t id { c with
          exp := counted port.toNat
          heads := c.heads ++ [(port.toNat, ((bits 0 32 f.payload).toNat, (bits 32 16 f.payload).toNat))] } ∧
        Say.treeAcks s t port.toNat f f.seq) ∧
      (∀ h, c.heads.find? (fun h => h.1 == port.toNat) = some h → ∃ t, exec (.collUpwardFlit port f) s = .next t ∧
        Say.roundOnly s t id { c with
          exp := counted port.toNat
          inq := SMap.set [] c.inq (port.toNat + 1) (SMap.get [] c.inq (port.toNat + 1) ++
            unpackElems (upBits e) (min (perFlit (upBits e)) (h.2.2 - (c.comb + (SMap.get [] c.inq (port.toNat + 1)).length)))
              f.payload f.psn) } ∧
        Say.treeAcks s t port.toNat f f.seq)) ∧
    ((reV e = false ∨ port.toNat ∉ reKids e) → exec (.collUpwardFlit port f) s = .next s) ∧
    (∀ i p, ((i = .collUpwardFlit port f ∧ p = port.toNat ∧ p ∈ reKids e) ∨ (i = .collResultFlit f ∧ rePar e = p + 1)) → reV e = true →
      (c.active = true → f.rnd = c.act → 1 ≤ ahead p → ahead p < 2 ^ 14 → exec i s = .next s) ∧
      (c.active = true → f.rnd = c.act → 2 ^ 14 ≤ ahead p → ∃ t, exec i s = .next t ∧ Say.roundOnly s t id c ∧
        Say.treeAcks s t p f (BitVec.ofNat 15 (seen p - 1))) ∧
      ((c.active = true → f.rnd ≠ c.act) → c.lv = true → f.rnd = c.last → ∃ t, exec i s = .next t ∧ Say.roundOnly s t id c ∧
        Say.treeAcks s t p f f.seq)) ∧
    (reV e = true → rePar e ≠ 0 → c.active = true → f.rnd = c.act → due (rePar e - 1) → mine → c.de = false →
      let n := min (perFlit (redBits (redFmt (reOut e)))) (c.len - c.resDone)
      c.resDone + n < c.len → ∃ t, exec (.collResultFlit f) s = .next t ∧ (t.coll id).resDone = c.resDone + n ∧
        (t.coll id).flags = c.flags ||| f.flags ∧ t.t.buf = s.t.buf ∧ ∀ p ∈ reKids e, Say.treeSent s t p f) ∧
    (reV e = true → rePar e ≠ 0 → c.active = true → f.rnd = c.act → due (rePar e - 1) → mine → c.de = true → c.cwe = false →
      c.successor = none → c.resDone + 1 = c.len → 0 < redBits (redFmt (reOut e)) →
      let n := redBits (redFmt (reOut e)) / 8
      let a := s.t.buf.addr (locBuf c.dst == .c) (locSide c.dst) (locOff c.dst + n * c.resDone)
      ∃ t, exec (.collResultFlit f) s = .next t ∧ (t.coll id).state = .idle ∧ (t.coll id).active = false ∧ (t.coll id).lv = true ∧
        (t.coll id).last = c.act ∧ (t.coll id).lastCode = 0 ∧ (∀ k, k < n → t.t.buf.byte (a + k) = bits (8 * k) 8 f.payload) ∧
        ∀ x, x < a ∨ a + n ≤ x → t.t.buf.byte x = s.t.buf.byte x) ∧
    (reV e = true → rePar e ≠ 0 → c.active = false → ¬(c.lv = true ∧ f.rnd = c.last) → f.seq = 0 → reL e = true → ¬mine →
      ∃ t, exec (.collResultFlit f) s = .next t ∧ (t.coll id).active = true ∧ (t.coll id).act = f.rnd ∧
        (t.coll id).flags = c.flags ||| f.flags ∧ t.t.buf = s.t.buf ∧ ∀ p ∈ reKids e, Say.treeSent s t p f) ∧
    ((reV e = false ∨ rePar e = 0) → exec (.collResultFlit f) s = .next s) ∧
    (x.half = false → ∃ t, exec (.detourFlitArrive port x) s = .next t ∧ SMap.find? t.t.red.halves port.toNat = some x ∧
      t.t.red.colls = s.t.red.colls ∧ t.t.buf = s.t.buf) ∧
    (y.half = true → SMap.find? s.t.red.halves port.toNat = some x →
      let u := s.modRed fun r => { r with halves := SMap.erase r.halves port.toNat }
      let w : Word := bits 512 64 y.payload
      let g : CollFlit := { typ := bits 60 4 w, idx := bits 53 7 w, gen := bits 45 8 w, rnd := bits 29 16 w, seq := bits 14 15 w
                            psn := bits 10 4 w, code := bits 0 8 w, flags := y.flags
                            payload := bits 0 512 y.payload ++ bits 0 512 x.payload }
      (g.typ = 4 → exec (.detourFlitArrive port y) s = exec (.collUpwardFlit port g) u) ∧
      (g.typ = 5 → exec (.detourFlitArrive port y) s = exec (.collResultFlit g) u) ∧
      (g.typ = 6 → exec (.detourFlitArrive port y) s = exec (.collAbortFlit port g) u) ∧
      (g.typ = 7 → exec (.detourFlitArrive port y) s =
        exec (if (bits 28 3 (s.bar g.idx).ent).toNat = port.toNat + 1 then .barrierReleaseFlit g else .barrierArrivedFlit port g) u))

/-- R318, R323, R324: the aborts: of the parent, of the round timer and of the grace timer, and what comes round a ring: a partial of
another module is sent on and held, an abort is sent on and ends the round. -/
def Say.roundAborts : Prop :=
  ∀ (s : State) (id : BitVec 6) (port : BitVec 3) (f : CollFlit) (x : Flit), f.idx.setWidth 6 = id →
    let c := s.coll id
    let e := s.redEnt id
    (reV e = true → c.active = true → f.rnd = c.act → rePar e = port.toNat + 1 → c.successor = none →
      f.code ≠ 0 → ∃ t, exec (.collAbortFlit port f) s = .next t ∧ Say.abortedBy s t id f.code ∧
        ∀ p ∈ reKids e,
          Say.treeSent s t p { typ := 6, idx := id.setWidth 7, gen := 0, rnd := c.act, seq := 0, psn := 0, code := f.code, flags := 0,
                               payload := 0 }) ∧
    (reV e = false → exec (.collAbortFlit port f) s = .next s) ∧
    (c.active = true → c.timer ≠ none → (∀ d, c.timer = some d → d ≤ s.cycle) → rePar e = 0 → reRing e = false → c.successor = none →
      ∃ t, exec (.roundTimerExpire id) s = .next t ∧ Say.abortedBy s t id 0xA7) ∧
    (c.active = true → c.timer ≠ none → (∀ d, c.timer = some d → d ≤ s.cycle) → rePar e ≠ 0 → c.abp = false →
      ∃ t, exec (.roundTimerExpire id) s = .next t ∧ (t.coll id).abp = true ∧ (t.coll id).abcode = 0xA7 ∧
        (t.coll id).active = true ∧ (t.coll id).grace = some (s.cycle + (if reTmr e = 0 then 2 ^ 20 else 2 ^ (reTmr e + 9)))) ∧
    ((c.active = false ∨ c.timer = none ∨ ∃ d, c.timer = some d ∧ s.cycle < d) → exec (.roundTimerExpire id) s = .next s) ∧
    (c.active = true → c.grace ≠ none → (∀ d, c.grace = some d → d ≤ s.cycle) → c.successor = none → c.abcode ≠ 0 →
      ∃ t, exec (.roundGraceExpire id) s = .next t ∧ Say.abortedBy s t id c.abcode) ∧
    ((c.active = false ∨ c.grace = none ∨ ∃ d, c.grace = some d ∧ s.cycle < d) → exec (.roundGraceExpire id) s = .next s) ∧
    (reV e = true → reRing e = true → c.active = true →
      let p := x.payload
      let k := (bits 528 12 p).toNat
      (bits 512 16 p = c.act → chMod (s.chEnt (reRch e)) = bits 528 12 p → Say.incomplete s id →
        (bits 540 4 p = 0 → ∃ t, exec (.ringPartialArrive id x) s = .next t ∧
          Say.round s t id { c with
            inq := SMap.set [] c.inq (16 + k) (SMap.get [] c.inq (16 + k) ++
              unpackElems (upBits e) (bits 560 8 p).toNat p ((bits 568 2 p).setWidth 4))
            ringCnt := SMap.put c.ringCnt k (bits 576 21 p).toNat
            heads := if c.heads.any (fun h => h.1 == 16 + k) then c.heads
              else c.heads ++ [(16 + k, ((bits 576 21 p).toNat, (bits 605 16 p).toNat))] }) ∧
        (bits 540 4 p = 1 → c.successor = none → bits 597 8 p ≠ 0 → ∃ t, exec (.ringAbortArrive id x) s = .next t ∧ Say.abortedBy s t id (bits 597 8 p))))

/-- R329, R330, R322: a child's report counts every episode up to its own, and the parent's release releases every episode up to its own,
each passed to every child; an older one changes nothing; each is acknowledged. -/
def Say.barrierFlits : Prop :=
  ∀ (s : State) (port : BitVec 3) (f : CollFlit),
    let b := s.bar f.idx
    let kids := (upto 4).filter fun p => bit (27 - p) b.ent
    let par := (bits 28 3 b.ent).toNat
    let n := (f.rnd + 1 - SMap.get 0 b.kids port.toNat).toNat
    let m := (f.rnd + 1 - b.done).toNat
    (b.ent.getLsbD 31 = true → port.toNat ∈ kids → ∃ t, exec (.barrierArrivedFlit port f) s = .next t ∧
      ((1 ≤ n ∧ n ≤ 32767 ∧ b.pend < ((b.sent - b.done).toNat + 1) * (bits 8 16 b.ent).toNat) ∨ n = 0 ∨ 32767 < n →
        t.bar f.idx = (if 1 ≤ n ∧ n ≤ 32767 then { b with kids := SMap.set 0 b.kids port.toNat (f.rnd + 1) } else b) ∧
        (∀ n, n ≠ f.idx → t.bar n = s.bar n) ∧ Say.treeAcks s t port.toNat f 0 ∧ t.t.buf = s.t.buf)) ∧
    ((b.ent.getLsbD 31 = false ∨ port.toNat ∉ kids) → exec (.barrierArrivedFlit port f) s = .next s) ∧
    (b.ent.getLsbD 31 = true → par ≠ 0 → 1 ≤ m → m ≤ 32767 → ∃ t, exec (.barrierReleaseFlit f) s = .next t ∧
      t.bar f.idx = { b with done := f.rnd + 1, pend := b.pend - m * (bits 8 16 b.ent).toNat } ∧ (∀ n, n ≠ f.idx → t.bar n = s.bar n) ∧
      ∀ j, j < m → ∀ p ∈ kids, s.t.fab.linkDown.getLsbD p = false →
        Say.edge s t p { typ := 7, idx := f.idx, gen := 0, rnd := b.done + BitVec.ofNat 16 j, seq := 0, psn := 0, code := 0, flags := 0
                         payload := 0 }) ∧
    (b.ent.getLsbD 31 = true → par ≠ 0 → m = 0 ∨ 32767 < m → ∃ t, exec (.barrierReleaseFlit f) s = .next t ∧ (∀ n, t.bar n = s.bar n) ∧
      Say.treeAcks s t (par - 1) f 0) ∧
    ((b.ent.getLsbD 31 = false ∨ par = 0) → exec (.barrierReleaseFlit f) s = .next s)


/-! ### The fabric at work (10_fabric.md R274-R292) -/

/-- R275, R276, R279, R291, R292: a packet whose cycle has come crosses one link by the routing table of its switch, λ + 2 cycles; one whose
link CRC does not agree costs 2λ + 2 and is sent again from the last 8 flits of its output, and the fourth failure takes the link out of
service; at its tile it is delivered; one with a stale generation, or for a tile that is moving to a spare, is answered with a negative
acknowledgement. -/
def Say.packetHops : Prop :=
  ∀ (s : State) (id : Nat) (p : Packet) (f : Flit) (noise : LinkNoise), s.net.find? (fun p => p.id == id) = some p →
    (s.cycle < p.due → exec (.linkFlitReceive id noise) s = .next s) ∧
    (p.due ≤ s.cycle → p.via = none → p.body = .flit f →
      let gone : State := { s with net := s.net.filter fun q => q.id != id }
      let moved : Prop := p.at_ = p.dest ∧ p.src ≠ p.dest ∧ s.moving p.dest = true
      (p.gen ≠ s.genOf p.dest ∨ moved → f.typ ≠ 0 → ∃ n, exec (.linkFlitReceive id noise) s =
        .next { gone with agenda := .auto p.src (.nak n) :: s.agenda } ∧ n.dest = p.dest ∧ n.via = none ∧ n.body = p.body) ∧
      (p.gen ≠ s.genOf p.dest ∨ moved → f.typ = 0 → exec (.linkFlitReceive id noise) s = .next gone) ∧
      (p.gen = s.genOf p.dest →
        let sw := (s.tile p.at_).fab
        let e := routeEntry sw.cols sw.rows p.at_ p.dest
        let port := (bits 0 3 e).toNat
        let l := s.latency p.at_ (port - 1)
        let held := p.id ∈ SMap.get [] sw.retry (port - 1)
        let disagrees := linkCrc (flitWord f ^^^ noise.sb) (f.payload ^^^ noise.pl) ≠ linkCrc (flitWord f) f.payload ^^^ noise.crc
        let noted (t : State) : Prop := ∃ k, SMap.get [] (t.tile p.at_).fab.retry (port - 1) = k ∧ k.length ≤ 8 ∧ k.getLast? = some p.id
        (p.at_ ≠ p.dest → e.getLsbD 3 = true → 1 ≤ port → port ≤ 4 → sw.linkDown.getLsbD (port - 1) = false →
          (p.fails = 0 ∨ held →
            (∃ t, exec (.linkFlitReceive id noNoise) s = .next t ∧ noted t ∧ t.net = s.net.map fun q => if q.id == id then
              { p with at_ := neighbour p.at_ (port - 1), due := s.cycle + l + 2, fails := 0 } else q) ∧
            (disagrees → p.fails + 1 < 4 → ∃ t, exec (.linkFlitReceive id noise) s = .next t ∧ noted t ∧
              t.net = s.net.map fun q => if q.id == id then { p with due := s.cycle + 2 * l + 2, fails := p.fails + 1 } else q) ∧
            (disagrees → 4 ≤ p.fails + 1 → ∃ t, exec (.linkFlitReceive id noise) s = .next t ∧
              (t.tile p.at_).fab.linkDown.getLsbD (port - 1) = true ∧ ∀ q ∈ t.net, q.id ≠ id ∧ q ∈ s.net)) ∧
          (p.fails ≠ 0 → ¬held → exec (.linkFlitReceive id noise) s = .next gone)) ∧
        (p.at_ = p.dest → ¬moved → ∀ t,
          let u : State := { gone with here := p.dest }
          u.region.isSome = true →
          (f.typ ≠ 0 → exec (.channelFlitArrive f) u = .next t → exec (.linkFlitReceive id noise) s = .next { t with here := s.here }) ∧
          (f.typ = 0 → exec (.staticFlitArrive f) u = .next t → exec (.linkFlitReceive id noise) s = .next { t with here := s.here }))))

/-- R276: the default route of a switch goes along its row, the shorter way round and east on a tie, then along its column. -/
def Say.defaultRoutes : Prop :=
  ∀ (a b : Nat), a < 5544 → b < 5544 →
    let e := routeEntry [] [] a b
    let right := (b % 84 + 84 - a % 84) % 84
    let down := (b / 84 + 66 - a / 84) % 66
    e = if right ≠ 0 then (if right ≤ 42 then 8 + 2 else 8 + 4) else if down ≠ 0 then (if down ≤ 33 then 8 + 3 else 8 + 1) else 8

/-- R283, R284, R288, R423, R433: the flit a windowed channel expects is stored and counted, and adds to its semaphore after the lanes and the
control slice of its cycle have acted; any other is dropped.
A static channel stores up to WIN flits and then marks the overrun. -/
def Say.channelArrivals : Prop :=
  ∀ (s : State) (f : Flit), let ch := f.dch
    let c := s.chan ch
    (s.ringOf? ch = none →
      (chRecvWin (s.chEnt ch) = true → f.seq = c.exp →
        ∃ t, exec (.channelFlitArrive f) s = .next t ∧ t.chan ch = { c with exp := c.exp + 1, avl := c.avl + 1 } ∧
          (∀ k, k ≠ ch → t.chan k = s.chan k) ∧
          t.t.fab.recvStore = s.t.fab.recvStore ++ [{ ch := ch, seq := f.seq, flit := f, bad := false }] ∧
          t.t.sync.semIn = s.t.sync.semIn ++ (if f.typ = 2 then [f.sem] else []) ∧ (∀ n, t.sem n = s.sem n) ∧ t.t.buf = s.t.buf ∧ t.t.lane = s.t.lane ∧ (∀ r, Say.reg t r = Say.reg s r)) ∧
      (chRecvWin (s.chEnt ch) = true → f.seq ≠ c.exp →
        exec (.channelFlitArrive f) s = .next (if 1 ≤ (c.exp - f.seq).toNat ∧ (c.exp - f.seq).toNat ≤ 32768 then
          { s with agenda := .auto s.here (.ack ch) :: s.agenda } else s)) ∧
      (chRecvWin (s.chEnt ch) = false → exec (.channelFlitArrive f) s = .next s)) ∧
    (∀ k, s.t.sync.semIn = [k] → s.takeFsends.sem k = BitVec.ofNat 16 (Min.min ((s.sem k).toNat + 1) 65535) ∧
      s.takeFsends.t.sync.semIn = [] ∧ ∀ n, n ≠ k → s.takeFsends.sem n = s.sem n) ∧
    (chRecvStat (s.chEnt ch) = true → (s.stored ch).length < chWin (s.chEnt ch) →
      ∃ t, exec (.staticFlitArrive f) s = .next t ∧
        t.t.fab.recvStore = s.t.fab.recvStore ++ [{ ch := ch, seq := 0, flit := f, bad := false }] ∧ (∀ k, t.chan k = s.chan k) ∧
        t.t.buf = s.t.buf ∧ t.t.lane = s.t.lane) ∧
    (chRecvStat (s.chEnt ch) = true → chWin (s.chEnt ch) ≤ (s.stored ch).length →
      ∃ t, exec (.staticFlitArrive f) s = .next t ∧ t.chan ch = { c with ovr := true } ∧ t.t.fab.recvStore = s.t.fab.recvStore) ∧
    (chRecvStat (s.chEnt ch) = false → exec (.staticFlitArrive f) s = .next s)

/-- R283, R284, R292: acknowledgements: the receiver sends CON - 1 to the sender; one that covers flits in flight frees them; a channel
on which nothing has moved for 2^14 cycles sends every flit of its send store again. -/
def Say.channelAcknowledgements : Prop :=
  ∀ (s : State) (ch : Byte) (a : BitVec 16), let c := s.chan ch
    let e := s.chEnt ch
    (chRecvWin e = true → chGw e = false → ∀ dest, s.relTile (chX e) (chY e) = some dest →
      ∃ t, exec (.channelAckSend ch) s = .next t ∧ Say.sends s t dest (.ack (chPch e) (c.con - 1)) ∧ t.t = s.t) ∧
    (chRecvWin e = false → exec (.channelAckSend ch) s = .next s) ∧
    (let n := (a + 1 - c.ack).toNat
     (chSendWin e = true → n ≠ 0 → n ≤ c.inf → (∀ x ∈ s.t.red.table, reRing x.2 = false) →
       ∃ t, exec (.channelAckArrive ch a) s = .next t ∧ t.chan ch = { c with ack := a + 1, moved := s.cycle } ∧
         (∀ k, k ≠ ch → t.chan k = s.chan k) ∧
         (∀ x, x ∈ t.t.fab.sendStore ↔ x ∈ s.t.fab.sendStore ∧ ¬(x.ch = ch ∧ (x.seq - c.ack).toNat < n)) ∧
         t.t.fab.recvStore = s.t.fab.recvStore ∧ t.net = s.net) ∧
     ((chSendWin e = false ∨ n = 0 ∨ c.inf < n) → exec (.channelAckArrive ch a) s = .next s)) ∧
    ((chSendWin e = false ∨ c.inf = 0 ∨ s.cycle < c.moved + 16384) → exec (.channelResendTimeout ch) s = .next s) ∧
    (chSendWin e = true → c.inf ≠ 0 → c.moved + 16384 ≤ s.cycle → chGw e = false → ∀ dest x,
      s.relTile (chX e) (chY e) = some dest → s.t.fab.sendStore.filter (fun x => x.ch == ch) = [x] →
      ∃ t, exec (.channelResendTimeout ch) s = .next t ∧ (t.chan ch).moved = s.cycle ∧ t.t.fab.sendStore = s.t.fab.sendStore ∧
        Say.sends s t dest (.flit { x.flit with gen := s.genOf dest }))

/-- R276, R292: a negative acknowledgement is counted on its channel, which is broken where the destination is retired with no successor;
with the new generation loaded the request, the flits of the channel or those in flight on the tree edge are sent again, not while the
tile is moving. A set of routing tables that is acceptable is loaded whole, any other is not. -/
def Say.staleGenerations : Prop :=
  ∀ (s : State) (n : Nak) (tabs : RouteSet),
    (∀ ch, n.ch = some ch → (n.via = none → s.ctrl.deadTiles.contains (s.home n.dest) = false) →
      ∃ t, exec (.nakArrive n) s = .next t ∧ (t.chan ch).nak.toNat = Min.min ((s.chan ch).nak.toNat + 1) 63 ∧
        t.t.fab.naked = s.t.fab.naked ++ [n] ∧ t.agenda = .auto s.here (.gen n) :: s.agenda) ∧
    (∀ ch, n.ch = some ch → n.via = none → s.ctrl.deadTiles.contains (s.home n.dest) = true →
      ∃ t, exec (.nakArrive n) s = .next t ∧ (t.chan ch).brk = true ∧ t.t.fab.naked = s.t.fab.naked) ∧
    (n ∉ s.t.fab.naked ∨ s.moving n.dest = true → exec (.generationResend n) s = .next s) ∧
    (n ∈ s.t.fab.naked → s.moving n.dest = false →
      (n.via = none → (∃ r, n.body = .winch r) ∨ (∃ r, n.body = .ramo r) →
        ∃ t, exec (.generationResend n) s = .next t ∧ Say.sends s t n.dest n.body ∧
          ∀ m, m ∈ t.t.fab.naked ↔ m ∈ s.t.fab.naked ∧ m ≠ n) ∧
      (∀ f ch dest x, n.body = .flit f → n.ch = some ch → chGw (s.chEnt ch) = false →
        s.relTile (chX (s.chEnt ch)) (chY (s.chEnt ch)) = some dest → s.t.fab.sendStore.filter (fun x => x.ch == ch) = [x] →
        ∃ t, exec (.generationResend n) s = .next t ∧ Say.sends s t dest (.flit { x.flit with gen := s.genOf dest }) ∧
          ∀ m ∈ t.t.fab.naked, m.ch = some ch → ∀ g, m.body ≠ .flit g) ∧
      (∀ port f, n.body = .coll port f → let k := (port.toNat + 2) % 4
        ∃ t, exec (.generationResend n) s = .next t ∧
          ∀ x ∈ (s.treeOut (treeKey f.typ f.idx k)).q, x.2 = true → s.t.fab.linkDown.getLsbD k = false → Say.edge s t k x.1)) ∧
    (s.routesOk tabs = false → exec (.routeTableLoad tabs) s = .next s) ∧
    (s.routesOk tabs = true → ∃ t, exec (.routeTableLoad tabs) s = .next t ∧ t.net = s.net ∧ t.far = s.far ∧
      ∀ k, k < 5544 → (t.tile k).fab.cols = (tableOf tabs k).1 ∧ (t.tile k).fab.rows = (tableOf tabs k).2 ∧
        (t.tile k).buf = (s.tile k).buf ∧ (t.tile k).fab.chans = (s.tile k).fab.chans ∧ (t.tile k).ctl = (s.tile k).ctl)


/-! ### Optical ports (12_leaving_module.md R333-R344) -/

namespace Sys2Proof.Say

open Sys2Proof Sys2Proof.Machine

/-- A port takes a state; the other ports, the tiles, the fabric, far memory and the host side stay. -/
def port (s t : State) (n : Nat) (q : Port) : Prop :=
  SMap.find? t.ports n = some q ∧ (∀ m, m ≠ n → SMap.find? t.ports m = SMap.find? s.ports m) ∧ t.tiles = s.tiles ∧ t.net = s.net ∧
  t.far = s.far ∧ t.host = s.host

/-- R337, R338: what an acknowledgement covers leaves the replay buffer. -/
def acked (p : Port) (a : Nat) : Port :=
  let n := (a + 1 + 65536 - p.oldest) % 65536
  if 1 ≤ n ∧ n ≤ p.replay.length then
    { p with
      oldest := (a + 1) % 65536, replay := p.replay.drop n, restarts := 0
      sent := p.sent.drop (p.sent.length - (p.replay.length - n + 2) / 3) }
  else p

/-- R335: the receiver counts the 16 beats of a flit. -/
def heard (p : Port) : Port := { p with rxBeat := p.rxBeat + 16 }

/-- R334, R335, R337: a port sends one flit, which acknowledges the last number it received in order, as 16 beats on its lit wavelengths; an
IDLE puts off the next one. -/
def sentFlit (p : Port) (now typ seq : Nat) (payload : BitVec 512) : Port :=
  let f := mkOpt typ seq ((p.expect + 65535) % 65536) payload
  { p with
    out := p.out ++ [f], wire := onWire p.groupsOut p.beat f, beat := p.beat + 16
    idleDue := if typ = 0 then now + 240 else p.idleDue }

/-- A good flit of a type reaches a port that is up and has no record to send. -/
def arrives (s : State) (n : Nat) (p : Port) (f : OptFlit) (typ : Nat) : Prop :=
  SMap.find? s.ports n = some p ∧ p.up = true ∧ p.records = [] ∧ optGood f = true ∧ optTyp f = typ

/-- The bytes of a payload. -/
def payloadBytes (f : OptFlit) : Bytes := (upto 64).map fun j => bits (8 * j) 8 f.payload

/-- R341, R343, R351: a port is down, and event 0xC1 says so to every function's ring 0. -/
def portLost (s t : State) (n : Nat) (cause : Byte) : Prop :=
  (∃ q, SMap.find? t.ports n = some q ∧ q.up = false ∧ q.training = false ∧ q.replay = [] ∧ q.records = [] ∧ q.stream = []) ∧
  (s.host.pend = [] → s.host.deferred = [] → (∀ e ∈ s.tiles, e.2.winch.running = []) → ∀ f : BitVec 2,
    ∃ e ∈ t.host.pend, e.code = 0xC1 ∧ e.fn = f ∧ e.ring = 0 ∧ e.arg0 = BitVec.ofNat 64 (n + 256 * cause.toNat))

end Sys2Proof.Say

/-- R334, R335: the header of a flit: TYPE, SEQ and ACK in their places, and a CRC that the receiver finds good; a flit is 16 beats of 36 bits,
and beat B goes on the wavelength at position B mod n of the n lit ones. -/
def Say.opticalFlits : Prop :=
  (∀ (typ seq ack : Nat) (payload : BitVec 512), typ ≤ 6 → seq < 2 ^ 16 → ack < 2 ^ 16 →
    let f := mkOpt typ seq ack payload
    optGood f = true ∧ (bits 60 4 f.hdr).toNat = typ ∧ (bits 44 16 f.hdr).toNat = seq ∧ (bits 28 16 f.hdr).toNat = ack ∧
    f.payload = payload) ∧
  (∀ f : OptFlit, joinBeats (optBeats f) = f ∧ (optBeats f).length = 16) ∧
  ∀ (f : OptFlit) (g : BitVec 4) (b k : Nat), k < 16 →
    let lit := (List.range 16).filter fun l => g.getLsbD (l / 4)
    (onWire g b f)[k]? = some (lit.getD ((b + k) % lit.length) 0, (f.hdr ++ f.payload).extractLsb' (36 * k) 36)

/-- R337, R339: the DATA flit a port expects is accepted, any other is not: one from ahead, or one whose CRC is bad, is asked for again,
at most once in 2400 cycles; IDLE only acknowledges, and is sent after 240 cycles of silence. -/
def Say.opticalTraffic : Prop :=
  ∀ (s : State) (n : Nat) (f : OptFlit) (p : Port),
    let d := (optSeq f + 65536 - p.expect) % 65536
    let q := Say.acked (Say.heard p) (optAck f)
    let asked (p : Port) : Port := if s.cycle < p.hold then p else
      { Say.sentFlit p s.cycle 2 0 (BitVec.ofNat 512 p.expect) with hold := s.cycle + 2400 }
    (Say.arrives s n p f 1 → p.discard = false →
      (d = 0 → p.stream = [] → optByte f 0 = 0 → ∃ t, exec (.opticalDataFlit n f) s = .next t ∧
        Say.port s t n { q with expect := (p.expect + 1) % 65536, hold := 0 }) ∧
      (d = 0 → p.stream = [] → optByte f 0 = 1 → ∃ t, exec (.opticalDataFlit n f) s = .next t ∧
        Say.port s t n { q with expect := (p.expect + 1) % 65536, hold := 0, stream := Say.payloadBytes f }) ∧
      (d = 0 → p.stream.length = 128 → optByte f 16 = 0 →
        let v : Port := { q with expect := (p.expect + 1) % 65536, hold := 0 }
        let u : State := { s with ports := SMap.put (SMap.put (SMap.put s.ports n q) n v) n { v with stream := [] } }
        exec (.opticalDataFlit n f) s = .next (u.recordIn n (p.stream ++ (Say.payloadBytes f).take 16))) ∧
      (32768 ≤ d → ∃ t, exec (.opticalDataFlit n f) s = .next t ∧ Say.port s t n q) ∧
      (0 < d → d < 32768 → ∃ t, exec (.opticalDataFlit n f) s = .next t ∧ Say.port s t n (asked q))) ∧
    (Say.arrives s n p f 1 → p.discard = true → ∃ t, exec (.opticalDataFlit n f) s = .next t ∧ Say.port s t n q) ∧
    (SMap.find? s.ports n = some p → p.up = true → p.discard = false → optGood f = false →
      ∃ t, exec (.opticalDataFlit n f) s = .next t ∧ Say.port s t n (asked (Say.heard p))) ∧
    (Say.arrives s n p f 0 → ∃ t, exec (.opticalIdleFlit n f) s = .next t ∧ Say.port s t n q) ∧
    (SMap.find? s.ports n = some p → p.up = true →
      (p.idleDue ≤ s.cycle → ∃ t, exec (.idleSendTimer n) s = .next t ∧ Say.port s t n (Say.sentFlit p s.cycle 0 0 0)) ∧
      (s.cycle < p.idleDue → exec (.idleSendTimer n) s = .next s))

/-- R282, R339: a record for this module with a gateway flit enters the fabric for the tile that has the channel; a record that is not
for this module, or malformed, is event 0xC2. -/
def Say.opticalRecords : Prop :=
  ∀ (s : State) (n : Nat) (r : Bytes),
    let w : Word := BitVec.ofNat 64 (leAt 0 8 r)
    let f := flitOf (BitVec.ofNat 64 (leAt 8 8 r)) (BitVec.ofNat 1024 (leAt 16 128 r))
    (((bits 8 4 w).toNat < 2 ∨ 9 < (bits 8 4 w).toNat ∨ bits 24 12 w ≠ s.ctrl.modno ∨ bits 36 28 w ≠ 0) → s.host.pend = [] →
      ∀ k : BitVec 2, ∃ e ∈ (s.recordIn n r).host.pend, e.code = 0xC2 ∧ e.fn = k ∧ e.ring = 0 ∧ e.arg1 = w) ∧
    (((bits 8 4 w).toNat = 8 ∨ (bits 8 4 w).toNat = 9) → bits 24 12 w = s.ctrl.modno → bits 36 28 w = 0 →
      (s.gatewayTile (bits 12 12 w) f = none → s.recordIn n r = s) ∧
      ∀ t, s.gatewayTile (bits 12 12 w) f = some t → ∃ p : Packet, (s.recordIn n r).net = s.net ++ [p] ∧ p.dest = t ∧ p.body = .flit f ∧
        p.at_ = s.portTile n ∧ (s.recordIn n r).tiles = s.tiles)

/-- R338: REPLAY has every unacknowledged flit from a number on sent again, in order; so does the age of the oldest; the third restart with
no progress retrains the port, which goes down if it has not trained within 1 ms. -/
def Say.opticalReplay : Prop :=
  ∀ (s : State) (n : Nat) (f : OptFlit) (p : Port) (x : OptFlit × Nat) (rest : List (OptFlit × Nat)),
    (Say.arrives s n p f 2 →
      let q := Say.acked (Say.heard p) (optAck f)
      let k := (nbits 0 16 f.payload.toNat + 65536 - q.oldest) % 65536
      k ≤ q.replay.length → ∃ t r, exec (.opticalReplayFlit n f) s = .next t ∧ Say.port s t n r ∧
        r.out = q.out ++ (q.replay.drop k).map (fun y => mkOpt 1 (optSeq y.1) ((q.expect + 65535) % 65536) y.1.payload) ∧
        r.replay.map Prod.fst = q.replay.map Prod.fst ∧ r.oldest = q.oldest ∧ r.nextSeq = q.nextSeq) ∧
    (SMap.find? s.ports n = some p →
      ((p.replay = [] ∨ p.up = false ∨ p.training = true) → exec (.replayAgeTimeout n) s = .next s) ∧
      (p.replay = x :: rest → p.up = true → p.training = false →
        (s.cycle < x.2 + 24000 → exec (.replayAgeTimeout n) s = .next s) ∧
        (x.2 + 24000 ≤ s.cycle → ∃ t r, exec (.replayAgeTimeout n) s = .next t ∧ SMap.find? t.ports n = some r ∧
          r.out = p.out ++ (x :: rest).map (fun y => mkOpt 1 (optSeq y.1) ((p.expect + 65535) % 65536) y.1.payload) ∧
          r.restarts = p.restarts + 1 ∧ r.training = decide (2 ≤ p.restarts) ∧ (r.training = true → r.trainDue = s.cycle + 1200000))) ∧
      (p.training = true → p.trainDue ≤ s.cycle → ∃ t, exec (.retrainTimeout n) s = .next t ∧ Say.portLost s t n 0xC4) ∧
      ((p.training = false ∨ s.cycle < p.trainDue) → exec (.retrainTimeout n) s = .next s))

/-- R333, R338, 01_module.md R22: a port with a live tile that trains with a peer's port no other port has records its peer, has sent its own
module and port number, and starts with every group lit and numbers at 0; one that retrains with the same peer keeps its numbers and sends
what is unacknowledged again; any other port does not train. -/
def Say.opticalTraining : Prop :=
  ∀ (s : State) (n : Nat) (m : BitVec 12) (k : Nat),
    let may : Prop := n < 24 ∧ (∃ x ∈ portTiles n, s.tileLive x = true) ∧
      ∀ e ∈ s.ports, e.1 ≠ n → e.2.up = true ∨ e.2.training = true → e.2.peer ≠ some (m, k)
    let starts (q : Port) : Prop := q.peer = some (m, k) ∧ q.announced = some (s.ctrl.modno, n) ∧ q.up = true ∧ q.training = false ∧
      q.groupsOut = 15 ∧ q.groupsIn = 15 ∧ q.nextSeq = 0 ∧ q.oldest = 0 ∧ q.expect = 0 ∧ q.replay = [] ∧ q.records = []
    (¬may → exec (.portTraining n m k) s = .next s) ∧
    (may → SMap.find? s.ports n = none → ∃ t q, exec (.portTraining n m k) s = .next t ∧ Say.port s t n q ∧ starts q) ∧
    (may → ∀ p, SMap.find? s.ports n = some p →
      (p.training = true → p.peer = some (m, k) → ∃ t q, exec (.portTraining n m k) s = .next t ∧
        Say.port s t n q ∧ q.up = true ∧ q.training = false ∧ q.expect = p.expect ∧ q.nextSeq = p.nextSeq ∧ q.oldest = p.oldest ∧
        q.restarts = 0 ∧
        q.out = p.out ++ p.replay.map (fun y => mkOpt 1 (optSeq y.1) ((p.expect + 65535) % 65536) y.1.payload)) ∧
      (¬(p.training = true ∧ p.peer = some (m, k)) → ∃ t q, exec (.portTraining n m k) s = .next t ∧
        SMap.find? t.ports n = some q ∧ starts q))

/-- R342, R343: the loss of light on a group makes the receiver discard DATA and send REEF, again every 1200 cycles with the groups lost since;
the sender goes on with the groups that are left and acknowledges; the receiver aligns its beats and then accepts DATA again, unless a group
was lost that no REEF had named (which starts a new reef). The last group, or 12000 cycles with no answer, takes the port down. -/
def Say.opticalReefs : Prop :=
  ∀ (s : State) (n : Nat) (g : BitVec 2) (f : OptFlit) (p : Port), SMap.find? s.ports n = some p →
    let m : BitVec 4 := 1#4 <<< g.toNat
    let dim : Port := { p with light := p.light &&& ~~~m, litSince := p.litSince.filter fun x => x.1 != g.toNat }
    (p.up = true → p.groupsIn &&& m ≠ 0 → p.reef = none → p.groupsIn &&& ~~~(p.reefGroups ||| m) ≠ 0 →
      ∃ t, exec (.lightLoss n g) s = .next t ∧ Say.port s t n
        { Say.sentFlit dim s.cycle 3 0 (BitVec.ofNat 512 ((p.reefGroups ||| m).toNat + 65536 * p.expect)) with
          discard := true, reef := some p.expect, reefGroups := p.reefGroups ||| m, reefNamed := p.reefGroups ||| m
          reefDue := some (s.cycle + 1200), reefEnd := some (s.cycle + 12000) }) ∧
    (p.up = true → p.groupsIn &&& m ≠ 0 → p.reef ≠ none → p.groupsIn &&& ~~~(p.reefGroups ||| m) ≠ 0 →
      ∃ t, exec (.lightLoss n g) s = .next t ∧ Say.port s t n { dim with reefGroups := p.reefGroups ||| m }) ∧
    ((p.up = false ∨ p.groupsIn &&& m = 0) → ∃ t, exec (.lightLoss n g) s = .next t ∧ Say.port s t n dim) ∧
    (p.up = true → p.groupsIn &&& m ≠ 0 → p.groupsIn &&& ~~~(p.reefGroups ||| m) = 0 →
      ∃ t, exec (.lightLoss n g) s = .next t ∧ Say.portLost s t n 0xC0) ∧
    (p.light.getLsbD g.toNat = false → ∃ t, exec (.lightRestore n g) s = .next t ∧
      Say.port s t n { p with light := p.light ||| m, litSince := p.litSince ++ [(g.toNat, s.cycle)] }) ∧
    (p.light.getLsbD g.toNat = true → exec (.lightRestore n g) s = .next s) ∧
    (Say.arrives s n p f 3 → p.groupsOut &&& ~~~bits 0 4 f.payload ≠ 0 → ∃ t q, exec (.reefFlit n f) s = .next t ∧
      SMap.find? t.ports n = some q ∧ q.groupsOut = p.groupsOut &&& ~~~bits 0 4 f.payload ∧
      mkOpt 4 0 ((p.expect + 65535) % 65536) 0 ∈ q.out ∧ t.tiles = s.tiles) ∧
    (Say.arrives s n p f 3 → p.groupsOut &&& ~~~bits 0 4 f.payload = 0 → ∃ t, exec (.reefFlit n f) s = .next t ∧ Say.portLost s t n 0xC0) ∧
    (Say.arrives s n p f 4 → p.reef ≠ none → (p.reefGroups &&& ~~~p.reefNamed = 0 → p.unreef = false) →
      let rest := p.reefGroups &&& ~~~p.reefNamed
      ∃ t q, exec (.reefackFlit n f) s = .next t ∧ SMap.find? t.ports n = some q ∧ q.groupsIn = p.groupsIn &&& ~~~p.reefNamed ∧
        q.reefGroups = rest ∧ q.expect = p.expect ∧ q.rxBeat = 16 ∧ q.discard = decide (rest ≠ 0) ∧
        q.reef = (if rest = 0 then none else some p.expect)) ∧
    (Say.arrives s n p f 4 → p.reef = none → ∃ t, exec (.reefackFlit n f) s = .next t ∧
      Say.port s t n { Say.acked (Say.heard p) (optAck f) with rxBeat := 16 }) ∧
    (p.up = true → p.reef ≠ none → ∀ d, p.reefDue = some d →
      (d ≤ s.cycle → ∃ t, exec (.reefRepeatTimer n) s = .next t ∧ Say.port s t n
        { Say.sentFlit p s.cycle 3 0 (BitVec.ofNat 512 (p.reefGroups.toNat + 65536 * p.expect)) with
          reefNamed := p.reefGroups, reefDue := some (s.cycle + 1200) }) ∧
      (s.cycle < d → exec (.reefRepeatTimer n) s = .next s)) ∧
    (p.up = true → p.reef ≠ none → ∀ d, p.reefEnd = some d →
      (d ≤ s.cycle → ∃ t, exec (.reefackTimeout n) s = .next t ∧ Say.portLost s t n 0xC0) ∧
      (s.cycle < d → exec (.reefackTimeout n) s = .next s))

/-- R344: UNREEF is answered with UNREEFACK, and both ends restripe over the larger set of groups; the UNREEFACK completes it. -/
def Say.opticalUnreefs : Prop :=
  ∀ (s : State) (n : Nat) (f : OptFlit) (p : Port),
    (Say.arrives s n p f 5 → ∃ t q, exec (.unreefFlit n f) s = .next t ∧ SMap.find? t.ports n = some q ∧
      q.groupsOut = p.groupsOut ||| bits 0 4 f.payload ∧ q.groupsIn = p.groupsIn ||| bits 0 4 f.payload ∧
      mkOpt 6 0 ((p.expect + 65535) % 65536) (BitVec.ofNat 512 (bits 0 4 f.payload).toNat) ∈ q.out ∧
      mkOpt 4 0 ((p.expect + 65535) % 65536) 0 ∈ q.out ∧ t.tiles = s.tiles) ∧
    (Say.arrives s n p f 6 → p.unreefGroups ≠ 0 → ∃ t q, exec (.unreefackFlit n f) s = .next t ∧ SMap.find? t.ports n = some q ∧
      q.groupsOut = p.groupsOut ||| p.unreefGroups ∧ q.groupsIn = p.groupsIn ||| p.unreefGroups ∧ q.unreefGroups = 0 ∧
      (∀ d ∈ t.host.deferred, ¬(d.opc = 0x04 ∧ d.id = n))) ∧
    (Say.arrives s n p f 6 → p.unreefGroups = 0 → ∃ t, exec (.unreefackFlit n f) s = .next t ∧
      Say.port s t n (Say.acked (Say.heard p) (optAck f)))

/-! ### The host's side (12_leaving_module.md R345-R354; 03_far_memory.md R87-R90) -/

/-- Is there room for the events of one action? -/
def Say.roomy (s : State) : Prop := s.host.pend.length < 4000

/-- R349, R351: an event of the module waits for ring 0 of every function. -/
def Say.event (t : State) (code : Byte) (a0 a1 : Word) : Prop :=
  ∀ f : BitVec 2, ∃ e ∈ t.host.pend, e.code = code ∧ e.fn = f ∧ e.ring = 0 ∧ e.arg0 = a0 ∧ e.arg1 = a1

/-- Only the host's own side changed. -/
def Say.quiet (s t : State) : Prop :=
  t.tiles = s.tiles ∧ t.far = s.far ∧ t.ctrl = s.ctrl ∧ t.clock = s.clock ∧ t.net = s.net ∧ t.ports = s.ports ∧ t.agenda = s.agenda

/-- R347: a slot holds a command of an opcode to act on; R489: a module in recovery serves BSTAT and CFGLOAD on host link 0. -/
def Say.ready (s : State) (fn : BitVec 2) (slot : BitVec 4) (opc : Byte) : Prop :=
  (s.ctrl.recovery = false ∨ fn = 0 ∧ (opc = 0x20 ∨ opc = 0x25)) ∧ s.slotByte fn slot 0 = opc ∧ s.slotByte fn slot 1 ≠ 1 ∧
  s.slotByte fn slot 5 = 0 ∧ s.slotByte fn slot 6 = 0 ∧ s.slotByte fn slot 7 = 0

/-- R347: the controller's answer: STATUS, CODE and vector 0, which waits in the pending array where it is masked. -/
def Say.answered (t : State) (fn : BitVec 2) (slot : BitVec 4) (status code : Byte) : Prop :=
  t.slotByte fn slot 1 = status ∧ t.slotByte fn slot 4 = code ∧
  (t.masked fn 0 = true → t.pendingVector fn 0 = true) ∧ (t.masked fn 0 = false → (fn, 0) ∈ t.host.vectors)

/-- R347: a command is refused with code 0xC9 and has no other effect. -/
def Say.refused (i : Instr) (s : State) (fn : BitVec 2) (slot : BitVec 4) : Prop :=
  ∃ t, exec i s = .next t ∧ Say.answered t fn slot 4 0xC9 ∧ Say.quiet s t

/-- R347, R348: a command that finds no room is answered busy and has no other effect. -/
def Say.busy (i : Instr) (s : State) (fn : BitVec 2) (slot : BitVec 4) : Prop :=
  ∃ t, exec i s = .next t ∧ t.slotByte fn slot 1 = 3 ∧ Say.quiet s t

/-- R348, R351: the completion event of a deferred command: bits 0, and 1 in error. -/
def Say.ended (s t : State) (opc : Byte) (tag : BitVec 16) (err : Bool) (result : Word) : Prop :=
  Say.roomy s → Say.event t 0xCC (BitVec.ofNat 64 (opc.toNat + 2 ^ 8 * tag.toNat + 2 ^ 24 * (if err then 3 else 1))) result

/-- R348: the commands of the mailbox with their opcodes. -/
noncomputable def Say.mailbox (fn : BitVec 2) (slot : BitVec 4) : List (Instr × Byte) :=
  [(.inval fn slot, 1), (.lltget fn slot, 2), (.hcopy fn slot, 3), (.unreef fn slot, 4), (.evring fn slot, 5), (.timerd fn slot, 6),
   (.xlstat fn slot, 7), (.lrec fn slot, 0x10), (.qprio fn slot, 0x11), (.preempt fn slot, 0x12), (.tdown fn slot, 0x13),
   (.rstat fn slot, 0x14), (.bstat fn slot, 0x20), (.splice fn slot, 0x21), (.resync fn slot, 0x22), (.attest fn slot, 0x23),
   (.pstate fn slot, 0x24), (.cfgload fn slot, 0x25), (.defrd fn slot, 0x26), (.clrret fn slot, 0x27)]

/-- R347, R348, R489: a slot whose STATUS is 1 is left alone; reserved bits set, an unknown opcode, or a command that a module in
recovery does not serve, are refused with code 0xC9. -/
def Say.mailboxDoorbells : Prop :=
  ∀ (s : State) (fn : BitVec 2) (slot : BitVec 4),
    (∀ k ∈ Say.mailbox fn slot,
      (s.slotByte fn slot 0 ≠ k.2 → exec k.1 s = .next s) ∧
      (s.ctrl.recovery = false → s.slotByte fn slot 1 = 1 → exec k.1 s = .next s) ∧
      (s.ctrl.recovery = false → s.slotByte fn slot 0 = k.2 → s.slotByte fn slot 1 ≠ 1 →
        (∃ i, 5 ≤ i ∧ i ≤ 7 ∧ s.slotByte fn slot i ≠ 0) → Say.refused k.1 s fn slot) ∧
      (s.ctrl.recovery = true → fn ≠ 0 → exec k.1 s = .next s) ∧
      (s.ctrl.recovery = true → fn = 0 → s.slotByte fn slot 0 = k.2 → k.2 ≠ 0x20 → k.2 ≠ 0x25 → Say.refused k.1 s fn slot)) ∧
    (let o := (s.slotByte fn slot 0).toNat
     (o = 0 ∨ (8 ≤ o ∧ o ≤ 0x0F) ∨ (0x15 ≤ o ∧ o ≤ 0x1F) ∨ 0x28 ≤ o) → s.ctrl.recovery = false → s.slotByte fn slot 1 ≠ 1 →
       Say.refused (.mailboxUnknown fn slot) s fn slot)

/-- An enabled ring of a function. -/
def Say.ring (s : State) (fn : BitVec 2) (n : Nat) (r : Ring) : Prop :=
  SMap.find? s.host.rings (2048 * fn.toNat + n) = some r ∧ r.en = true

/-- R345: an error that AER holds for a function (its bit by log 137). -/
def Say.noted (s : State) (fn : BitVec 2) (bit : Nat) : State :=
  { s with host := { s.host with aer := SMap.put s.host.aer fn.toNat ((SMap.get 0 s.host.aer fn.toNat) ||| ((1 : BitVec 32) <<< bit)) } }

/-- A completion is returned to a host, and nothing else happens. -/
def Say.replied (s : State) (fn : BitVec 2) (status : Byte) (d : Bytes) : State :=
  { s with host := { s.host with replies := s.host.replies ++ [(fn, status, d)] } }

/-- A host request ends as an Unsupported Request, and nothing else happens. -/
def Say.unsupported (s : State) (fn : BitVec 2) : State := Say.noted (Say.replied s fn 1 []) fn 20

/-- R345: a request that arrives whole, within Max_Payload_Size and Max_Read_Request_Size. -/
def Say.served (s : State) (r : HostReq) : Prop :=
  s.host.linkUp.getLsbD r.fn.toNat = true ∧ r.ecrcOk = true ∧ r.data.length ≤ 512 ∧ r.len ≤ 4096

/-- A request to a register of BAR 0. -/
noncomputable def Say.register (r : HostReq) : Instr :=
  .registerWrite r.fn r.addr { write := r.write, len := r.len, data := r.data, ep := r.ep, ecrcOk := r.ecrcOk }

/-- R345: with its link down a function does nothing; a request whose ECRC does not agree, or that is too long, is dropped and AER
notes it. -/
def Say.hostRequests : Prop :=
  ∀ (s : State) (r : HostReq), ∀ i ∈ [Instr.tileWindowAccess r, .farWindowAccess r, Say.register r],
    (s.host.linkUp.getLsbD r.fn.toNat = false → exec i s = .next s) ∧
    (s.host.linkUp.getLsbD r.fn.toNat = true → r.ecrcOk = false → exec i s = .next (Say.noted s r.fn 19)) ∧
    (s.host.linkUp.getLsbD r.fn.toNat = true → r.ecrcOk = true → (512 < r.data.length ∨ 4096 < r.len) →
      exec i s = .next (Say.noted s r.fn 18))

/-- R346, R347, R350: a host write to BAR 0: MBDB rings a doorbell, a slot's byte is kept but for STATUS and CODE, the MSI-X table is
kept and a vector it unmasks is raised if it waits, an EVHEAD register takes HEAD, and every other offset is ignored. -/
def Say.registerWrites : Prop :=
  ∀ (s : State) (r : HostReq) (b : Byte), Say.served s r → r.write = true →
    let u := if r.ep then Say.noted s r.fn 12 else s
    (r.addr = 0xB000 → ofBytes r.data < 16 → exec (Say.register r) s =
      .next { u with agenda := .auto u.here (.mail r.fn (BitVec.ofNat 4 (ofBytes r.data))) :: u.agenda }) ∧
    (r.addr = 0xB000 → 16 ≤ ofBytes r.data → exec (Say.register r) s = .next u) ∧
    (∀ (slot : BitVec 4) (i : Nat), i < 256 → r.addr = 0xA000 + 256 * slot.toNat + i → r.data = [b] →
      ∃ t, exec (Say.register r) s = .next t ∧
        Say.quiet s t ∧ t.slotByte r.fn slot i = (if i = 1 ∨ i = 4 then s.slotByte r.fn slot i else b) ∧
        ∀ f k j, j < 256 → (f, k, j) ≠ (r.fn, slot, i) → t.slotByte f k j = s.slotByte f k j) ∧
    (r.addr < 0x8000 → r.data = [b] → let v := BitVec.ofNat 11 (r.addr / 16)
      ∃ t, exec (Say.register r) s = .next t ∧ Say.quiet s t ∧ t.msixByte r.fn r.addr = b ∧
        (∀ f x, x < 0x8000 → (f, x) ≠ (r.fn, r.addr) → t.msixByte f x = s.msixByte f x) ∧
        (s.pendingVector r.fn v = true → t.masked r.fn v = false →
          t.pendingVector r.fn v = false ∧ t.host.vectors = s.host.vectors ++ [(r.fn, v)]) ∧
        ((s.pendingVector r.fn v = false ∨ t.masked r.fn v = true) →
          t.host.pba = s.host.pba ∧ t.host.vectors = s.host.vectors)) ∧
    (∀ n, n < 2047 → r.addr = 0xC000 + 8 * n → r.data.length = 8 → exec (Say.register r) s =
      exec (.evheadWrite r.fn n (BitVec.ofNat 64 (ofBytes r.data))) u) ∧
    ((0x8000 ≤ r.addr ∧ r.addr < 0xA000 ∨ 0xB000 < r.addr ∧ r.addr < 0xC000 ∨ 0xFFF8 ≤ r.addr) → r.data = [b] →
      exec (Say.register r) s = .next u)

/-- R346, R350: a host read of BAR 0 completes with the bytes of the MSI-X table, the pending array, the slots and the EVHEAD registers
(WP above HEAD, and zero for a ring that is not enabled), and with zero at the other offsets; nothing else changes. -/
def Say.registerReads : Prop :=
  ∀ (s : State) (r : HostReq), Say.served s r → r.write = false →
    ∃ d, d.length = r.len ∧ exec (Say.register r) s = .next { Say.replied s r.fn 0 d with free := s.free + 8 } ∧
      ∀ k, k < r.len → let a := r.addr + k
        let x := d.getD k 0
        (a < 0x8000 → x = s.msixByte r.fn a) ∧
        (0x8000 ≤ a → a < 0x8100 → ∀ j, j < 8 → x.getLsbD j = s.pendingVector r.fn (BitVec.ofNat 11 (8 * (a - 0x8000) + j))) ∧
        (∀ (slot : BitVec 4) i, i < 256 → a = 0xA000 + 256 * slot.toNat + i → x = s.slotByte r.fn slot i) ∧
        (∀ n i, n < 2047 → i < 8 → a = 0xC000 + 8 * n + i →
          (∀ g, Say.ring s r.fn n g → x.toNat = (g.head + 2 ^ 32 * g.wp) / 2 ^ (8 * i) % 256) ∧
          ((∀ g, ¬ Say.ring s r.fn n g) → x = 0)) ∧
        ((0x8100 ≤ a ∧ a < 0xA000 ∨ 0xB008 ≤ a ∧ a < 0xC000 ∨ 0xFFF8 ≤ a) → x = 0)

/-- A 64-bit word of host memory. -/
def Say.hostWord (s : State) (a : Nat) : Nat := ofBytes ((upto 8).map fun i => SMap.get 0 s.host.mem (a + i))

/-- R349: a vector is raised (it waits in the pending array where it is masked), or owed while the ring's hold-off runs. -/
def Say.signalled (s t : State) (fn : BitVec 2) (n : Nat) (r r' : Ring) : Prop :=
  if r.holdUntil ≤ s.cycle then
    let v := BitVec.ofNat 11 (n + 1)
    (if s.masked fn v then t.host.vectors = s.host.vectors ∧ t.pendingVector fn v = true
      else t.host.vectors = s.host.vectors ++ [(fn, v)]) ∧ r'.holdUntil = s.cycle + 1200 ∧ r'.owed = false
  else t.host.vectors = s.host.vectors ∧ r'.holdUntil = r.holdUntil ∧ r'.owed = true

/-- R350: HEAD as written, or WP where the write passes it; a ring that is not enabled ignores the write. -/
def Say.eventHeads : Prop :=
  ∀ (s : State) (fn : BitVec 2) (n : Nat) (v : Word), n < 2048 →
    (∀ r, Say.ring s fn n r → r.wp < 2 ^ 32 → ∃ t r', exec (.evheadWrite fn n v) s = .next t ∧ Say.ring t fn n r' ∧ Say.quiet s t ∧
      r' = { r with head :=
        let d := (v.toNat % 2 ^ 32 + 2 ^ 32 - r.wp) % 2 ^ 32
        if 1 ≤ d ∧ d ≤ 2 ^ 31 then r.wp else v.toNat % 2 ^ 32 } ∧
      ∀ f k, k < 2048 → (f, k) ≠ (fn, n) → ∀ x, Say.ring t f k x ↔ Say.ring s f k x) ∧
    ((∀ r, ¬ Say.ring s fn n r) → exec (.evheadWrite fn n v) s = .next s)

/-- R349, R350: the oldest event of an enabled ring with room is written at WP with its phase, number and fields, WP counts it, and
the ring's vector is raised or owed; a full ring waits; what was dropped is told by event 0xC8. -/
def Say.eventRings : Prop :=
  ∀ (s : State) (fn : BitVec 2) (n : Nat) (r : Ring) (pre post : List EvRec) (e : EvRec), n < 2048 → Say.ring s fn n r →
    s.host.pend = pre ++ e :: post → (∀ x ∈ pre, ¬ (x.fn = fn ∧ x.ring = n)) → e.fn = fn → e.ring = n →
    s.host.linkUp.getLsbD fn.toNat = true →
    (2 ^ r.lg ≤ (r.wp + 2 ^ 32 - r.head) % 2 ^ 32 → exec (.eventRingWrite fn n) s = .next s) ∧
    ((r.wp + 2 ^ 32 - r.head) % 2 ^ 32 < 2 ^ r.lg → let a := r.base.toNat + 32 * (r.wp % 2 ^ r.lg)
      ∃ t r', exec (.eventRingWrite fn n) s = .next t ∧ Say.quiet s t ∧ Say.ring t fn n r' ∧ r'.wp = (r.wp + 1) % 2 ^ 32 ∧
        r'.head = r.head ∧ Say.signalled s t fn n r r' ∧ Say.hostWord t a = e.time.toNat ∧
        Say.hostWord t (a + 8) = (if r.wp / 2 ^ r.lg % 2 = 0 then 2 ^ 63 else 0) + 2 ^ 48 * (r.wp % 2 ^ 15) + 2 ^ 32 * e.srcix.toNat +
          2 ^ 16 * e.region.toNat + 2 ^ 8 * e.src.toNat + e.code.toNat ∧
        Say.hostWord t (a + 16) = e.arg0.toNat ∧ Say.hostWord t (a + 24) = e.arg1.toNat ∧
        (∀ x, x < a ∨ a + 32 ≤ x → SMap.get 0 t.host.mem x = SMap.get 0 s.host.mem x) ∧
        (SMap.get 0 s.host.dropped fn.toNat = 0 → t.host.pend = pre ++ post) ∧
        (SMap.get 0 s.host.dropped fn.toNat ≠ 0 → (s.host.pend.filter fun x => x.fn == fn).length ≤ 4096 →
          SMap.get 0 t.host.dropped fn.toNat = 0 ∧ ∃ d, t.host.pend = pre ++ post ++ [d] ∧ d.code = 0xC8 ∧ d.fn = fn ∧ d.ring = 0 ∧
            d.arg0 = BitVec.ofNat 64 (SMap.get 0 s.host.dropped fn.toNat) ∧ d.arg1 = 0))

/-- R349: when the hold-off of a ring ends, a vector that is owed is raised. -/
def Say.eventHoldoff : Prop :=
  ∀ (s : State) (fn : BitVec 2) (n : Nat) (r : Ring), n < 2048 → Say.ring s fn n r →
    (r.owed = true → r.holdUntil ≤ s.cycle → ∃ t r', exec (.eventVectorHoldoff fn n) s = .next t ∧ Say.quiet s t ∧
      Say.ring t fn n r' ∧ Say.signalled s t fn n r r' ∧ r'.wp = r.wp ∧ r'.head = r.head ∧ t.host.pend = s.host.pend) ∧
    ((r.owed = false ∨ s.cycle < r.holdUntil) → exec (.eventVectorHoldoff fn n) s = .next s)

/-- R346: where an offset of the tile window leads: the buffers A (both sides) and C of a tile in a region. -/
def Say.window (s : State) (a n : Nat) (t : Nat) (b : BufId) (side : Bool) (o : Nat) : Prop :=
  t < 5544 ∧ (s.regionAt t).isSome = true ∧
  (b = .a ∧ o + n ≤ 0xC0000 ∧ a = 2 ^ 22 * t + (if side then 0x100000 else 0) + o ∨
    b = .c ∧ side = false ∧ o + n ≤ 0x60000 ∧ a = 2 ^ 22 * t + 0x200000 + o)

/-- R346, R130, R476: a tile-window write acts at the tile; a read returns its bytes, or poisoned data; an offset beyond a buffer, in W,
in the I-store or at a tile in no region is an Unsupported Request. -/
def Say.tileWindow : Prop :=
  ∀ (s : State) (r : HostReq) (t : Nat) (b : BufId) (side : Bool) (o : Nat), Say.served s r →
    let s' := if r.ep then Say.noted s r.fn 12 else s
    ((r.write = true → 0 < r.data.length → Say.window s r.addr r.data.length t b side o →
        exec (.tileWindowAccess r) s = .next (s'.atTile t fun u => u.bufWrite b side o (r.data.map fun x => (x, r.ep)) false)) ∧
      (r.write = false → 0 < r.len → Say.window s r.addr r.len t b side o → ∀ bs u,
        ({ s with here := t } : State).readAt (({ s with here := t } : State).bufRun b side false o r.len) = (bs, u) →
        ((∀ x ∈ bs, x.2 = false) → exec (.tileWindowAccess r) s =
          .next (Say.replied { u with here := s.here } r.fn 0 (bs.map fun x => x.1))) ∧
        ((∃ x ∈ bs, x.2 = true) → ∃ v d, exec (.tileWindowAccess r) s = .next v ∧ d.length = bs.length ∧
          v.host.replies = u.host.replies ++ [(r.fn, 2, d)])) ∧
      (let n := if r.write then r.data.length else r.len
       0 < n → (∀ t b side o, ¬ Say.window s r.addr n t b side o) →
        exec (.tileWindowAccess r) s = .next (Say.unsupported s r.fn)))

/-- R70, R90: n bytes of far memory that are populated, with a live stack port for each 512-byte piece. -/
def Say.populated (s : State) (a n : Nat) : Prop :=
  a + n ≤ farLimit ∧ ∀ x, a ≤ x → x < a + n → (s.servingPort (x / 512 * 512)).isSome = true

/-- R90: the far-memory window names physical addresses; an unpopulated address or an unavailable stack is an Unsupported Request. -/
def Say.farWindow : Prop :=
  ∀ (s : State) (r : HostReq), Say.served s r →
    let s' := if r.ep then Say.noted s r.fn 12 else s
    ((r.write = true → Say.populated s r.addr r.data.length →
        exec (.farWindowAccess r) s = .next (s'.farWrite r.addr (r.data.map fun x => (x, r.ep)))) ∧
      (r.write = false → Say.populated s r.addr r.len → ∀ bs u, s.farRead r.addr r.len = (bs, u) → (∀ x ∈ bs, x.2 = false) →
        exec (.farWindowAccess r) s = .next (Say.replied u r.fn 0 (bs.map fun x => x.1))) ∧
      (¬ Say.populated s r.addr (if r.write then r.data.length else r.len) →
        exec (.farWindowAccess r) s = .next (Say.unsupported s r.fn)))

/-- R345: a host AtomicOp of 32 or 64 bits is performed at the tile as WAMO is, or at far memory in one piece, and returns the old value;
one of 128 bits, of no operation, not aligned, at BAR 0, or where nothing is populated, is an Unsupported Request with no effect, and one
whose ECRC does not agree is dropped. -/
def Say.hostAtomics : Prop :=
  ∀ (s : State) (r : HostAtomic), (s.host.linkUp.getLsbD r.fn.toNat = false → exec (.hostAtomicop r) s = .next s) ∧
    (s.host.linkUp.getLsbD r.fn.toNat = true → r.ecrcOk = false → exec (.hostAtomicop r) s = .next (Say.noted s r.fn 19)) ∧
    (s.host.linkUp.getLsbD r.fn.toNat = true → r.ecrcOk = true → let n := r.bits / 8
    let op : AOp := if r.op = 0 then .add else if r.op = 1 then .swap else .cas
    let x : Word := if r.op = 2 then r.b else r.a
    let cmp : Word := if r.op = 2 then r.a else 0
    ((r.bits = 32 ∨ r.bits = 64) → r.op ≠ 3 → r.addr % n = 0 →
      (∀ t b side o old u, r.bar = 2 → Say.window s r.addr n t b side o →
        ({ s with here := t } : State).atomicAt (({ s with here := t } : State).bufAddr b side false o) op (r.bits == 64) x cmp false =
          (old, false, u) →
        exec (.hostAtomicop r) s = .next (Say.replied { u with here := s.here } r.fn 0 (toBytes n old.toNat))) ∧
      (∀ bs u, r.bar = 4 → Say.populated s r.addr n → s.farAtomic r.addr op (r.bits == 64) x cmp = (bs, u) →
        (∀ y ∈ bs, y.2 = false) → exec (.hostAtomicop r) s = .next (Say.replied u r.fn 0 (bs.map fun y => y.1))) ∧
      (r.bar = 2 → (∀ t b side o, ¬ Say.window s r.addr n t b side o) → exec (.hostAtomicop r) s = .next (Say.unsupported s r.fn)) ∧
      (r.bar = 4 → ¬ Say.populated s r.addr n → exec (.hostAtomicop r) s = .next (Say.unsupported s r.fn))) ∧
    ((r.bits = 128 ∨ r.bar = 0 ∨ r.op = 3 ∨ r.addr % n ≠ 0) → exec (.hostAtomicop r) s = .next (Say.unsupported s r.fn)))

/-- R345, R351: a host link that does not reach L0 in flit mode at a supported rate and width is down, with event 0xC6; one below Gen 7 x16 raises event 0xC7.
The links of dead tiles are down (R22), and recovery mode raises link 0 alone (R489). -/
def Say.hostLinks : Prop :=
  ∀ (s : State) (k : BitVec 2) (mode : LinkMode) (rate width : Byte),
    let ok := mode = .flit ∧ 1 ≤ rate.toNat ∧ rate.toNat ≤ 7 ∧ (width = 16 ∨ width = 8 ∨ width = 4) ∧
      (∃ x ∈ linkTiles k.toNat, x ∉ s.ctrl.deadTiles) ∧ (k = 0 ∨ s.ctrl.recovery = false)
    let arg : Word := BitVec.ofNat 64 (rate.toNat + 256 * width.toNat)
    ∃ t, exec (.hostLinkStateChange k mode rate width) s = .next t ∧ Say.quiet s t ∧ t.linkRate k.toNat = arg ∧
      (t.host.linkUp.getLsbD k.toNat = true ↔ ok) ∧ (∀ j, j ≠ k.toNat → t.host.linkUp.getLsbD j = s.host.linkUp.getLsbD j) ∧
      (¬ ok → Say.roomy s → Say.event t 0xC6 (k.setWidth 64) arg) ∧
      (ok → (rate.toNat < 7 ∨ width.toNat < 16) → Say.roomy s → Say.event t 0xC7 (k.setWidth 64) arg) ∧
      (ok → 7 ≤ rate.toNat → 16 ≤ width.toNat → t.host.pend = s.host.pend)

/-- A time of the grandmaster in units of 2^-8 ns, and the module's own on the same scale (R352). -/
def Say.ptp (sec nsec : Nat) : Int := Int.ofNat ((sec * 10 ^ 9 + nsec) * 256)
def Say.now (s : State) : Int := Int.ofNat (s.clock.era * 2 ^ 64 + s.clock.mtime.toNat)

/-- R354: an offset steps time only forward and only before the first launch of a boot, else it is slewed; in holdover it does neither. -/
def Say.disciplined (s t : State) (off : Int) : Prop :=
  t.clock.offset = off ∧
  (s.clock.state = .lost → t.clock.mtime = s.clock.mtime ∧ t.clock.slew = s.clock.slew) ∧
  (s.clock.state ≠ .lost → 0 < off → s.ctrl.launched = false → t.clock.mtime = s.clock.mtime + BitVec.ofInt 64 off ∧ t.clock.slew = 0) ∧
  (s.clock.state ≠ .lost → (off ≤ 0 ∨ s.ctrl.launched = true) → t.clock.mtime = s.clock.mtime ∧ t.clock.slew = 3 * off)

/-- R352, R354: a Sync (with its Follow_Up where it is two-step) gives the offset, by the delay that a Delay_Req or a Pdelay_Req measured
(the two formulas are IEEE 1588's: log 138); time is stepped only forward and only before the first launch of a boot, else slewed; a lost
lock holds the frequency and raises event 0xCA, and a regained one raises 0xCB. -/
def Say.moduleTime : Prop :=
  ∀ (s : State) (off : Int) (lock : Bool),
    (∀ m : PtpMsg, ∃ t, exec (.ptpMessage m lock) s = .next t ∧
      t = { s with clock := t.clock } ∧ t.clock.freq = s.clock.freq ∧ t.clock.pulses = s.clock.pulses ∧
      (lock = true → s.clock.state = .free → t.clock.state = .locked) ∧
      ((lock = false ∨ s.clock.state ≠ .free) → t.clock.state = s.clock.state) ∧
      match m with
      | .sync sec nsec corr => Say.disciplined s t (Say.ptp sec nsec + corr + s.clock.delay - Say.now s) ∧ t.clock.delay = s.clock.delay
      | .syncTwoStep => t.clock = { s.clock with state := t.clock.state, syncAt := some (Say.now s) }
      | .followUp sec nsec corr =>
        (∀ came, s.clock.syncAt = some came → Say.disciplined s t (Say.ptp sec nsec + corr + s.clock.delay - came) ∧
          t.clock.delay = s.clock.delay ∧ t.clock.syncAt = none) ∧
        (s.clock.syncAt = none → t.clock = { s.clock with state := t.clock.state })
      | .delayReq | .pdelayReq => t.clock = { s.clock with state := t.clock.state, askedAt := some (Say.now s) }
      | .delayResp sec nsec corr =>
        (∀ sent came asked, s.clock.sync = some (sent, came) → s.clock.askedAt = some asked →
          t.clock = { s.clock with
            state := t.clock.state, delay := (came - sent + (Say.ptp sec nsec - corr - asked)) / 2, askedAt := none }) ∧
        ((s.clock.sync = none ∨ s.clock.askedAt = none) → t.clock = { s.clock with state := t.clock.state })
      | .pdelayResp turn =>
        (∀ asked, s.clock.askedAt = some asked →
          t.clock = { s.clock with state := t.clock.state, delay := (Say.now s - asked - turn) / 2, askedAt := none }) ∧
        (s.clock.askedAt = none → t.clock = { s.clock with state := t.clock.state })) ∧
    (s.clock.state = .locked → ∃ t, exec .timeLockLoss s = .next t ∧ t.clock = { s.clock with state := .lost, slew := 0 } ∧
      (Say.roomy s → Say.event t 0xCA (BitVec.ofInt 64 s.clock.offset) 0)) ∧
    (s.clock.state ≠ .locked → exec .timeLockLoss s = .next s) ∧
    (s.clock.state = .lost → ∃ t, exec (.timeLockRegain off) s = .next t ∧ t.clock.state = .locked ∧ t.clock.mtime = s.clock.mtime ∧
      t.clock.slew = 3 * off ∧ (Say.roomy s → Say.event t 0xCB (BitVec.ofInt 64 off) 0)) ∧
    (s.clock.state ≠ .lost → exec (.timeLockRegain off) s = .next s) ∧
    (∀ c : Clock, ∀ k : Nat, c.state = .lost → (c.tick k).freq = c.freq ∧ (c.tick k).slew = c.slew)

/-- R350, R348: EVRING sets up a ring with both counts zero; TIMERD and XLSTAT return their words from byte 8 of the slot on. -/
def Say.immediateCommands : Prop :=
  ∀ (s : State) (fn : BitVec 2) (slot : BitVec 4),
    (Say.ready s fn slot 5 → let n := s.slotWord fn slot 8
      let base := s.slotWord fn slot 16
      let lg := s.slotWord fn slot 24
      let en := s.slotWord fn slot 32
      (n < 2047 → base % 4096 = 0 → 6 ≤ lg → lg ≤ 16 → en ≤ 1 → ∃ t r, exec (.evring fn slot) s = .next t ∧ Say.quiet s t ∧
        Say.answered t fn slot 2 0 ∧ SMap.find? t.host.rings (2048 * fn.toNat + n) = some r ∧ r.base.toNat = base ∧ r.lg = lg ∧
        (r.en = true ↔ en = 1) ∧ r.wp = 0 ∧ r.head = 0) ∧
      ((2047 ≤ n ∨ base % 4096 ≠ 0 ∨ lg < 6 ∨ 16 < lg ∨ 1 < en) → Say.refused (.evring fn slot) s fn slot)) ∧
    (Say.ready s fn slot 6 → ∃ t, exec (.timerd fn slot) s = .next t ∧ Say.quiet s t ∧ Say.answered t fn slot 2 0 ∧
      t.slotWord fn slot 8 = s.clock.mtime.toNat ∧
      t.slotWord fn slot 16 = (match s.clock.state with | .free => 0 | .locked => 1 | .lost => 2) ∧
      t.slotWord fn slot 24 = (BitVec.ofInt 64 s.clock.offset).toNat) ∧
    (Say.ready s fn slot 7 → ∃ t, exec (.xlstat fn slot) s = .next t ∧ Say.quiet s t ∧ Say.answered t fn slot 2 0 ∧
      ∀ k, k < 4 → t.slotWord fn slot (8 + 16 * k) = (s.side k).count.toNat ∧
        ∀ j, s.servingSide k = some j → j < 4 →
          t.slotWord fn slot (16 + 16 * k) = (if (s.side k).live then 1 else 0) + 2 * j)

/-- R87, R88: INVAL within its limits joins at most sixteen, a seventeenth is busy, and one outside them is refused. -/
def Say.invalidationRequests : Prop :=
  ∀ (s : State) (fn : BitVec 2) (slot : BitVec 4), Say.ready s fn slot 1 → let w := s.slotWord fn slot 8
    let base := s.slotWord fn slot 16
    let pages := s.slotWord fn slot 24
    let kind := w % 256
    let ok := kind < 3 ∧ (kind = 0 → base % 65536 = 0 ∧ base < 2 ^ 57 ∧ 1 ≤ pages ∧ pages ≤ 2 ^ 24 ∧ base + 65536 * pages ≤ 2 ^ 57)
    (ok → s.far.invals.length < 16 → ∃ t v, exec (.inval fn slot) s = .next t ∧ Say.answered t fn slot 1 0 ∧
      t.far.invals = s.far.invals ++ [v] ∧ v.kind.toNat = kind ∧ v.asid = BitVec.ofNat 16 (w / 65536) ∧ v.base = base ∧
      v.pages = pages ∧ v.tag = s.slotTag fn slot ∧ v.slot = some slot ∧ t.far.mem = s.far.mem ∧ t.tiles = s.tiles ∧ t.ctrl = s.ctrl) ∧
    (ok → 16 ≤ s.far.invals.length → Say.busy (.inval fn slot) s fn slot) ∧
    (¬ ok → Say.refused (.inval fn slot) s fn slot)

/-- R348, R277: LLTGET writes the table's version and its entries to the host: hops over 4 KiB units above, two and the hops below, 0xFF
where the link is out of service. -/
def Say.latencyTableRequest : Prop :=
  ∀ (s : State) (fn : BitVec 2) (slot : BitVec 4), Say.ready s fn slot 2 → let a := s.slotWord fn slot 8
    (a % 4096 ≠ 0 → Say.refused (.lltget fn slot) s fn slot) ∧
    (a % 4096 = 0 → ∃ t, exec (.lltget fn slot) s = .next t ∧ Say.quiet s t ∧ Say.ended s t 2 (s.slotTag fn slot) false 0 ∧
      Say.hostWord t a = s.ctrl.lltVersion.toNat ∧
      (∀ k d, k < 5544 → d < 2 → (SMap.get 0 t.host.mem (a + 8 + 4 * k + 2 * d)).toNat +
        256 * (SMap.get 0 t.host.mem (a + 9 + 4 * k + 2 * d)).toNat =
          (4096 * (s.hops k (neighbour k (d + 1)) % 16) +
            (if (s.tile k).fab.linkDown.getLsbD (d + 1) then 0xFF else 2 + s.hops k (neighbour k (d + 1)))) % 65536))

/-- R348: HCOPY within its limits joins at most 64 transfers; its end moves the bytes with their poison, or reports an error where far
memory is not populated. -/
def Say.hostCopies : Prop :=
  ∀ (s : State) (fn : BitVec 2) (slot : BitVec 4), Say.ready s fn slot 3 → let dir := s.slotWord fn slot 8
    let host := s.slotWord fn slot 16
    let far := s.slotWord fn slot 24
    let len := s.slotWord fn slot 32
    let ok := dir ≤ 1 ∧ host % 64 = 0 ∧ far % 64 = 0 ∧ len % 64 = 0 ∧ len ≤ 2 ^ 30
    (ok → s.host.hcopies.length < 64 → ∃ t c, exec (.hcopy fn slot) s = .next t ∧ Say.quiet s t ∧ Say.answered t fn slot 1 0 ∧
      t.host.hcopies = s.host.hcopies ++ [c] ∧ c.fn = fn ∧ c.tag = s.slotTag fn slot ∧ c.host.toNat = host ∧ c.far.toNat = far ∧
      c.len = len ∧ (c.toHost = true ↔ dir = 1)) ∧
    (ok → 64 ≤ s.host.hcopies.length → Say.busy (.hcopy fn slot) s fn slot) ∧
    (¬ ok → Say.refused (.hcopy fn slot) s fn slot)

/-- R348: the end of an HCOPY. -/
def Say.hostCopyEnds : Prop :=
  ∀ (s : State) (c : HCopy) (d : Deferred), s.host.hcopies = [c] → s.host.deferred = [d] → d.opc = 3 → d.id = c.id →
    (Say.populated s c.far.toNat c.len → c.toHost = false → ∃ t, exec (.hcopyComplete c.id) s = .next t ∧
      t.far = (s.farWrite c.far.toNat (s.hostBytes c.host.toNat c.len)).far ∧ t.host.mem = s.host.mem ∧ t.host.hcopies = [] ∧
      t.host.deferred = [] ∧ (Say.roomy (s.farWrite c.far.toNat (s.hostBytes c.host.toNat c.len)) → Say.ended s t 3 d.tag false 0)) ∧
    (Say.populated s c.far.toNat c.len → c.toHost = true → ∃ t, exec (.hcopyComplete c.id) s = .next t ∧
      t.hostBytes c.host.toNat c.len = (s.farRead c.far.toNat c.len).1 ∧ t.host.hcopies = [] ∧
      (∀ x, x < c.host.toNat ∨ c.host.toNat + c.len ≤ x → SMap.get 0 t.host.mem x = SMap.get 0 s.host.mem x) ∧
      (Say.roomy (s.farRead c.far.toNat c.len).2 → Say.ended s t 3 d.tag false 0)) ∧
    (¬ Say.populated s c.far.toNat c.len → ∃ t, exec (.hcopyComplete c.id) s = .next t ∧ t.far = s.far ∧ t.host.mem = s.host.mem ∧
      t.host.hcopies = [] ∧ Say.ended s t 3 d.tag true 0) ∧
    (∀ n, n ≠ c.id → exec (.hcopyComplete n) s = .next s)

/-- R344, R348: UNREEF waits for a reef of its port, starts otherwise, and ends in error on a port that has never been paired. -/
def Say.unreefCommand : Prop :=
  ∀ (s : State) (fn : BitVec 2) (slot : BitVec 4), Say.ready s fn slot 4 → let n := (s.slotByte fn slot 8).toNat
    (24 ≤ n → Say.refused (.unreef fn slot) s fn slot) ∧
    (n < 24 → SMap.find? s.ports n = none → s.host.deferred = [] → ∃ t, exec (.unreef fn slot) s = .next t ∧ Say.quiet s t ∧
      Say.ended s t 4 (s.slotTag fn slot) true 0) ∧
    (∀ p, n < 24 → SMap.find? s.ports n = some p → p.reef.isSome = true → ∃ t, exec (.unreef fn slot) s = .next t ∧
      SMap.find? t.ports n = some { p with unreef := true } ∧ Say.answered t fn slot 1 0) ∧
    (∀ p, n < 24 → SMap.find? s.ports n = some p → p.reef = none →
      exec (.unreef fn slot) s = .next ((s.defer fn slot 0xFFFF n).startUnreef n))

/-! ### Launches (16_launch.md R448-R465) -/

/-- Bytes of a mailbox slot as a number, the lowest first. -/
def Say.field (s : State) (fn : BitVec 2) (slot : BitVec 4) (i n : Nat) : Nat := ofBytes (s.slotBytes fn slot i n)

/-- R449: the checks of a launch record in its slot. -/
def Say.recordFits (s : State) (fn : BitVec 2) (slot : BitVec 4) : Prop :=
  let f := Say.field s fn slot
  f 8 8 % 4096 = 0 ∧ f 16 2 ≠ 0 ∧ (f 18 1 = 0xFF ↔ f 19 1 = 0xFF) ∧ f 20 1 < 16 ∧ f 21 1 < 8 ∧ 10 ≤ f 23 1 ∧ f 23 1 ≤ 30 ∧
  f 48 8 % 4096 = 0 ∧ 1 ≤ f 60 2 ∧ f 60 2 ≤ 64 ∧ (f 21 1 / 4 % 2 = 1 ∨ f 60 2 = 1) ∧ f 62 2 = 0 ∧
  (∀ i, i + 1 < f 60 2 → f (72 + 2 * i) 2 < f (74 + 2 * i) 2) ∧ (∀ i, i < f 60 2 → f (72 + 2 * i) 2 < 4096) ∧
  (∃ i, i < f 60 2 ∧ f (72 + 2 * i) 2 = s.ctrl.modno.toNat) ∧
  (∀ i, 72 + 2 * f 60 2 ≤ i → i < 200 → f i 1 = 0) ∧ (∀ i, 200 ≤ i → i < 256 → f i 1 = 0)

/-- R449, R452, R454: LREC: a record that passes the checks joins its queue of 256, a full queue is busy, and any other record is
refused. -/
def Say.launchRecords : Prop :=
  ∀ (s : State) (fn : BitVec 2) (slot : BitVec 4), Say.ready s fn slot 0x10 → let q := Say.field s fn slot 20 1
    (Say.recordFits s fn slot → (SMap.get [] s.ctrl.dist.queues q).length < 256 → ∃ t, exec (.lrec fn slot) s = .next t ∧
      Say.answered t fn slot 1 0 ∧ t.tiles = s.tiles ∧ t.far = s.far ∧ t.ctrl.regions = s.ctrl.regions ∧
      SMap.get [] t.ctrl.dist.queues q = SMap.get [] s.ctrl.dist.queues q ++ [s.slotBytes fn slot 8 248] ∧
      SMap.get [] t.ctrl.dist.fns q = SMap.get [] s.ctrl.dist.fns q ++ [(fn, slot, s.slotTag fn slot)] ∧
      (∀ k, k ≠ q → SMap.get [] t.ctrl.dist.queues k = SMap.get [] s.ctrl.dist.queues k) ∧ t.ctrl.dist.sel = s.ctrl.dist.sel) ∧
    (Say.recordFits s fn slot → 256 ≤ (SMap.get [] s.ctrl.dist.queues q).length → Say.busy (.lrec fn slot) s fn slot) ∧
    (¬ Say.recordFits s fn slot → Say.refused (.lrec fn slot) s fn slot)

/-- R452, R454: QPRIO sets PRIO and EFF and restarts the aging; RSTAT returns state, origin, COUNT and the index counter. -/
def Say.queueAndRegionStatus : Prop :=
  ∀ (s : State) (fn : BitVec 2) (slot : BitVec 4), let f := Say.field s fn slot
    (Say.ready s fn slot 0x11 → let q := f 8 1
      (q < 16 → f 9 1 < 16 → ∃ t, exec (.qprio fn slot) s = .next t ∧ Say.answered t fn slot 2 0 ∧
        SMap.get 0 t.ctrl.dist.prio q = f 9 1 ∧ SMap.get 0 t.ctrl.dist.eff q = f 9 1 ∧ SMap.get 0 t.ctrl.dist.waitc q = 0 ∧
        (∀ k, k ≠ q → SMap.get 0 t.ctrl.dist.prio k = SMap.get 0 s.ctrl.dist.prio k ∧
          SMap.get 0 t.ctrl.dist.eff k = SMap.get 0 s.ctrl.dist.eff k ∧ SMap.get 0 t.ctrl.dist.waitc k = SMap.get 0 s.ctrl.dist.waitc k) ∧
        t.ctrl.dist.queues = s.ctrl.dist.queues ∧ t.ctrl.regions = s.ctrl.regions ∧ t.tiles = s.tiles) ∧
      ((16 ≤ q ∨ 16 ≤ f 9 1) → Say.refused (.qprio fn slot) s fn slot)) ∧
    (Say.ready s fn slot 0x14 →
      (∀ r, s.regionOf (BitVec.ofNat 16 (f 8 2)) = some r → r.mm = false → ∃ t, exec (.rstat fn slot) s = .next t ∧ Say.quiet s t ∧
        Say.answered t fn slot 2 0 ∧ t.slotWord fn slot 24 = (r.px + 256 * r.py) % 2 ^ 64 ∧
        t.slotWord fn slot 32 = r.count % 2 ^ 64 ∧ t.slotWord fn slot 40 = r.next % 2 ^ 64) ∧
      (s.regionOf (BitVec.ofNat 16 (f 8 2)) = none → Say.refused (.rstat fn slot) s fn slot))

/-- R452: a queue is the one to select: nonempty, of the highest effective priority, the first of those after LASTQ. -/
def Say.nextQueue (d : Dist) (q : Nat) : Prop :=
  q < 16 ∧ SMap.get [] d.queues q ≠ [] ∧
  ∀ k, k < 16 → k ≠ q → SMap.get [] d.queues k ≠ [] → SMap.get 0 d.eff k ≤ SMap.get 0 d.eff q ∧
    (SMap.get 0 d.eff k = SMap.get 0 d.eff q → (q + 15 - d.lastq) % 16 < (k + 15 - d.lastq) % 16)

/-- R452, R453, R493: every sixteen cycles the distributor selects a record when it holds none, and ages the other queues; a record it
holds is tried again; nothing is selected in P2, in P3, or in recovery. -/
def Say.distributor : Prop :=
  ∀ (s : State), let d := s.ctrl.dist
    ((s.cycle < d.due ∨ s.ctrl.power = .p2 ∨ s.ctrl.power = .p3 ∨ s.ctrl.recovery = true) →
      exec .distributorCycle s = .next s) ∧
    (d.due ≤ s.cycle → (s.ctrl.power = .p0 ∨ s.ctrl.power = .p1) → s.ctrl.recovery = false →
      (∀ q b rest f fs, d.sel = none → d.lastq < 16 → Say.nextQueue d q → SMap.get [] d.queues q = b :: rest →
        SMap.get [] d.fns q = f :: fs → ∃ t, exec .distributorCycle s = .next t ∧ t.ctrl.dist.sel = some (q, b, f) ∧
          t.ctrl.dist.lastq = q ∧ t.ctrl.dist.due = s.cycle + 16 ∧ SMap.get [] t.ctrl.dist.queues q = rest ∧
          SMap.get [] t.ctrl.dist.fns q = fs ∧ SMap.get 0 t.ctrl.dist.eff q = SMap.get 0 d.prio q ∧ SMap.get 0 t.ctrl.dist.waitc q = 0 ∧
          t.ctrl.dist.prio = d.prio ∧
          (∀ k, k < 16 → k ≠ q → SMap.get [] t.ctrl.dist.queues k = SMap.get [] d.queues k ∧
            (SMap.get [] d.queues k = [] → SMap.get 0 t.ctrl.dist.eff k = SMap.get 0 d.prio k ∧ SMap.get 0 t.ctrl.dist.waitc k = 0) ∧
            (SMap.get [] d.queues k ≠ [] → SMap.get 0 d.waitc k + 1 = 2 ^ 20 →
              SMap.get 0 t.ctrl.dist.eff k = min 15 (SMap.get 0 d.eff k + 1) ∧ SMap.get 0 t.ctrl.dist.waitc k = 0) ∧
            (SMap.get [] d.queues k ≠ [] → SMap.get 0 d.waitc k + 1 ≠ 2 ^ 20 →
              SMap.get 0 t.ctrl.dist.eff k = SMap.get 0 d.eff k ∧ SMap.get 0 t.ctrl.dist.waitc k = SMap.get 0 d.waitc k + 1)) ∧
          t.agenda = .auto s.here .bind :: s.agenda ∧ t.tiles = s.tiles ∧ t.ctrl.regions = s.ctrl.regions ∧ t.host = s.host) ∧
      (∀ x, d.sel = some x → recPre x.2.1 = false → ∃ t, exec .distributorCycle s = .next t ∧ t.ctrl.dist = { d with due := s.cycle + 16 } ∧
        t.agenda = .auto s.here .bind :: s.agenda ∧ t.tiles = s.tiles ∧ t.ctrl.regions = s.ctrl.regions))

/-- R455, R351, R465: a launch is refused: event 0xE0 with its reason, the record given up, and its LREC ends in error; no tile and no
region is touched. -/
def Say.launchRefused (u t : State) (tag : BitVec 16) (reason : Nat) : Prop :=
  t.ctrl.regions = u.ctrl.regions ∧ t.tiles = u.tiles ∧ t.ctrl.dist.sel = none ∧ t.ctrl.nextRegion = u.ctrl.nextRegion ∧
  (Say.roomy u → Say.event t 0xE0 (BitVec.ofNat 64 reason) 0 ∧ Say.event t 0xCC (BitVec.ofNat 64 (0x10 + 2 ^ 8 * tag.toNat + 3 * 2 ^ 24)) 0)

/-- R444, R455 step 1, R453: the reasons a selected record is refused for, and what it waits for. -/
def Say.bindingRefusals : Prop :=
  ∀ (s : State) (q : Nat) (b : Bytes) (f : BitVec 2 × BitVec 4 × BitVec 16), s.ctrl.dist.sel = some (q, b, f) →
    ((s.ctrl.power = .p2 ∨ s.ctrl.power = .p3 ∨ s.asidBusy (recAsid b) = true) → exec .launchBind s = .next s) ∧
    ((s.ctrl.power = .p0 ∨ s.ctrl.power = .p1) → s.asidBusy (recAsid b) = false → ∀ img u, s.readImage (recAsid b) (recVa b) = (img, u) →
      (img = none → ∃ t, exec .launchBind s = .next t ∧ Say.launchRefused u t f.2.2 8) ∧
      (∀ i, img = some i → headerOk i = false → ∃ t, exec .launchBind s = .next t ∧ Say.launchRefused u t f.2.2 1) ∧
      (∀ i, img = some i → headerOk i = true → crcOk i = false → ∃ t, exec .launchBind s = .next t ∧ Say.launchRefused u t f.2.2 2) ∧
      (∀ i, img = some i → headerOk i = true → crcOk i = true → launchHeaderOk i = false →
        ∃ t, exec .launchBind s = .next t ∧ Say.launchRefused u t f.2.2 3) ∧
      (∀ i, img = some i → headerOk i = true → crcOk i = true → launchHeaderOk i = true → imgStat i = true → imgLltv i ≠ u.ctrl.lltVersion →
        ∃ t, exec .launchBind s = .next t ∧ Say.launchRefused u t f.2.2 4) ∧
      (∀ i, img = some i → headerOk i = true → crcOk i = true → launchHeaderOk i = true → imgStat i = false →
        (∃ j, j < 6 ∧ ((recExt b).getD j 0 = 0 ∨ 2 ^ min (widthOfField (imgWidw i) j) 32 < (recExt b).getD j 0)) →
        ∃ t, exec .launchBind s = .next t ∧ Say.launchRefused u t f.2.2 6) ∧
      (∀ i ts, img = some i → u.checkImage b i = .ok ts → u.placeFor b (imgWd i) (imgHt i) = none → exec .launchBind s = .next u))

/-- R455 steps 2 to 5: a record of one module that passes every check at a free rectangle becomes a running region of a new id; each tile
of it is loaded: the control state at its reset with CPC at ENTRY, FV of the present banks, its tables, and W, A and C as the image gives
them; the module time of the start is at least 4096 cycles ahead; no other tile changes. -/
def Say.binding : Prop :=
  ∀ (s u : State) (q : Nat) (b i : Bytes) (f : BitVec 2 × BitVec 4 × BitVec 16) (ts : List TileSection) (p : Nat × Nat),
    s.ctrl.dist.sel = some (q, b, f) → (s.ctrl.power = .p0 ∨ s.ctrl.power = .p1) → s.asidBusy (recAsid b) = false →
    s.readImage (recAsid b) (recVa b) = (some i, u) → u.checkImage b i = .ok ts → u.placeFor b (imgWd i) (imgHt i) = some p →
    tablesOk ts p.1 p.2 (imgWd i) (imgHt i) ((imgFlags i) % 2 == 1) = true → u.ownGateways b (gateways ts (imgWd i) (imgHt i)) = true →
    recMm b = false → recRst b = false → u.ctrl.nextRegion ≠ 0xFFFF → (∀ r ∈ u.ctrl.regions, r.id ≠ u.ctrl.nextRegion) →
    ∃ t r, exec .launchBind s = .next t ∧ t.ctrl.regions = u.ctrl.regions ++ [r] ∧ r.id = u.ctrl.nextRegion ∧ r.asid = recAsid b ∧
      r.px = p.1 ∧ r.py = p.2 ∧ r.wd = imgWd i ∧ r.ht = imgHt i ∧ r.state = .running ∧ r.count = extCount (recExt b) ∧ r.next = 0 ∧
      (∃ w, w < 2 ^ 20 ∧ r.tau = u.clock.mtime + BitVec.ofNat 64 (873814 + w)) ∧
      t.ctrl.nextRegion = u.ctrl.nextRegion + 1 ∧ t.ctrl.dist.sel = none ∧ t.far = u.far ∧ t.net = u.net ∧
      (∀ k, k < 5544 → r.has k = false → t.tile k = u.tile k) ∧
      (∀ k sec, k < 5544 → r.has k = true → sectionOf ts (tileX k - p.1) (tileY k - p.2) = some sec →
        (t.tile k).ctl.cpc = sec.entry ∧ (t.tile k).ctl.fv0 = sec.bank0.isSome ∧ (t.tile k).ctl.fv1 = sec.bank1.isSome ∧
        (t.tile k).ctl.fetch = .notStarted ∧ (∀ n, SMap.get 0 (t.tile k).ctl.x n = 0) ∧ (t.tile k).ctl.trap = Ctl.reset.trap ∧
        (t.tile k).ctl.ramp.up = (u.tile k).ctl.ramp.up ∧ (t.tile k).lane.v = Lane.reset.v ∧ (t.tile k).fab.gen = (u.tile k).fab.gen ∧
        (t.tile k).sync.sem = Sync.reset.sem ∧ (t.tile k).winch.queued = [])

/-- R450: the digits of an index in the mixed radix of the extents are the fields of its WID, and different indices have different
WIDs. -/
def Say.workIdentifiers : Prop :=
  ∀ (ext : List Nat) (w : BitVec 42), (∀ j, j < 6 → 1 ≤ ext.getD j 1 ∧ ext.getD j 1 ≤ 2 ^ min (widthOfField w j) 32) →
    (((List.range 6).map fun j => widthOfField w j).sum ≤ 64) → ext.length = 6 →
    (∀ k j, j < 6 → (widOf ext w k).toNat / 2 ^ ((List.range j).map fun i => widthOfField w i).sum % 2 ^ widthOfField w j =
      k / ((List.range j).map fun i => ext.getD i 1).prod % ext.getD j 1) ∧
    (∀ k m, k < ext.prod → m < ext.prod → widOf ext w k = widOf ext w m → k = m)

/-- R369, R451: a waiting ACCEPT takes the lowest index not yet handed out, once, or all ones when the launch has no more; ACCEPT writes the WID it was given, waits while work is
left, and writes all ones when none is. -/
def Say.accepts : Prop :=
  ∀ (s : State) (xd : XReg) (r : Region), s.region = some r → r.mm = false →
    (∀ i w, s.t.ctl.granted = [(.accept, i, w)] → ∃ t, exec (.accept xd) s = .next t ∧ Say.reg t xd = (if xd = 0 then 0 else w) ∧
      t.t.ctl.granted = [] ∧ (∀ y, y ≠ xd → Say.reg t y = Say.reg s y) ∧ t.t.buf = s.t.buf ∧ Say.elsewhere s t) ∧
    (s.t.ctl.granted = [] → r.count ≤ r.next → exec (.accept xd) s = .next (s.setX xd (BitVec.allOnes 64))) ∧
    (s.t.ctl.granted = [] → r.next < r.count → exec (.accept xd) s = .next (s.stall .accept (.accept xd))) ∧
    (∀ i, s.t.ctl.waits = [(.accept, i)] → r.next < r.count → ∃ t, exec .acceptWidDeliver s = .next t ∧
      t.t.ctl.granted = s.t.ctl.granted ++ [(.accept, i, widOf r.ext r.widw r.next)] ∧ t.t.ctl.waits = [] ∧
      t.region = some { r with next := r.next + 1 } ∧ t.agenda = .control s.here :: s.agenda ∧ t.t.buf = s.t.buf ∧
      ∀ k, k ≠ s.here → t.tile k = s.tile k) ∧
    (∀ i, s.t.ctl.waits = [(.accept, i)] → r.count ≤ r.next → ∃ t, exec .acceptWidDeliver s = .next t ∧
      t.t.ctl.granted = s.t.ctl.granted ++ [(.accept, i, BitVec.allOnes 64)] ∧ t.t.ctl.waits = [] ∧ t.region = some r ∧
      t.agenda = .control s.here :: s.agenda ∧ t.t.buf = s.t.buf ∧ ∀ k, k ≠ s.here → t.tile k = s.tile k) ∧
    ((s.t.ctl.waits = [] ∨ ∃ w ∈ s.t.ctl.waits, w.1 ≠ .accept) → exec .acceptWidDeliver s = .next s)

/-- R455 step 5, R456: a tile starts fetching when its copy of MTIME reaches the start; it is released when END has halted fetch and
nothing of it is outstanding, and with the last tile the launch ends and its LREC completes. -/
def Say.startAndRelease : Prop :=
  ∀ (s : State) (r : Region), s.region = some r →
    (r.state = .running → s.here ∉ r.started → s.reached r.tau = true → s.t.ctl.fetch = .notStarted → ∃ t, exec .tileStart s = .next t ∧
      t.t.ctl.fetch = .running ∧ t.t.ctl.cpc = s.t.ctl.cpc ∧ (∀ k, k ≠ s.here → t.tile k = s.tile k) ∧
      t.region = some { r with started := r.started ++ [s.here] }) ∧
    ((r.state = .binding ∨ s.here ∈ r.started ∨ s.reached r.tau = false) → exec .tileStart s = .next s) ∧
    ((s.t.ctl.fetch ≠ .ended ∨ s.t.winch.queued ≠ [] ∨ s.t.winch.running ≠ [] ∨ s.t.fab.ramos ≠ [] ∨ s.here ∈ r.released ∨
      (∃ e ∈ s.t.red.colls, e.2.state = .opened)) → exec .tileRelease s = .next s) ∧
    ((r.state = .running ∨ r.state = .softSaving) → s.here ∉ r.released → s.releasable = true → (∃ k ∈ r.tiles, k ≠ s.here ∧ k ∉ r.released) →
      ∃ t, exec .tileRelease s = .next t ∧ t.region = some { r with released := r.released ++ [s.here] } ∧ t.tiles = s.tiles ∧
        t.host = s.host) ∧
    ((r.state = .running ∨ r.state = .softSaving) → s.here ∉ r.released → s.releasable = true → (∀ k ∈ r.tiles, k = s.here ∨ k ∈ r.released) →
      ∃ t, exec .tileRelease s = .next t ∧ (∀ x ∈ t.ctrl.regions, x.id ≠ r.id) ∧ t.far.mem = s.far.mem ∧
        (s.host.deferred = [] → Say.ended s t 0x10 r.tag false (r.id.setWidth 64)))

/-- R454, R457, R462: a soft pre-emption sets the deadline of a running region, a forced one begins its save, and a request for an unknown
region is refused. -/
def Say.preemptionRequests : Prop :=
  ∀ (s : State) (fn : BitVec 2) (slot : BitVec 4), Say.ready s fn slot 0x12 → let k := Say.field s fn slot 10 1
    (s.regionOf (BitVec.ofNat 16 (Say.field s fn slot 8 2)) = none → Say.refused (.preempt fn slot) s fn slot) ∧
    (∀ r, s.regionOf (BitVec.ofNat 16 (Say.field s fn slot 8 2)) = some r → r.state = .running → s.ctrl.splices = [] →
      (k = 1 ∨ k = 2 ∧ r.stat = true → ∃ t, exec (.preempt fn slot) s = .next t ∧ Say.answered t fn slot 1 0 ∧ t.tiles = s.tiles ∧
        t.regionOf r.id = some { r with state := .softSaving, kind := 1, deadline := some (s.cycle + 2 ^ r.spdl) } ∧
        ∃ d, t.host.deferred = s.host.deferred ++ [d] ∧ d.opc = 0x12 ∧ d.region = r.id ∧ d.tag = s.slotTag fn slot) ∧
      (k = 2 → r.stat = false → ∃ t, exec (.preempt fn slot) s = .next t ∧ Say.answered t fn slot 1 0 ∧ t.tiles = s.tiles ∧
        t.regionOf r.id = some { r with state := .forcedSaving, kind := 2, serial := none, deadline := none } ∧
        t.agenda = .auto s.here (.saveStep r.id) :: s.agenda))

/-- R457: when a soft deadline has passed, a region without static channels is saved by force, and one with them is torn down with event
0xE2 and the number of tiles not saved. -/
def Say.softDeadlines : Prop :=
  ∀ (s : State) (r : Region) (due : Nat), s.regionOf r.id = some r → r.deadline = some due →
    (r.state = .softSaving → due ≤ s.cycle → r.stat = false → ∃ t, exec (.softDeadlineExpire r.id) s = .next t ∧
      t.regionOf r.id = some { r with state := .forcedSaving, kind := 2, serial := none, deadline := none } ∧
      t.agenda = .auto s.here (.saveStep r.id) :: s.agenda ∧ t.tiles = s.tiles ∧ t.host = s.host) ∧
    (r.state = .softSaving → due ≤ s.cycle → r.stat = true → ∃ t, exec (.softDeadlineExpire r.id) s = .next t ∧
      (∀ x ∈ t.ctrl.regions, x.id ≠ r.id) ∧
      ((∀ k, (s.tile k).winch.running = [] ∧ (s.tile k).red.colls = []) → s.host.deferred = [] → Say.roomy s →
        Say.event t 0xE2 (BitVec.ofNat 64 (r.tiles.filter fun k => !r.savedTiles.contains k).length) 0 ∧ Say.event t 0xE4 0xE2 0)) ∧
    ((r.state ≠ .softSaving ∨ s.cycle < due) → exec (.softDeadlineExpire r.id) s = .next s)

/-- R458: a forced pre-emption freezes every tile not yet saved; none is saved while one of them has a Winch command running or a RAMO
outstanding, or while a flit of the region is in the fabric. R459: a translation fault on a frame tears the region down with event 0xE3
and the tile's number. -/
def Say.forcedPreemption : Prop :=
  ∀ (s : State) (r : Region), s.regionOf r.id = some r →
    (r.state ≠ .forcedSaving → exec (.forcedPreemption r.id) s = .next s) ∧
    (r.state = .forcedSaving → r.savedTiles = [] → (∀ k ∈ r.tiles, (s.tile k).red.colls = [] ∧ (s.tile k).ctl.trap.hnd = false ∧
        (s.tile k).sync.canceling = false) →
      ((∃ k ∈ r.tiles, (s.tile k).winch.running ≠ [] ∨ ∃ o ∈ (s.tile k).fab.ramos, o.det = false ∧ o.resp = none) ∨
        (∃ p ∈ s.net, r.has p.src = true)) →
      ∃ t, exec (.forcedPreemption r.id) s = .next t ∧ t.regionOf r.id = some r ∧
        ∀ k ∈ r.tiles, k < 5544 → (t.tile k).ctl.frozen = true ∧ (t.tile k).ctl.cpc = (s.tile k).ctl.cpc ∧
          (t.tile k).winch.queued = (s.tile k).winch.queued) ∧
    (r.state = .forcedSaving → r.wd = 1 → r.ht = 1 → r.savedTiles = [] → r.err = false → r.want = 0 → s.net = [] → s.ctrl.splices = [] →
      ∀ k, r.tiles = [k] → (s.tile k).ctl.frozen = true → (s.tile k).ctl.trap.hnd = false → (s.tile k).sync.canceling = false →
        (s.tile k).winch.running = [] → (s.tile k).fab.ramos = [] → (s.tile k).ctl.softStop = false → s.region = some r → s.here = k →
        ∀ d u ok v, s.forceTile.frame r 2 = (d, u) → u.writeFar r.asid (r.frameVa 0) d = (ok, v) → ∃ t,
          exec (.forcedPreemption r.id) s = .next t ∧ (t.tile k).ctl.fetch = .notStarted ∧
          if ok = true then (∃ x, t.regionOf r.id = some x ∧ x.state = .saved) ∧ t.far.mem = v.far.mem ∧
            (v.host.deferred = [] → Say.roomy v → Say.event t 0xE1 (r.kind.setWidth 64) 0)
          else (∀ x ∈ t.ctrl.regions, x.id ≠ r.id) ∧ ((s.tile k).red.colls = [] → t.far.mem = v.far.mem ∧
            (v.host.deferred = [] → Say.roomy v → Say.event t 0xE3 0 0 ∧ Say.event t 0xE4 0xE3 0)))

/-- R454, R462, R89: TDOWN removes the region at once when nothing of it is under way: its tiles are free, its ASID is invalidated unless
another live region holds it, event 0xE4 carries cause zero, its LREC ends in error and the TDOWN well; an unknown region is refused. -/
def Say.teardown : Prop :=
  ∀ (s : State) (fn : BitVec 2) (slot : BitVec 4), Say.ready s fn slot 0x13 →
    (s.regionOf (BitVec.ofNat 16 (Say.field s fn slot 8 2)) = none → Say.refused (.tdown fn slot) s fn slot) ∧
    (∀ r, s.regionOf (BitVec.ofNat 16 (Say.field s fn slot 8 2)) = some r → r.state = .running → s.ctrl.splices = [] →
      ∃ t, exec (.tdown fn slot) s = .next t ∧ (∀ x ∈ t.ctrl.regions, x.id ≠ r.id) ∧
        (∀ k ∈ r.tiles, (t.tile k).ctl.fetch = .notStarted ∧ (t.tile k).winch.queued = [] ∧ (t.tile k).winch.running = []) ∧
        ((∀ x ∈ s.ctrl.regions, x.id ≠ r.id → x.live = true → x.asid ≠ r.asid) →
          ∃ v ∈ t.far.invals ++ t.far.invalWait, v.kind = 1 ∧ v.asid = r.asid ∧ v.slot = none) ∧
        ((∀ k, (s.tile k).winch.running = [] ∧ (s.tile k).red.colls = []) → s.host.deferred = [] → Say.roomy s →
          Say.event t 0xE4 0 0 ∧ Say.ended s t 0x10 r.tag true (r.id.setWidth 64) ∧ Say.ended s t 0x13 (s.slotTag fn slot) false 0))

/-! ### Launches across modules (16_launch.md R463, R464, R509, R510) -/

/-- A launch and its live region at this module. -/
def Say.launch (s : State) (lid : Word) (l : Launch) (r : Region) : Prop := s.mm lid = some l ∧ s.mmRegion lid = some r

/-- A message left for a module. -/
def Say.posted (s t : State) (m : BitVec 12) (b : MgmtBody) : Prop :=
  (m, ({ src := s.ctrl.modno, dest := m, body := b } : MgmtMsg)) ∈ t.ctrl.outbox

/-- R510: a message named for this module arrives, one named for a directly paired module of a launch known here is sent on to it, and
one of an unknown launch goes no further. -/
def Say.messageRelay : Prop :=
  ∀ (s : State) (m : MgmtMsg),
    (m.dest = s.ctrl.modno → exec (.mgmtMessageRelay m) s = .next { s with agenda := .auto s.here (.mgmt m) :: s.agenda }) ∧
    (∀ l, m.dest ≠ s.ctrl.modno → s.mm (mgmtLid m.body) = some l → s.paired m.dest = true → ∃ t, exec (.mgmtMessageRelay m) s = .next t ∧
      t.ctrl.outbox = s.ctrl.outbox ++ [(m.dest, m)] ∧ t.tiles = s.tiles ∧ t.ctrl.regions = s.ctrl.regions ∧ t.host = s.host) ∧
    (m.dest ≠ s.ctrl.modno → s.mm (mgmtLid m.body) = none → exec (.mgmtMessageRelay m) s = .next s)

/-- R509: two binding messages name the same LID, NMOD and MODS. -/
def Say.sameLaunch (a b : BindMsg) : Prop := a.lid = b.lid ∧ a.nmod = b.nmod ∧ a.mods = b.mods

/-- R509, R282: every gateway entry of one's own message is matched by one of the opposite direction in the message of the module it
names. -/
def Say.gatewaysMatch (me : BitVec 12) (own : BindMsg) (ms : List BindMsg) : Prop :=
  ∀ e ∈ own.gws, ∃ x ∈ ms, x.src = chMod e.ent ∧ ∃ f ∈ x.gws, gwMatch me x.src e f = true

/-- R509: a launch on two modules: the peer's message is checked against one's own and the result sent; a mismatch or a reported failure
refuses with reason 5; with success on both sides the region starts; a message may come before this module binds. -/
def Say.bindingExchange : Prop :=
  ∀ (s : State) (m own : BindMsg) (o : BitVec 12), let me := s.ctrl.modno
    (s.mm m.lid = none → s.mmRegion m.lid = none → ∃ t, exec (.mmBindMessage m) s = .next t ∧ t.tiles = s.tiles ∧
      t.ctrl.regions = s.ctrl.regions ∧ t.ctrl.outbox = s.ctrl.outbox ∧ ∃ l, t.mm m.lid = some l ∧ l.binds = [m]) ∧
    (∀ l r, Say.launch s m.lid l r → r.state = .binding → l.mods = [me, o] → o ≠ me → s.paired o = true → m.src = o → own.src = me →
      (l.binds = [own] → own.result = none → m.result = none →
        (Say.sameLaunch m own → Say.gatewaysMatch me own [own, m] → ∃ t x, exec (.mmBindMessage m) s = .next t ∧
          Say.posted s t o (.bind x) ∧ x.src = me ∧ x.lid = m.lid ∧ x.result = some true ∧ t.ctrl.regions = s.ctrl.regions) ∧
        (¬ (Say.sameLaunch m own ∧ Say.gatewaysMatch me own [own, m]) → ∃ t x, exec (.mmBindMessage m) s = .next t ∧
          Say.posted s t o (.bind x) ∧ x.src = me ∧ x.result = some false ∧ (∀ y ∈ t.ctrl.regions, y.id ≠ r.id) ∧
          (Say.roomy s → Say.event t 0xE0 5 0 ∧ Say.ended s t 0x10 r.tag true 0))) ∧
      (∀ a b, l.binds = [own, a, b] → own.result = none → a.src = o → a.result = none → b.src = me → b.result = some true →
        (m.result = some true → ∃ t x, exec (.mmBindMessage m) s = .next t ∧ t.regionOf r.id = some x ∧
          ((∀ y ∈ s.ctrl.regions, y.id = r.id → y = r) → x.state = .running ∧
            ∃ w, w < 2 ^ 20 ∧ x.tau = s.clock.mtime + BitVec.ofNat 64 (873814 + w))) ∧
        (m.result = some false → ∃ t, exec (.mmBindMessage m) s = .next t ∧ (∀ y ∈ t.ctrl.regions, y.id ≠ r.id) ∧
          (Say.roomy s → Say.event t 0xE0 5 0)))) ∧
    (∀ r l due, s.regionOf r.id = some r → s.mm r.lid = some l → l.bindDue = some due →
      (r.state = .binding → due ≤ s.cycle → ∃ t, exec (.mmBindTimeout r.id) s = .next t ∧ (∀ y ∈ t.ctrl.regions, y.id ≠ r.id) ∧
        (Say.roomy s → Say.event t 0xE0 9 0 ∧ Say.ended s t 0x10 r.tag true 0)) ∧
      ((r.state ≠ .binding ∨ s.cycle < due) → exec (.mmBindTimeout r.id) s = .next s))

/-- R463: the leader gives a batch, a reissued one first and else the counter's next, records it, and asks every other live module to
record it before it grants; alone, it grants at once; a module that does not lead, a failed one, and an exhausted counter give nothing. -/
def Say.batchRequests : Prop :=
  ∀ (s : State) (lid : Word) (pmod : BitVec 12), let me := s.ctrl.modno
    (∀ l r, Say.launch s lid l r →
      (l.leader = me → pmod ∈ l.live → l.minority = false → l.lid = lid →
        (l.reissue = [] → 64 * l.nextBatch < r.count → (∀ a ∈ l.awaiting, a.2.2 ≠ []) → (∃ x ∈ l.live, x ≠ me) →
          ∃ t, exec (.batchRequest lid pmod) s = .next t ∧ t.mm lid = some { l with
              grants := SMap.put l.grants l.nextBatch pmod, nextBatch := l.nextBatch + 1
              awaiting := l.awaiting ++ [(l.nextBatch, pmod, l.live.filter fun x => x != me)] } ∧
            (∀ x ∈ l.live, x ≠ me → s.paired x = true → Say.posted s t x (.grant lid l.nextBatch pmod)) ∧ t.tiles = s.tiles) ∧
        (∀ b rest, l.reissue = b :: rest → (∀ a ∈ l.awaiting, a.2.2 ≠ []) → (∃ x ∈ l.live, x ≠ me) →
          ∃ t, exec (.batchRequest lid pmod) s = .next t ∧ t.mm lid = some { l with
              grants := SMap.put l.grants b pmod, reissue := rest
              awaiting := l.awaiting ++ [(b, pmod, l.live.filter fun x => x != me)] }) ∧
        (l.reissue = [] → 64 * l.nextBatch < r.count → l.awaiting = [] → l.live = [me] → pmod = me →
          ∃ t, exec (.batchRequest lid pmod) s = .next t ∧ t.mm lid = some { l with
              grants := SMap.put l.grants l.nextBatch me, nextBatch := l.nextBatch + 1
              held := l.held ++ [(l.nextBatch, 64 * l.nextBatch)], asked := l.asked - 1 }) ∧
        (l.reissue = [] → r.count ≤ 64 * l.nextBatch → exec (.batchRequest lid pmod) s = .next s)) ∧
      ((l.leader ≠ me ∨ pmod ∉ l.live ∨ l.minority = true) → exec (.batchRequest lid pmod) s = .next s))

/-- R463: a grant record is kept and acknowledged to the leader; the grant itself gives its holder the batch, once; the last
acknowledgement makes the grant, and none before it does. -/
def Say.grants : Prop :=
  ∀ (s : State) (lid : Word) (b : Nat) (h m : BitVec 12) (l : Launch), s.mm lid = some l → l.lid = lid → let me := s.ctrl.modno
    (SMap.find? l.grants b ≠ some h → s.paired l.leader = true → ∃ t, exec (.grantRecord lid b h) s = .next t ∧
      t.mm lid = some { l with grants := SMap.put l.grants b h, nextBatch := max l.nextBatch (b + 1) } ∧
      Say.posted s t l.leader (.grantAck lid b) ∧ t.tiles = s.tiles) ∧
    (SMap.find? l.grants b = some h → h = me → (∀ x ∈ l.held, x.1 ≠ b) → ∃ t, exec (.grantRecord lid b h) s = .next t ∧
      t.mm lid = some { l with held := l.held ++ [(b, 64 * b)], asked := l.asked - 1 } ∧ t.ctrl.outbox = s.ctrl.outbox) ∧
    (SMap.find? l.grants b = some h → (h ≠ me ∨ ∃ x ∈ l.held, x.1 = b) → exec (.grantRecord lid b h) s = .next s) ∧
    (∀ rest, l.awaiting = [(b, h, m :: rest)] → (∃ x ∈ rest, x ≠ m) → ∃ t, exec (.grantAck lid b m) s = .next t ∧
      t.mm lid = some { l with awaiting := [(b, h, rest.filter fun x => x != m)] } ∧ t.ctrl.outbox = s.ctrl.outbox) ∧
    (l.awaiting = [(b, h, [m])] → h = me → ∃ t, exec (.grantAck lid b m) s = .next t ∧
      t.mm lid = some { l with awaiting := [], held := l.held ++ [(b, 64 * b)], asked := l.asked - 1 }) ∧
    (l.awaiting = [(b, h, [m])] → h ≠ me → s.paired h = true → ∃ t, exec (.grantAck lid b m) s = .next t ∧
      t.mm lid = some { l with awaiting := [] } ∧ Say.posted s t h (.grant lid b h))

/-- R464: has a module been silent for three beats of 100 microseconds? -/
def Say.silent (s : State) (l : Launch) (m : BitVec 12) : Prop := SMap.get 0 l.beats m.toNat + 360000 ≤ s.cycle

/-- The modules of a launch that this one reaches or is itself: not declared failed, on a path of live pairings, and, of those whose beats
it hears, not silent (R464, R510). -/
def Say.reached (s : State) (l : Launch) : Nat :=
  (l.mods.filter fun x => x == s.ctrl.modno || (!l.failed.contains x && s.reaches l.mods x &&
    !((x == l.leader || l.leader == s.ctrl.modno) && decide (SMap.get 0 l.beats x.toNat + 360000 ≤ s.cycle)))).length

/-- R463, R464: a heartbeat is noted; a leader that misses three beats of a follower declares it failed with event 0xE6 and issues its
batches again, in increasing number; a follower that misses the leader sends its view, or, when it cannot reach more than half of the modules, draws
nothing more, with event 0xE7. -/
def Say.heartbeats : Prop :=
  ∀ (s : State) (lid : Word) (m : BitVec 12) (l : Launch) (r : Region), Say.launch s lid l r → l.lid = lid → let me := s.ctrl.modno
    (∃ t, exec (.heartbeat lid m) s = .next t ∧ t.mm lid = some { l with beats := SMap.put l.beats m.toNat s.cycle } ∧
      t.tiles = s.tiles ∧ t.host = s.host ∧ t.ctrl.regions = s.ctrl.regions) ∧
    ((¬ Say.silent s l m ∨ m = me ∨ m ∉ l.live) → exec (.heartbeatTimeout lid m) s = .next s) ∧
    (Say.silent s l m → m ≠ me → m ∈ l.live →
      (l.leader = me → l.awaiting = [] → l.mods.length < 2 * Say.reached s l → ∃ t, exec (.heartbeatTimeout lid m) s = .next t ∧
        let lost := (l.grants.filter fun g => g.2 == m).map fun g => g.1
        (∃ rs, t.mm lid = some { l with
            failed := l.failed ++ [m], live := l.live.filter fun x => x != m, reissue := rs } ∧
          (∀ b, b ∈ rs ↔ b ∈ lost ∨ b ∈ l.reissue) ∧ (l.reissue.Pairwise (· < ·) → rs.Pairwise (· < ·))) ∧
        (Say.roomy s → Say.event t 0xE6 (m.setWidth 64) (BitVec.ofNat 64 lost.length))) ∧
      (l.leader ≠ me → l.leader ≠ m → exec (.heartbeatTimeout lid m) s = .next s) ∧
      (l.leader = m → m ≠ me → l.mods.length < 2 * Say.reached s l → (∀ v ∈ l.views, v.src ≠ me) →
        ∃ t v, exec (.heartbeatTimeout lid m) s = .next t ∧ v.src = me ∧ v.lid = lid ∧ v.top = l.nextBatch ∧ m ∉ v.live ∧
          (∀ x ∈ l.mods, x ≠ me → s.paired x = true → Say.posted s t x (.view v)) ∧
          .auto s.here (.mgmt { src := me, dest := me, body := .view v }) ∈ t.agenda ∧ t.mm lid = some l) ∧
      (l.leader = m → m ≠ me → l.minority = false → 2 * Say.reached s l ≤ l.mods.length →
        ∃ t, exec (.heartbeatTimeout lid m) s = .next t ∧ t.mm lid = some { l with minority := true } ∧
          t.ctrl.outbox = s.ctrl.outbox ∧ (Say.roomy s → Say.event t 0xE7 (me.setWidth 64) 0)))

/-- R464: views are collected; when more than half of the modules have spoken, the lowest module that more than half agree is live leads,
its counter one batch above the highest of any live module's table, and it issues again, in increasing number, the batches of modules
that are gone; batches held by live modules stay. -/
def Say.elections : Prop :=
  ∀ (s : State) (v : View) (l : Launch), s.mm v.lid = some l → l.lid = v.lid → (∀ x ∈ l.views, x.src ≠ v.src) →
    let me := s.ctrl.modno
    let views := l.views ++ [v]
    let agreed := l.mods.filter fun m => decide (l.mods.length < 2 * (views.filter fun x => x.live.contains m).length)
    ((∃ x ∈ views, x.src = me) → 2 * views.length ≤ l.mods.length → ∃ t, exec (.electionView v) s = .next t ∧
      t.mm v.lid = some { l with views := views } ∧ t.host = s.host) ∧
    (∀ w ws, (∃ x ∈ views, x.src = me) → l.mods.length < 2 * views.length → agreed = w :: ws → ∃ t k,
      exec (.electionView v) s = .next t ∧ t.mm v.lid = some k ∧ k.leader = w ∧ k.live = w :: ws ∧ k.views = [] ∧
      k.nextBatch = (views.filter fun x => (w :: ws).contains x.src).foldl (fun n x => max n x.top) l.nextBatch ∧
      k.reissue = (if w = me then (l.grants.filter fun g => !(w :: ws).contains g.2).map fun g => g.1 else []) ∧
      k.grants = l.grants ∧ (me ∈ w :: ws → k.held = l.held) ∧ k.failed =
        l.failed ++ l.mods.filter (fun m => !(w :: ws).contains m && !l.failed.contains m) ∧
      (w = me → Say.roomy s → l.mods.length ≤ 64 → Say.event t 0xE5 (me.setWidth 64) 0)) ∧
    ((∀ x ∈ views, x.src ≠ me) → ∃ t mine, exec (.electionView v) s = .next t ∧ mine.src = me ∧ mine.lid = v.lid ∧
      t.mm v.lid = some { l with views := views } ∧
      (∀ x ∈ l.mods, x ≠ me → s.paired x = true → Say.posted s t x (.view mine)))

/-! ### Boot, splices and power (17_faults_repair.md R479-R493; 05_tile_buffers.md R142) -/

/-- R487, R488: the reason a stored block fails its checks: 1 malformed, 4 firmware, 3 signature, 2 rollback. -/
def Say.blockFails (s : State) (b : Bytes) (reason : Byte) : Prop :=
  (reason = 1 ∧ cfgFormed b = false) ∨
  (cfgFormed b = true ∧ (reason = 4 ∧ cfgFw b ≠ beBytes 32 Config.firmwareDigest.toNat ∨
    cfgFw b = beBytes 32 Config.firmwareDigest.toNat ∧
      let signed := rsaOk Config.romKey (b.take (b.length - 384)) (b.drop (b.length - 384))
      (reason = 3 ∧ signed = false ∨ reason = 2 ∧ signed = true ∧ cfgVer b < s.ctrl.counter.toNat)))

/-- R488: a stored block passes its checks. -/
def Say.blockPasses (s : State) (b : Bytes) : Prop :=
  cfgFormed b = true ∧ cfgFw b = beBytes 32 Config.firmwareDigest.toNat ∧
  rsaOk Config.romKey (b.take (b.length - 384)) (b.drop (b.length - 384)) = true ∧ s.ctrl.counter.toNat ≤ cfgVer b

/-- What the flash of the management controller holds. -/
def Say.sameFlash (s t : State) : Prop :=
  t.ctrl.config = s.ctrl.config ∧ t.ctrl.cfgLen = s.ctrl.cfgLen ∧ t.ctrl.retired = s.ctrl.retired ∧ t.ctrl.cellLog = s.ctrl.cellLog

/-- R488, R489, R493: a boot whose block fails leaves the module in recovery with the reason; one whose block passes raises the counter
to VER and, if the map can be built and training succeeds, writes event 0xF0; far memory has lost its contents and the flash has not;
a module with power does not boot; power removal turns the module off. -/
def Say.boots : Prop :=
  ∀ (s : State), let b := s.cfg
    (s.ctrl.power ≠ .off → exec .boot s = .next s) ∧
    (∀ why, s.ctrl.power = .off → Say.blockFails s b why → ∃ t, exec .boot s = .next t ∧ t.ctrl.recovery = true ∧ t.ctrl.reason = why ∧
      t.ctrl.counter = s.ctrl.counter ∧ t.ctrl.regions = [] ∧ Say.sameFlash s t) ∧
    (s.ctrl.power = .off → Say.blockPasses s b → cfgMap b = 0 → buildMap (s.deadOf b) = none →
      ∃ t, exec .boot s = .next t ∧ t.ctrl.recovery = true ∧ t.ctrl.reason = 5 ∧ t.ctrl.counter.toNat = cfgVer b % 2 ^ 32) ∧
    (∀ m, s.ctrl.power = .off → Say.blockPasses s b → cfgMap b = 0 → buildMap (s.deadOf b) = some m →
      ∃ t, exec .boot s = .next t ∧ t.far.mem = [] ∧ Say.sameFlash s t ∧ t.ctrl.counter.toNat = cfgVer b % 2 ^ 32 ∧
        t.ctrl.modno = cfgModno b ∧ t.host.mem = s.host.mem ∧ (∀ k, k < 5544 → t.home k = homeIn m k) ∧
        (t.ctrl.recovery = true ∧ t.ctrl.reason = 6 ∨ t.ctrl.recovery = false ∧ t.ctrl.power = .p0 ∧
          Say.event t 0xF0 (BitVec.ofNat 64 (cfgVer b)) (BitVec.ofNat 64 (m.filter fun e => isSpare e.2).length))) ∧
    (∃ t, exec .powerRemoval s = .next t ∧ t.ctrl.power = .off ∧ t.far.mem = [] ∧ t.ctrl.regions = [] ∧ Say.sameFlash s t ∧
      t.ctrl.counter = s.ctrl.counter)

/-- R479: a tile whose own column and field has a spare that is live, unused and within the bound of 01_module.md R18 takes that spare. -/
def Say.spareChoice : Prop :=
  ∀ (m : List (Nat × Nat)) (dead : List Nat) (t : Nat), let home := homeIn m t
    let spare := 72 * (home / 72) + 12 * (home % 72 / 12) + 5
    home < 6048 → spare ∉ dead → (∀ e ∈ m, e.2 ≠ spare) → (∀ p, p < 4 → hopsIn (SMap.put m t spare) t (neighbour t p) ≤ 8) →
      pickSpare m dead t = some spare

/-- The argument of a splice event (R495). -/
def Say.spliceArg (old new t : Nat) : Word := BitVec.ofNat 64 (old + 2 ^ 16 * new + 2 ^ 32 * (t % 84) + 2 ^ 39 * (t / 84))

/-- A tile of which at most the links in service changed. -/
def Say.sameButLinks (x y : Tile) : Prop := y = { x with fab := { x.fab with linkDown := y.fab.linkDown } }

/-- R481-R484: requests run one at a time: an idle tile is only remapped, with events 0xEB and 0xEC, and has what its spare holds; a region without static channels has
the home frozen first, and the tile goes on at its new home with an empty far-TLB and the next generation; one with them is held by a
soft pre-emption; with no spare, or no answer within 1 ms, the splice is refused with events 0xED and 0xEE and the tile retired. -/
def Obligations.Splices : Prop :=
  ∀ (s : State) (p : SpliceReq), let t := p.tile
    (s.ctrl.splices = [] → exec .spliceExecute s = .next s ∧ exec .spliceTimeout s = .next s) ∧
    (s.ctrl.splices = [p] → t < 5544 → p.cmd = none → p.trigger ≠ 0x31 →
      (∀ ph, s.regionAt t = none → (∀ r ∈ s.ctrl.regions, r.has t = false) → p.stage = 0 → s.spareFor p = .ok ph →
        ∃ u, exec .spliceExecute s = .next u ∧ u.home t = ph ∧ (u.tile t).fab.gen = (s.tile t).fab.gen + 1 ∧ u.ctrl.splices = [] ∧
          (ph ≠ s.home t → (u.tile t).buf = (s.spareTile ph).buf ∧ (u.tile t).mx = (s.spareTile ph).mx ∧
            (u.tile t).winch = (s.spareTile ph).winch) ∧
          (∀ k, k ≠ t → Say.sameButLinks (s.tile k) (u.tile k) ∧ u.home k = s.home k) ∧
          (Say.roomy s → Say.event u 0xEB (Say.spliceArg (s.home t) 0xFFFF t) (p.trigger.setWidth 64) ∧
            Say.event u 0xEC (Say.spliceArg (s.home t) ph t) u.ctrl.lltVersion)) ∧
      (∀ n, s.regionAt t = none → (∀ r ∈ s.ctrl.regions, r.has t = false) → p.stage = 0 → s.spareFor p = .error n → s.ports = [] →
        ∃ u, exec .spliceExecute s = .next u ∧ u.home t = s.home t ∧ u.ctrl.splices = [] ∧
          SMap.find? u.ctrl.retired (s.home t) = some p.trigger ∧ s.home t ∈ u.ctrl.deadTiles ∧
          (Say.roomy s → Say.event u 0xED (Say.spliceArg (s.home t) 0xFFFF t) (BitVec.ofNat 64 n) ∧
            Say.event u 0xEE (BitVec.ofNat 64 (s.home t)) (p.trigger.setWidth 64))) ∧
      (∀ r, s.regionAt t = some r → p.stage = 0 → r.state ≠ .running → exec .spliceExecute s = .next s) ∧
      (∀ r, s.regionAt t = some r → p.stage = 0 → r.state = .running → r.stat = false → ∃ u, exec .spliceExecute s = .next u ∧
        u.ctrl.splices = [{ p with stage := 1, due := 0 }] ∧ u.tiles = s.tiles ∧
        (Say.roomy s → Say.event u 0xEB (Say.spliceArg (s.home t) 0xFFFF t) (p.trigger.setWidth 64))) ∧
      (∀ r, s.regionAt t = some r → p.stage = 0 → r.state = .running → r.stat = true → ∃ u x, exec .spliceExecute s = .next u ∧
        u.regionOf r.id = some x ∧ ((∀ y ∈ s.ctrl.regions, y.id = r.id → y = r) → x.state = .softSaving) ∧ u.tiles = s.tiles) ∧
      (∀ r, s.regionAt t = some r → r.stat = false → p.stage = 1 → (s.tile t).ctl.trap.hnd = false → (s.tile t).sync.canceling = false →
        ∃ u, exec .spliceExecute s = .next u ∧ (u.tile t).ctl.frozen = true ∧ (u.tile t).ctl.cpc = (s.tile t).ctl.cpc ∧
          u.ctrl.splices = [{ p with stage := 2, due := s.cycle + 1200000 }] ∧ ∀ k, k ≠ t → u.tile k = s.tile k) ∧
      (∀ r ph, s.regionAt t = some r → r.stat = false → p.stage = 2 → (s.tile t).ctl.frozen = true → (s.tile t).winch.running = [] →
        (s.tile t).fab.ramos = [] → s.spareFor p = .ok ph → ∃ u, exec .spliceExecute s = .next u ∧ u.home t = ph ∧
          (u.tile t).ctl.frozen = false ∧ (u.tile t).ctl.cpc = (s.tile t).ctl.cpc ∧ (u.tile t).ctl.blk = (s.tile t).ctl.blk ∧
          (u.tile t).buf.mem = (s.tile t).buf.mem ∧ (u.tile t).fab.gen = (s.tile t).fab.gen + 1 ∧ (u.tile t).winch.tlb = [] ∧
          (u.tile t).fab.chans = (s.tile t).fab.chans ∧ ∀ k, k ≠ t → Say.sameButLinks (s.tile k) (u.tile k)) ∧
      (∀ r, s.regionAt t = some r → p.stage = 2 → p.due ≤ s.cycle → s.ports = [] → ∃ u, exec .spliceTimeout s = .next u ∧
        u.ctrl.splices = [] ∧ (∀ x ∈ u.ctrl.regions, x.id ≠ r.id) ∧ s.home t ∈ u.ctrl.deadTiles ∧
        (Say.roomy s → Say.event u 0xED (Say.spliceArg (s.home t) 0xFFFF t) 2)) ∧
      ((p.stage ≠ 2 ∨ s.cycle < p.due) → exec .spliceTimeout s = .next s))

/-- R490: a module command that completes as soon as it is accepted. -/
def Say.serves (i : Instr) (s : State) (fn : BitVec 2) (slot : BitVec 4) (err : Bool) (keeps : State → Prop) : Prop :=
  ∃ t, exec i s = .next t ∧ keeps t ∧ Say.ended s t (s.slotByte fn slot 0) (s.slotTag fn slot) err 0

/-- R490-R493: the management commands: BSTAT's words, SPLICE's request, PSTATE's states and its busy answer, CFGLOAD's and CLRRET's checks,
RESYNC's new map, and where DEFRD and ATTEST write. -/
def Obligations.ManagementCommands : Prop :=
  ∀ (s : State) (fn : BitVec 2) (slot : BitVec 4), let f := Say.field s fn slot
    (Say.ready s fn slot 0x20 → ∃ t, exec (.bstat fn slot) s = .next t ∧ Say.quiet s t ∧ Say.answered t fn slot 2 0 ∧
      Say.field t fn slot 8 4 = s.ctrl.reason.toNat ∧ Say.field t fn slot 12 4 = cfgVer s.cfg % 2 ^ 32 ∧
      Say.field t fn slot 16 4 = (match s.ctrl.power with | .p0 => 0 | .p1 => 1 | .p2 => 2 | .p3 => 3 | .off => 4) ∧
      Say.field t fn slot 20 4 = (s.ctrl.phys.filter fun e => isSpare e.2).length % 2 ^ 32 ∧
      Say.field t fn slot 24 4 = s.ctrl.retired.length % 2 ^ 32) ∧
    (Say.ready s fn slot 0x21 → (5543 < f 8 2 → Say.refused (.splice fn slot) s fn slot) ∧
      (f 8 2 ≤ 5543 → f 10 1 ≤ 1 → ∃ t p, exec (.splice fn slot) s = .next t ∧ Say.answered t fn slot 1 0 ∧
        t.ctrl.splices = s.ctrl.splices ++ [p] ∧ p.tile = f 8 2 ∧ p.spare = (if f 10 1 = 1 then some (f 12 2) else none) ∧ p.stage = 0 ∧
        assigned p.trigger = true ∧ p.home = s.home p.tile ∧
        t.tiles = s.tiles)) ∧
    (Say.ready s fn slot 0x22 → (s.ctrl.splices ≠ [] → Say.busy (.resync fn slot) s fn slot) ∧
      (∀ m, s.ctrl.splices = [] → s.ctrl.regions = [] → s.ctrl.cfgLen = 0 → buildMap (s.deadOf []) = some m →
        ∃ t, exec (.resync fn slot) s = .next t ∧ (∀ k, k < 5544 → t.home k = homeIn m k) ∧ t.clock = s.clock ∧
          t.ctrl.lltVersion = s.ctrl.lltVersion + 1 ∧ t.ctrl.deadTiles = s.deadOf [] ∧ (s.ports = [] →
            t.far.mem = s.far.mem ∧ (∀ k, k < 4 → (t.side k).slice = []) ∧
            (∀ k, k < 5544 → (t.tile k).winch.tlb = [] ∧ (t.tile k).fab.gen =
              (if homeIn m k = s.home k then (s.tile k).fab.gen else (s.tile k).fab.gen + 1)) ∧
            (Say.roomy s → Say.event t 0xF1 (BitVec.ofNat 64 (cfgVer s.cfg)) t.ctrl.lltVersion) ∧
            Say.ended s t 0x22 (s.slotTag fn slot) false 0))) ∧
    (Say.ready s fn slot 0x23 → Say.serves (.attest fn slot) s fn slot false fun t => Say.quiet s t ∧
      t.slotBytes fn slot 8 32 = s.slotBytes fn slot 8 32 ∧ t.slotWord fn slot 40 = s.clock.mtime.toNat ∧
      Say.field t fn slot 48 4 = cfgVer s.cfg % 2 ^ 32 ∧ Say.field t fn slot 52 4 = s.ctrl.modno.toNat ∧
      (∀ k, k < 8 → Say.hostWord t (s.slotWord fn slot 40 + 8 * k) = ofBytes (((s.report (s.slotBytes fn slot 8 32)).drop (248 + 8 * k)).take 8))) ∧
    (Say.ready s fn slot 0x24 → (4 ≤ f 8 1 → Say.refused (.pstate fn slot) s fn slot) ∧
      ((f 8 1 = 2 ∨ f 8 1 = 3) → (∃ r ∈ s.ctrl.regions, r.live = true) → Say.busy (.pstate fn slot) s fn slot) ∧
      (∀ p n, (f 8 1 = 0 ∧ p = Power.p0 ∧ n = 120 ∨ f 8 1 = 1 ∧ p = Power.p1 ∧ n = 64) → s.ctrl.power ≠ p →
        ∃ t, exec (.pstate fn slot) s = .next t ∧ t.ctrl.power = p ∧ (∀ k, k < 5544 → (t.tile k).ctl.ramp.up = n ∧
          (t.tile k).ctl.ramp.dn = n ∧ (t.tile k).buf = (s.tile k).buf ∧ (t.tile k).ctl.x = (s.tile k).ctl.x) ∧
          Say.ended s t 0x24 (s.slotTag fn slot) false 0 ∧
          (Say.roomy s → ∃ e ∈ t.host.pend, e.code = 0xF2 ∧ bits 0 4 e.arg0 = BitVec.ofNat 4 p.code ∧
            bits 4 4 e.arg0 = BitVec.ofNat 4 s.ctrl.power.code ∧ assigned (bits 8 8 e.arg0) = true)) ∧
      (∀ p, (f 8 1 = 2 ∧ p = Power.p2 ∨ f 8 1 = 3 ∧ p = Power.p3) → (∀ r ∈ s.ctrl.regions, r.live = false) → s.host.deferred = [] →
        ∃ t, exec (.pstate fn slot) s = .next t ∧ t.ctrl.power = p ∧
          (p = .p3 → ∀ n q, SMap.find? t.ports n = some q → s.ctrl.power ≠ .p3 → q.up = false) ∧
          (p = .p2 ∨ s.ports = [] → t.far = s.far ∧ t.tiles = s.tiles ∧ Say.ended s t 0x24 (s.slotTag fn slot) false 0))) ∧
    (Say.ready s fn slot 0x25 → let b := (s.hostBytes (s.slotWord fn slot 8) (s.slotWord fn slot 16)).map fun x => x.1
      s.slotWord fn slot 16 ≤ 2 ^ 20 → (∀ x ∈ s.hostBytes (s.slotWord fn slot 8) (s.slotWord fn slot 16), x.2 = false) →
      (Say.blockPasses s b → Say.serves (.cfgload fn slot) s fn slot false fun t => t.cfg = b ∧ t.ctrl.phys = s.ctrl.phys ∧
        t.ctrl.counter = s.ctrl.counter ∧ t.tiles = s.tiles) ∧
      (∀ why, Say.blockFails s b why → Say.serves (.cfgload fn slot) s fn slot true fun t => Say.quiet s t)) ∧
    (Say.ready s fn slot 0x26 → (s.slotWord fn slot 8 % 4096 ≠ 0 → Say.refused (.defrd fn slot) s fn slot) ∧
      (s.slotWord fn slot 8 % 4096 = 0 → Say.serves (.defrd fn slot) s fn slot false fun t => Say.quiet s t ∧
        ∀ k, k < 5544 → s.home k < 65536 → (SMap.get 0 t.host.mem (s.slotWord fn slot 8 + 2 * k)).toNat +
          256 * (SMap.get 0 t.host.mem (s.slotWord fn slot 8 + 2 * k + 1)).toNat = s.home k)) ∧
    (Say.ready s fn slot 0x27 → let a := s.slotWord fn slot 8
      let n := ofBytes ((s.hostBytes (a + 8) 4).map fun x => x.1)
      let b := (s.hostBytes a n).map fun x => x.1
      n ≤ 2 ^ 20 → (∀ x ∈ s.hostBytes a n, x.2 = false) →
      (Say.blockPasses s b → Say.serves (.clrret fn slot) s fn slot false fun t => t.ctrl.retired = [] ∧ t.ctrl.cellLog = [] ∧ t.ctrl.config = s.ctrl.config ∧
        t.tiles = s.tiles) ∧
      (∀ why, Say.blockFails s b why → Say.serves (.clrret fn slot) s fn slot true fun t => Say.quiet s t))

/-- R493: above the warning limit P0 becomes P1, RAMPCFG follows, and event 0xF3 is written; above the critical limit every region is torn
down, P3 is entered, and event 0xF3 says so. -/
def Say.temperature : Prop :=
  ∀ (s : State) (sensor : Word),
    (∃ t, exec (.temperatureWarning sensor) s = .next t ∧ (Say.roomy s → Say.event t 0xF3 sensor 0) ∧ t.ctrl.regions = s.ctrl.regions ∧
      t.far = s.far ∧ (s.ctrl.power = .p0 → t.ctrl.power = .p1 ∧ (Say.roomy s → Say.event t 0xF2 0xF301 0) ∧
        ∀ k, k < 5544 → (t.tile k).ctl.ramp.up = 64 ∧ (t.tile k).ctl.ramp.dn = 64 ∧ (t.tile k).buf = (s.tile k).buf) ∧
      (s.ctrl.power ≠ .p0 → t.ctrl.power = s.ctrl.power ∧ t.tiles = s.tiles)) ∧
    (∃ t, exec (.temperatureCritical sensor) s = .next t ∧ t.ctrl.regions = [] ∧ (s.ctrl.power ≠ .off → t.ctrl.power = .p3) ∧
      (s.ctrl.regions = [] → s.host.deferred = [] → Say.roomy s → Say.event t 0xF3 sensor 1))

/-- R142, R143: a word of the I-store with bad parity is copied again from the image, its 64-byte block whole, and counted; with no
refetch source, or when the copy fails, the sequencer that fetched it faults with 0x82; a word with good parity is left alone. On the lane
side the rows in flight complete, and the bundle is replayed when every write before it has landed (08_vector.md R214). -/
def Say.storeRefetch : Prop :=
  ∀ (s : State) (lane : Bool) (a : Nat), a < 0x10000 →
    let bad := SMap.get false s.t.buf.ispar ((0x400000 + a) / 8)
    let src := if a < 0x8000 then s.t.buf.src0 else s.t.buf.src1
    let u := s.modBuf fun b => { b with iparc := inc16 b.iparc }
    let c : Cause := { code := 0x82, arg := 0, slot := 15, async := false, lane := lane, val := 0 }
    let w := if lane then (u.flush).modLane fun l => { l with replay := true } else u
    let fails (x : State) : State := if lane then laneFault c x else x.trapEntry c
    (bad = false → exec (.istoreRefetch lane a) s = .next s) ∧
    (bad = true → src = none → exec (.istoreRefetch lane a) s = .next (fails w)) ∧
    (∀ k d v, bad = true → src = some k → a % 0x8000 / 64 * 64 + 64 ≤ k.len →
      w.readFar k.asid 3 (k.va + k.off + a % 0x8000 / 64 * 64) 64 = (d, v) →
      (cleanBytes d = none → exec (.istoreRefetch lane a) s = .next (fails v)) ∧
      (∀ bs, cleanBytes d = some bs → ∃ t, exec (.istoreRefetch lane a) s = .next t ∧
        (∀ i, i < 64 → SMap.get 0 t.t.buf.mem (0x400000 + a / 64 * 64 + i) = bs.getD i 0) ∧
        (∀ i, i < 8 → SMap.get false t.t.buf.ispar ((0x400000 + a / 64 * 64) / 8 + i) = false) ∧
        (∀ x, x < 0x400000 + a / 64 * 64 ∨ 0x400000 + a / 64 * 64 + 64 ≤ x →
          SMap.get 0 t.t.buf.mem x = SMap.get 0 v.t.buf.mem x) ∧ t.t.ctl = v.t.ctl ∧ t.t.lane = v.t.lane ∧ ∀ k, k ≠ s.here → t.tile k = v.tile k))

/-! ### The whole machine -/

/-- R2, R15: every instruction and every event completes in every state: it has its effect, waits or takes its trap, and none is refused or
stops the machine. A step whose turn names a tile of the module always goes through; a turn of a tile that does not exist is the one
fault. The choice of a fault for it is the model's. -/
def Obligations.EveryStepGoesThrough : Prop :=
  ∀ (s : State),
    (∀ i : Instr, ∃ t, exec i s = .next t) ∧
    ((∀ x rest, s.agenda = x :: rest → x.tile < 5544) → ∃ t, step s = .next t) ∧
    (∀ x rest, s.agenda = x :: rest → 5544 ≤ x.tile → step s = .fault .noSuchTile) ∧
    (∀ r, step s ≠ .refused r)

/-- Every memory of the module is in its canonical form: addresses rising, and nothing listed that an unlisted address reads as. -/
def Say.canonical (s : State) : Prop :=
  Memory.wf s.far.mem = true ∧ Memory.wf s.host.mem = true ∧ (∀ e ∈ s.tiles, Memory.wf e.2.buf.mem = true) ∧
  ∀ e ∈ s.spares, Memory.wf e.2.buf.mem = true

/-- Every step keeps the form of the memories, so that equal memories are equal data. The form is the model's. -/
def Obligations.MemoriesStayCanonical : Prop :=
  ∀ (s t : State), Say.canonical s → step s = .next t → Say.canonical t

/-- R7: the CSRs of every tile when boot completes, as their maps give them: AF and BF are BF16, the limiter is on with 120 both ways, and
the others but LSTAT are zero; the memories have their form. -/
def Obligations.ResetValues : Prop :=
  (∀ k, k < 5544 → let s : State := { State.reset with here := k }
    s.csr 0x021 = some 0xCC0 ∧ s.csr 0x040 = some 0x8000000000780078 ∧
    ∀ a ∈ ([0x000, 0x008, 0x009, 0x010, 0x011, 0x012, 0x013, 0x014, 0x015, 0x020, 0x022, 0x030, 0x031, 0x100, 0x101] : List (BitVec 12)),
      s.csr a = some 0) ∧
  Say.canonical State.reset ∧ State.reset.ctrl.dist.lastq = 15 ∧ State.reset.ctrl.regions = []

/-- R16, R17: where the default map puts each logical tile: columns folded, rows folded among the 66 ordinary rows, and the spare row of
each field stepped over; no two tiles share a place, and a logical link spans one to three physical hops. -/
def Obligations.DefaultMap : Prop :=
  ∀ (s : State) (x y : Nat), x < 84 → y < 66 → s.ctrl.phys = [] →
    let o := if y < 33 then 2 * y else 2 * (65 - y) + 1
    let px := if x < 42 then 2 * x else 2 * (83 - x) + 1
    let py := if o % 11 < 5 then 12 * (o / 11) + o % 11 else 12 * (o / 11) + o % 11 + 1
    s.home (84 * y + x) = 72 * px + py ∧ px < 84 ∧ py < 72 ∧ py % 12 ≠ 5 ∧
    (∀ t, t < 5544 → s.home t = s.home (84 * y + x) → t = 84 * y + x) ∧
    s.hops (84 * y + x) (neighbour (84 * y + x) 1) = (if x = 41 ∨ x = 83 then 1 else 2) ∧
    1 ≤ s.hops (84 * y + x) (neighbour (84 * y + x) 2) ∧ s.hops (84 * y + x) (neighbour (84 * y + x) 2) ≤ 3

/-- R54, R40: NOP has no effect. -/
def Say.noOperation : Prop := ∀ (s : State) (k e : Bool), exec (.nop k e) s = .next s

/-! ### Statements made of several rules -/

/-- Results of the scalar arithmetic: each arithmetic, comparison, bitwise, shift and counting opcode writes its result to xD modulo
2^64, x0 staying zero. -/
def Obligations.ScalarOperations : Prop :=
  Say.scalarSums ∧ Say.scalarDivision ∧ Say.scalarComparisons ∧ Say.scalarBitwise ∧ Say.scalarShifts ∧ Say.scalarCounts

/-- Fields, register writes and waits: field instructions and their faults, what a write to xD changes, what an outstanding or marked
source does, and NOP. -/
def Obligations.ScalarRegisters : Prop :=
  Say.scalarFields ∧ Say.scalarRegisterWrites ∧ Say.scalarHazards ∧ Say.noOperation

/-- Control and status registers: CSRR reads, and CSRW, CSRS and CSRC change a register only where its map allows; an unassigned address
is fault 0x0C; the events of the clearing registers do the same. When a clear meets the flags of the same cycle is the log's reading. -/
def Obligations.CsrAccess : Prop :=
  Say.csrReads ∧ Say.csrWrites ∧ Say.csrWriteEvents

/-- Branches, loops, calls and bank switches: each branch goes to its target or falls through, LOOP counts, calls push and RET pops, and
nothing else changes. -/
def Obligations.ControlFlow : Prop :=
  Say.branchesRule ∧ Say.loopAndBankSwitch ∧ Say.calls ∧ Say.branchFrame

/-- Traps, their handlers and END: a takeable cause enters the handler with its saved state, a cause of A kind waits for a handler to
end, ERET restores, and END halts fetch. The place of TEPC for a bundle that ran off its bank is the log's. -/
def Obligations.Traps : Prop :=
  Say.trapEntry ∧ Say.asynchronousCausesWait ∧ Say.trapReturn ∧ Say.endOfProgram

/-- Faults, escalation and the handler limit: a bundle with a fault has no effect, an escalation freezes the tile with event 0xEA, and a
handler may run 2^20 cycles. -/
def Obligations.FaultHandling : Prop :=
  Say.faultsOfABundle ∧ Say.escalation ∧ Say.handlerTimeLimit

/-- Encoding and decoding agree: every well-formed instruction of the S, BR and SM slots, with every operand its encoding admits,
decodes from its own word to itself. -/
def Obligations.EncodingReadsBack : Prop :=
  Say.scalarEncodingReadsBack ∧ Say.branchAndMemoryEncodingReadsBack

/-- A step runs the bundle at the program counter: when the bytes at CPC or LPC decode to a bundle, the step is its instructions run in
order over the machine with the bundle opened. -/
def Obligations.StepRunsBundles : Prop :=
  Say.stepRunsControlBundle ∧ Say.stepRunsLaneBundle

/-- Issued and stalled bundles: a bundle without fault or wait advances its counter, and one that must wait leaves the registers as they
were and is tried again. -/
def Obligations.BundlesAtIssue : Prop :=
  Say.issuedBundle ∧ Say.stalledBundle

/-- Illegal bundles and events: bytes that decode to no bundle raise the fault the decoder names, and the turn of an event is exec of
it. -/
def Obligations.StepRunsOtherTurns : Prop :=
  Say.stepOfIllegalBundle ∧ Say.stepRunsEvents

/-- Scalar loads: the addresses of the SM slot, the extended bytes a load writes to xD, and what a read changes. The count of
uncorrectable words at their finding is the log's reading. -/
def Obligations.ScalarLoads : Prop :=
  Say.smAddresses ∧ Say.scalarLoads ∧ Say.readFrame

/-- Scalar stores and atomics: a store writes the low bytes of its register at its address and nothing else, and an atomic writes the
new word and returns the old one. -/
def Obligations.ScalarStores : Prop :=
  Say.scalarStores ∧ Say.scalarAtomics

/-- CHRSV, CHWAIT, CHREL and CHSTAT: the counters of windowed channels as their instructions move them, and when they wait. -/
def Obligations.ChannelCounters : Prop :=
  Say.channelReservation ∧ Say.channelClaim ∧ Say.channelReleaseAndStatus

/-- Remote atomics: a RAMO sends its request, is performed once at its home, and writes its register; a deterministic one waits for the
phase barrier. The detaching of a register written meanwhile is the log's. -/
def Obligations.RemoteAtomics : Prop :=
  Say.remoteAtomicRequest ∧ Say.remoteAtomicPerformance ∧ Say.deterministicRemoteAtomics

/-- Semaphores: increments saturate and are noted, and a wait is granted in ticket order and takes its count. -/
def Obligations.Semaphores : Prop :=
  Say.semaphores ∧ Say.semaphoreWaits

/-- Barriers: arrivals count towards an episode, a wait passes when its episode is released, and ARRWAIT does both once, as the log
says. -/
def Obligations.Barriers : Prop :=
  Say.barrierArrivals ∧ Say.barrierWaits

/-- Word and time waits, fences and digests: WAITA and WAITT complete when their condition holds, fences wait for what they order,
IFENCE makes banks visible, and the digest instructions read and write theirs. -/
def Obligations.WaitsAndFences : Prop :=
  Say.wordWaits ∧ Say.timeWaits ∧ Say.fencesAndDigests ∧ Say.instructionFence

/-- Phases: PHBEGIN takes a snapshot, PHCOMMIT commits when its commands are done and flips the pairs, the phase barrier ends the
deterministic phase, and PHCANCEL puts the snapshot back. -/
def Obligations.Phases : Prop :=
  Say.phaseBegin ∧ Say.phaseCommit ∧ Say.phaseBarrier ∧ Say.phaseCancel

/-- The Halyard queue: tokens are captured and queued, DISPATCH starts a block, and tokens take effect in order. -/
def Obligations.HalyardTokens : Prop :=
  Say.tokensQueued ∧ Say.dispatch ∧ Say.tokensTaken

/-- Lane writes and the ramp limiter: a lane write lands at its due cycle and not before, and the ramp window limits the beats. -/
def Obligations.LaneTiming : Prop :=
  Say.laneLandings ∧ Say.rampWindow

/-- Commands enter the Winch queues: a command captures its operands and joins a queue of sixteen, illegal forms fault, and a request
packet becomes a command. -/
def Obligations.WinchIssue : Prop :=
  Say.commandsIssued ∧ Say.commandsRefused ∧ Say.requestPackets

/-- Immediate WN instructions: shape registers, status reads, and the configuration of request queues and completion rings; a shape
write shows three bundles later. -/
def Obligations.WinchImmediate : Prop :=
  Say.winchImmediate ∧ Say.shapeWritesShow

/-- From the head of a queue to the record: a command starts when its queue allows, waits otherwise, completes with its word, semaphore
and record, and the scrubber runs on its interval. -/
def Obligations.CommandLife : Prop :=
  Say.commandStart ∧ Say.commandHeadWaits ∧ Say.commandComplete ∧ Say.completionRecord ∧ Say.scrubInterval

/-- Remote accesses and far memory: what a remote Winch request does at its home, what its answer does at the requester, and what a far
access moves. -/
def Obligations.RemoteAccess : Prop :=
  Say.remoteWinchAccess ∧ Say.remoteWinchCompletes ∧ Say.winchAnswers ∧ Say.farMemoryAccess

/-- Misses, fills and invalidations: a miss joins or begins a walk, a finished walk fills and answers, a failed side loses its slice,
and an invalidation removes what it covers. Replacement order is the log's. -/
def Obligations.Translation : Prop :=
  Say.translationMisses ∧ Say.walkCompletes ∧ Say.translationFills ∧ Say.translationSidesAndInvalidation

/-- Lane operands: names resolve through the rotation, dead names fault, and a stream source pops its position once. -/
def Obligations.LaneOperands : Prop :=
  Say.laneSources ∧ Say.streamPops

/-- Integer and bit operations of the lanes: each enabled element gets its result, the others keep theirs, and flags and poison follow.
-/
def Obligations.LaneIntegers : Prop :=
  Say.laneIntegers ∧ Say.laneBitsRule

/-- Floating operations and conversions of the lanes: each enabled element gets the rounded result with its flags. Where the spec bounds
an error and does not give the value, the value is the model's. -/
def Obligations.LaneFloats : Prop :=
  Say.laneFloatsRule ∧ Say.laneConversionsRule

/-- Permutations and reductions of the lanes: elements move where their indexes say, a reduction combines the enabled elements as its
tree says, and an integer sum is their sum modulo the width. -/
def Obligations.LaneRows : Prop :=
  Say.lanePermutations ∧ Say.laneReductionsRule ∧ Say.reductionSum

/-- Lane loads and gathers: a load takes the bytes at its stream position, a gather those at its indexes, and both wait for their
latency. -/
def Obligations.LaneLoads : Prop :=
  Say.laneLoads ∧ Say.gathers

/-- Lane stores, scatters and vector atomics: a store writes the enabled elements at its position, a scatter at its indexes, and a
vector atomic acts element by element. That it acts at issue is the log's choice. -/
def Obligations.LaneStores : Prop :=
  Say.laneStores ∧ Say.vectorAtomics

/-- Channel slots of the lanes: a send puts its flit on the channel with the next number, and a receive takes the flit it has claimed.
-/
def Obligations.ChannelSlots : Prop :=
  Say.channelSends ∧ Say.channelReceives

/-- Rows and planes of the matrix array: a push enters a row, a row that is complete adds its totals to its frame row, and plane loads
decode records. -/
def Obligations.MatrixRows : Prop :=
  Say.wholeSlotsOff ∧ Say.matrixPushes ∧ Say.matrixBeats ∧ Say.matrixPlaneLoads

/-- Rounds of a reduction: a round opens, takes contributions in order and within its length, and reports its state. -/
def Obligations.Rounds : Prop :=
  Say.roundsOpen ∧ Say.contributions ∧ Say.roundStatus

/-- Tree flits, aborts and barrier flits: what each flit of a tree does at a switch, and how a round ends when it cannot complete. -/
def Obligations.RoundEvents : Prop :=
  Say.treeFlits ∧ Say.roundAborts ∧ Say.barrierFlits

/-- Packets and channels on the fabric: a packet moves along its route hop by hop, a channel stores, acknowledges and resends, and a
stale generation is answered and tried again. -/
def Obligations.Fabric : Prop :=
  Say.packetHops ∧ Say.defaultRoutes ∧ Say.channelArrivals ∧ Say.channelAcknowledgements ∧ Say.staleGenerations

/-- Optical ports: flits are checked, acknowledged, replayed and retired in order; records ride in them; ports train, reef, unreef and
go down. -/
def Obligations.Optical : Prop :=
  Say.opticalFlits ∧ Say.opticalTraffic ∧ Say.opticalRecords ∧ Say.opticalReplay ∧ Say.opticalTraining ∧ Say.opticalReefs ∧
  Say.opticalUnreefs

/-- The windows of the host: the tile and far-memory windows, host atomics, and link changes. The layout of the rate and width word is
the log's. -/
def Obligations.HostWindows : Prop :=
  Say.hostRequests ∧ Say.tileWindow ∧ Say.farWindow ∧ Say.hostAtomics ∧ Say.hostLinks

/-- Event rings and registers: an entry is written with its phase and number while the ring has room, HEAD moves as the host writes it,
and the registers of BAR 0 do as their map says. -/
def Obligations.EventRings : Prop :=
  Say.eventHeads ∧ Say.eventRings ∧ Say.eventHoldoff ∧ Say.registerWrites ∧ Say.registerReads

/-- Mailbox slots and commands: when a doorbell acts, is ignored or is refused, and the effect and completion of the commands of R348.
The place of argument words in a slot is the log's. -/
def Obligations.Mailbox : Prop :=
  Say.mailboxDoorbells ∧ Say.immediateCommands ∧ Say.invalidationRequests ∧ Say.latencyTableRequest ∧ Say.hostCopies ∧ Say.hostCopyEnds
  ∧ Say.unreefCommand

/-- Launch commands: records join their queues after their checks, and QPRIO, RSTAT, PREEMPT and TDOWN do their work. -/
def Obligations.LaunchCommands : Prop :=
  Say.launchRecords ∧ Say.queueAndRegionStatus ∧ Say.preemptionRequests ∧ Say.teardown

/-- The distributor and binding: which record is selected, why one is refused, and what a bound region and its tiles are. Reading the
image before the other checks is the log's. -/
def Obligations.Launches : Prop :=
  Say.distributor ∧ Say.bindingRefusals ∧ Say.binding

/-- Work identifiers, start and release: indices map to distinct WIDs and are handed out once, tiles start at their time, and the last
release ends the launch. -/
def Obligations.WorkAndRelease : Prop :=
  Say.workIdentifiers ∧ Say.accepts ∧ Say.startAndRelease

/-- Soft deadlines and forced saves: a missed deadline turns to force or teardown, and nothing is saved before every tile is still. -/
def Obligations.Preemption : Prop :=
  Say.softDeadlines ∧ Say.forcedPreemption

/-- Launches across modules: binding messages, batches and their grants, heartbeats and elections. What the spec does not fix of the
messages is the log's. -/
def Obligations.MultiModuleLaunches : Prop :=
  Say.messageRelay ∧ Say.bindingExchange ∧ Say.batchRequests ∧ Say.grants ∧ Say.heartbeats ∧ Say.elections

/-- Boot, spares, temperature, refetch and time: the reasons a boot fails for and what it leaves, the spare a tile takes, the power
states temperature forces, the repair of the I-store, and module time. -/
def Obligations.BootAndRepair : Prop :=
  Say.boots ∧ Say.spareChoice ∧ Say.temperature ∧ Say.storeRefetch ∧ Say.moduleTime
end

