-- ==== Sys2Proof/Laws/SMap.lean ====
section
/-!
SUPPORT. What the operations of sparse maps do: reads after writes, and that every write keeps the canonical form.
-/

namespace Sys2Proof.Machine

variable {α : Type}

theorem SMap.get_erase (d : α) (m : List (Nat × α)) (k j : Nat) :
    SMap.get d (SMap.erase m k) j = if j = k then d else SMap.get d m j := by
  induction m with
  | nil => simp [SMap.erase, SMap.get]
  | cons e rest ih =>
    obtain ⟨i, v⟩ := e
    by_cases hik : i = k
    · by_cases hjk : j = k
      · subst hik; subst hjk; simpa [SMap.erase] using ih
      · have : ¬ k = j := fun h => hjk h.symm
        simp [SMap.erase, SMap.get, hik, ih, hjk, this]
    · by_cases hij : i = j
      · have : ¬ j = k := fun h => hik (hij.trans h)
        simp [SMap.erase, SMap.get, hik, hij, this]
      · simp [SMap.erase, SMap.get, hik, hij, ih]

theorem SMap.get_insert (d : α) (m : List (Nat × α)) (k j : Nat) (v : α)
    (h : SMap.get d m k = d ∨ j ≠ k) (hk : ∀ e ∈ m, e.1 ≠ k) :
    SMap.get d (SMap.insert k v m) j = if j = k then v else SMap.get d m j := by
  induction m with
  | nil => simp [SMap.insert, SMap.get, eq_comm]
  | cons e rest ih =>
    obtain ⟨i, w⟩ := e
    have hik : i ≠ k := hk (i, w) (by simp)
    have hrest : ∀ e ∈ rest, e.1 ≠ k := fun e he => hk e (by simp [he])
    by_cases hlt : k < i
    · by_cases hjk : j = k
      · simp [SMap.insert, SMap.get, hlt, hjk]
      · have : ¬ k = j := fun h => hjk h.symm
        simp [SMap.insert, SMap.get, hlt, hjk, this]
    · have h' : SMap.get d rest k = d ∨ j ≠ k := by
        rcases h with h | h
        · left; simpa [SMap.get, hik] using h
        · exact .inr h
      by_cases hij : i = j
      · have : ¬ j = k := fun h => hik (hij.trans h)
        have hlt' : ¬ k < j := hij ▸ hlt
        simp [SMap.insert, SMap.get, hlt', hij, this]
      · simp [SMap.insert, SMap.get, hlt, hij, ih h' hrest]

theorem SMap.erase_ne (m : List (Nat × α)) (k : Nat) : ∀ e ∈ SMap.erase m k, e.1 ≠ k := by
  induction m with
  | nil => simp [SMap.erase]
  | cons e rest ih =>
    obtain ⟨i, v⟩ := e
    by_cases hik : i = k
    · simpa [SMap.erase, hik] using ih
    · simp only [SMap.erase, hik, if_false, List.mem_cons]
      rintro e (rfl | he)
      · exact hik
      · exact ih e he

/-- Reading after a replacement: the value at the key, the old value elsewhere. -/
theorem SMap.get_put (d : α) (m : List (Nat × α)) (k j : Nat) (v : α) :
    SMap.get d (SMap.put m k v) j = if j = k then v else SMap.get d m j := by
  unfold SMap.put
  rw [SMap.get_insert d _ k j v (.inl (by simp [SMap.get_erase])) (SMap.erase_ne m k), SMap.get_erase]
  split <;> simp_all

@[simp] theorem SMap.get_put_self (d : α) (m : List (Nat × α)) (k : Nat) (v : α) :
    SMap.get d (SMap.put m k v) k = v := by simp [SMap.get_put]

theorem SMap.get_put_ne (d : α) (m : List (Nat × α)) {k j : Nat} (v : α) (h : j ≠ k) :
    SMap.get d (SMap.put m k v) j = SMap.get d m j := by simp [SMap.get_put, h]

/-- Reading after a write that lists no default. -/
theorem SMap.get_set [DecidableEq α] (d : α) (m : List (Nat × α)) (k j : Nat) (v : α) :
    SMap.get d (SMap.set d m k v) j = if j = k then v else SMap.get d m j := by
  unfold SMap.set
  by_cases hv : v = d
  · simp [hv, SMap.get_erase]
  · simp [hv, SMap.get_put]

@[simp] theorem SMap.get_set_self [DecidableEq α] (d : α) (m : List (Nat × α)) (k : Nat) (v : α) :
    SMap.get d (SMap.set d m k v) k = v := by simp [SMap.get_set]

theorem SMap.get_set_ne [DecidableEq α] (d : α) (m : List (Nat × α)) {k j : Nat} (v : α) (h : j ≠ k) :
    SMap.get d (SMap.set d m k v) j = SMap.get d m j := by simp [SMap.get_set, h]

@[simp] theorem SMap.get_nil (d : α) (k : Nat) : SMap.get d ([] : List (Nat × α)) k = d := rfl

theorem SMap.rising_mono {lo lo' : Nat} (h : lo' ≤ lo) (m : List (Nat × α)) (hm : SMap.rising lo m = true) :
    SMap.rising lo' m = true := by
  cases m with
  | nil => rfl
  | cons e rest =>
    simp only [SMap.rising, Bool.and_eq_true, decide_eq_true_eq] at hm ⊢
    exact ⟨by omega, hm.2⟩

theorem SMap.rising_erase (lo k : Nat) (m : List (Nat × α)) (h : SMap.rising lo m = true) :
    SMap.rising lo (SMap.erase m k) = true := by
  induction m generalizing lo with
  | nil => rfl
  | cons e rest ih =>
    obtain ⟨i, v⟩ := e
    simp only [SMap.rising, Bool.and_eq_true, decide_eq_true_eq] at h
    by_cases hik : i = k
    · simp only [SMap.erase, hik, if_true]
      exact SMap.rising_mono (by omega) _ (ih _ h.2)
    · simp only [SMap.erase, hik, if_false, SMap.rising, Bool.and_eq_true, decide_eq_true_eq]
      exact ⟨h.1, ih _ h.2⟩

theorem SMap.rising_insert (lo k : Nat) (v : α) (m : List (Nat × α)) (h : SMap.rising lo m = true) (hlo : lo ≤ k)
    (hk : ∀ e ∈ m, e.1 ≠ k) : SMap.rising lo (SMap.insert k v m) = true := by
  induction m generalizing lo with
  | nil => simpa [SMap.insert, SMap.rising] using hlo
  | cons e rest ih =>
    obtain ⟨i, w⟩ := e
    simp only [SMap.rising, Bool.and_eq_true, decide_eq_true_eq] at h
    have hik : i ≠ k := hk (i, w) (by simp)
    by_cases hlt : k < i
    · simp only [SMap.insert, hlt, if_true, SMap.rising, Bool.and_eq_true, decide_eq_true_eq]
      exact ⟨hlo, by omega, h.2⟩
    · simp only [SMap.insert, hlt, if_false, SMap.rising, Bool.and_eq_true, decide_eq_true_eq]
      exact ⟨h.1, ih _ h.2 (by omega) fun e he => hk e (by simp [he])⟩

theorem SMap.mem_insert {k : Nat} {v : α} {m : List (Nat × α)} {e : Nat × α} (h : e ∈ SMap.insert k v m) :
    e = (k, v) ∨ e ∈ m := by
  induction m with
  | nil => simpa [SMap.insert] using h
  | cons f rest ih =>
    by_cases hlt : k < f.1
    · simpa [SMap.insert, hlt] using h
    · simp only [SMap.insert, hlt, if_false, List.mem_cons] at h
      rcases h with h | h
      · exact .inr (by simp [h])
      · rcases ih h with h | h
        · exact .inl h
        · exact .inr (by simp [h])

theorem SMap.mem_erase {k : Nat} {m : List (Nat × α)} {e : Nat × α} (h : e ∈ SMap.erase m k) : e ∈ m := by
  induction m with
  | nil => simp [SMap.erase] at h
  | cons f rest ih =>
    by_cases hik : f.1 = k
    · simp only [SMap.erase, hik, if_true] at h
      simp [ih h]
    · simp only [SMap.erase, hik, if_false, List.mem_cons] at h
      rcases h with h | h
      · simp [h]
      · simp [ih h]

/-- A write keeps the canonical form. -/
theorem SMap.wf_set [DecidableEq α] (d : α) (m : List (Nat × α)) (k : Nat) (v : α) (h : SMap.wf d m = true) :
    SMap.wf d (SMap.set d m k v) = true := by
  simp only [SMap.wf, Bool.and_eq_true, List.all_eq_true, decide_eq_true_eq] at h ⊢
  unfold SMap.set
  by_cases hv : v = d
  · simp only [hv, if_true]
    exact ⟨SMap.rising_erase _ _ _ h.1, fun e he => h.2 e (SMap.mem_erase he)⟩
  · simp only [hv, if_false, SMap.put]
    refine ⟨SMap.rising_insert _ _ _ _ (SMap.rising_erase _ _ _ h.1) (Nat.zero_le _) (SMap.erase_ne m k), ?_⟩
    intro e he
    rcases SMap.mem_insert he with rfl | he
    · exact hv
    · exact h.2 e (SMap.mem_erase he)

@[simp] theorem SMap.wf_nil [DecidableEq α] (d : α) : SMap.wf d ([] : List (Nat × α)) = true := rfl

end Sys2Proof.Machine
end

