-- ==== Sys2Proof/Laws/State.lean ====
section
/-!
SUPPORT. The fields of the state after each update: one lemma for each field and update, and the present tile after an update of one
of its units.
-/

namespace Sys2Proof.Machine

open Sys2Proof

@[simp] theorem State.setTile_tiles (s : State) (t : Nat) (x : Tile) : (s.setTile t x).tiles = SMap.put s.tiles t x := rfl
@[simp] theorem State.setTile_net (s : State) (t : Nat) (x : Tile) : (s.setTile t x).net = s.net := rfl
@[simp] theorem State.setTile_spares (s : State) (t : Nat) (x : Tile) : (s.setTile t x).spares = s.spares := rfl
@[simp] theorem State.setTile_nextPacket (s : State) (t : Nat) (x : Tile) : (s.setTile t x).nextPacket = s.nextPacket := rfl
@[simp] theorem State.setTile_far (s : State) (t : Nat) (x : Tile) : (s.setTile t x).far = s.far := rfl
@[simp] theorem State.setTile_ports (s : State) (t : Nat) (x : Tile) : (s.setTile t x).ports = s.ports := rfl
@[simp] theorem State.setTile_host (s : State) (t : Nat) (x : Tile) : (s.setTile t x).host = s.host := rfl
@[simp] theorem State.setTile_clock (s : State) (t : Nat) (x : Tile) : (s.setTile t x).clock = s.clock := rfl
@[simp] theorem State.setTile_ctrl (s : State) (t : Nat) (x : Tile) : (s.setTile t x).ctrl = s.ctrl := rfl
@[simp] theorem State.setTile_cycle (s : State) (t : Nat) (x : Tile) : (s.setTile t x).cycle = s.cycle := rfl
@[simp] theorem State.setTile_agenda (s : State) (t : Nat) (x : Tile) : (s.setTile t x).agenda = s.agenda := rfl
@[simp] theorem State.setTile_here (s : State) (t : Nat) (x : Tile) : (s.setTile t x).here = s.here := rfl
@[simp] theorem State.setTile_bun (s : State) (t : Nat) (x : Tile) : (s.setTile t x).bun = s.bun := rfl
@[simp] theorem State.setTile_free (s : State) (t : Nat) (x : Tile) : (s.setTile t x).free = s.free := rfl

@[simp] theorem State.modT_tiles (s : State) (f : Tile → Tile) : (s.modT f).tiles = SMap.put s.tiles s.here (f s.t) := rfl
@[simp] theorem State.modT_net (s : State) (f : Tile → Tile) : (s.modT f).net = s.net := rfl
@[simp] theorem State.modT_spares (s : State) (f : Tile → Tile) : (s.modT f).spares = s.spares := rfl
@[simp] theorem State.modT_nextPacket (s : State) (f : Tile → Tile) : (s.modT f).nextPacket = s.nextPacket := rfl
@[simp] theorem State.modT_far (s : State) (f : Tile → Tile) : (s.modT f).far = s.far := rfl
@[simp] theorem State.modT_ports (s : State) (f : Tile → Tile) : (s.modT f).ports = s.ports := rfl
@[simp] theorem State.modT_host (s : State) (f : Tile → Tile) : (s.modT f).host = s.host := rfl
@[simp] theorem State.modT_clock (s : State) (f : Tile → Tile) : (s.modT f).clock = s.clock := rfl
@[simp] theorem State.modT_ctrl (s : State) (f : Tile → Tile) : (s.modT f).ctrl = s.ctrl := rfl
@[simp] theorem State.modT_cycle (s : State) (f : Tile → Tile) : (s.modT f).cycle = s.cycle := rfl
@[simp] theorem State.modT_agenda (s : State) (f : Tile → Tile) : (s.modT f).agenda = s.agenda := rfl
@[simp] theorem State.modT_here (s : State) (f : Tile → Tile) : (s.modT f).here = s.here := rfl
@[simp] theorem State.modT_bun (s : State) (f : Tile → Tile) : (s.modT f).bun = s.bun := rfl
@[simp] theorem State.modT_free (s : State) (f : Tile → Tile) : (s.modT f).free = s.free := rfl

@[simp] theorem State.modFar_tiles (s : State) (f : Far → Far) : (s.modFar f).tiles = s.tiles := rfl
@[simp] theorem State.modFar_net (s : State) (f : Far → Far) : (s.modFar f).net = s.net := rfl
@[simp] theorem State.modFar_spares (s : State) (f : Far → Far) : (s.modFar f).spares = s.spares := rfl
@[simp] theorem State.modFar_nextPacket (s : State) (f : Far → Far) : (s.modFar f).nextPacket = s.nextPacket := rfl
@[simp] theorem State.modFar_far (s : State) (f : Far → Far) : (s.modFar f).far = f s.far := rfl
@[simp] theorem State.modFar_ports (s : State) (f : Far → Far) : (s.modFar f).ports = s.ports := rfl
@[simp] theorem State.modFar_host (s : State) (f : Far → Far) : (s.modFar f).host = s.host := rfl
@[simp] theorem State.modFar_clock (s : State) (f : Far → Far) : (s.modFar f).clock = s.clock := rfl
@[simp] theorem State.modFar_ctrl (s : State) (f : Far → Far) : (s.modFar f).ctrl = s.ctrl := rfl
@[simp] theorem State.modFar_cycle (s : State) (f : Far → Far) : (s.modFar f).cycle = s.cycle := rfl
@[simp] theorem State.modFar_agenda (s : State) (f : Far → Far) : (s.modFar f).agenda = s.agenda := rfl
@[simp] theorem State.modFar_here (s : State) (f : Far → Far) : (s.modFar f).here = s.here := rfl
@[simp] theorem State.modFar_bun (s : State) (f : Far → Far) : (s.modFar f).bun = s.bun := rfl
@[simp] theorem State.modFar_free (s : State) (f : Far → Far) : (s.modFar f).free = s.free := rfl

@[simp] theorem State.modHost_tiles (s : State) (f : HostSide → HostSide) : (s.modHost f).tiles = s.tiles := rfl
@[simp] theorem State.modHost_net (s : State) (f : HostSide → HostSide) : (s.modHost f).net = s.net := rfl
@[simp] theorem State.modHost_spares (s : State) (f : HostSide → HostSide) : (s.modHost f).spares = s.spares := rfl
@[simp] theorem State.modHost_nextPacket (s : State) (f : HostSide → HostSide) : (s.modHost f).nextPacket = s.nextPacket := rfl
@[simp] theorem State.modHost_far (s : State) (f : HostSide → HostSide) : (s.modHost f).far = s.far := rfl
@[simp] theorem State.modHost_ports (s : State) (f : HostSide → HostSide) : (s.modHost f).ports = s.ports := rfl
@[simp] theorem State.modHost_host (s : State) (f : HostSide → HostSide) : (s.modHost f).host = f s.host := rfl
@[simp] theorem State.modHost_clock (s : State) (f : HostSide → HostSide) : (s.modHost f).clock = s.clock := rfl
@[simp] theorem State.modHost_ctrl (s : State) (f : HostSide → HostSide) : (s.modHost f).ctrl = s.ctrl := rfl
@[simp] theorem State.modHost_cycle (s : State) (f : HostSide → HostSide) : (s.modHost f).cycle = s.cycle := rfl
@[simp] theorem State.modHost_agenda (s : State) (f : HostSide → HostSide) : (s.modHost f).agenda = s.agenda := rfl
@[simp] theorem State.modHost_here (s : State) (f : HostSide → HostSide) : (s.modHost f).here = s.here := rfl
@[simp] theorem State.modHost_bun (s : State) (f : HostSide → HostSide) : (s.modHost f).bun = s.bun := rfl
@[simp] theorem State.modHost_free (s : State) (f : HostSide → HostSide) : (s.modHost f).free = s.free := rfl

@[simp] theorem State.modCtrl_tiles (s : State) (f : Ctrl → Ctrl) : (s.modCtrl f).tiles = s.tiles := rfl
@[simp] theorem State.modCtrl_net (s : State) (f : Ctrl → Ctrl) : (s.modCtrl f).net = s.net := rfl
@[simp] theorem State.modCtrl_spares (s : State) (f : Ctrl → Ctrl) : (s.modCtrl f).spares = s.spares := rfl
@[simp] theorem State.modCtrl_nextPacket (s : State) (f : Ctrl → Ctrl) : (s.modCtrl f).nextPacket = s.nextPacket := rfl
@[simp] theorem State.modCtrl_far (s : State) (f : Ctrl → Ctrl) : (s.modCtrl f).far = s.far := rfl
@[simp] theorem State.modCtrl_ports (s : State) (f : Ctrl → Ctrl) : (s.modCtrl f).ports = s.ports := rfl
@[simp] theorem State.modCtrl_host (s : State) (f : Ctrl → Ctrl) : (s.modCtrl f).host = s.host := rfl
@[simp] theorem State.modCtrl_clock (s : State) (f : Ctrl → Ctrl) : (s.modCtrl f).clock = s.clock := rfl
@[simp] theorem State.modCtrl_ctrl (s : State) (f : Ctrl → Ctrl) : (s.modCtrl f).ctrl = f s.ctrl := rfl
@[simp] theorem State.modCtrl_cycle (s : State) (f : Ctrl → Ctrl) : (s.modCtrl f).cycle = s.cycle := rfl
@[simp] theorem State.modCtrl_agenda (s : State) (f : Ctrl → Ctrl) : (s.modCtrl f).agenda = s.agenda := rfl
@[simp] theorem State.modCtrl_here (s : State) (f : Ctrl → Ctrl) : (s.modCtrl f).here = s.here := rfl
@[simp] theorem State.modCtrl_bun (s : State) (f : Ctrl → Ctrl) : (s.modCtrl f).bun = s.bun := rfl
@[simp] theorem State.modCtrl_free (s : State) (f : Ctrl → Ctrl) : (s.modCtrl f).free = s.free := rfl

@[simp] theorem State.soon_tiles (s : State) (x : Turn) : (s.soon x).tiles = s.tiles := rfl
@[simp] theorem State.soon_net (s : State) (x : Turn) : (s.soon x).net = s.net := rfl
@[simp] theorem State.soon_spares (s : State) (x : Turn) : (s.soon x).spares = s.spares := rfl
@[simp] theorem State.soon_nextPacket (s : State) (x : Turn) : (s.soon x).nextPacket = s.nextPacket := rfl
@[simp] theorem State.soon_far (s : State) (x : Turn) : (s.soon x).far = s.far := rfl
@[simp] theorem State.soon_ports (s : State) (x : Turn) : (s.soon x).ports = s.ports := rfl
@[simp] theorem State.soon_host (s : State) (x : Turn) : (s.soon x).host = s.host := rfl
@[simp] theorem State.soon_clock (s : State) (x : Turn) : (s.soon x).clock = s.clock := rfl
@[simp] theorem State.soon_ctrl (s : State) (x : Turn) : (s.soon x).ctrl = s.ctrl := rfl
@[simp] theorem State.soon_cycle (s : State) (x : Turn) : (s.soon x).cycle = s.cycle := rfl
@[simp] theorem State.soon_agenda (s : State) (x : Turn) : (s.soon x).agenda = x :: s.agenda := rfl
@[simp] theorem State.soon_here (s : State) (x : Turn) : (s.soon x).here = s.here := rfl
@[simp] theorem State.soon_bun (s : State) (x : Turn) : (s.soon x).bun = s.bun := rfl
@[simp] theorem State.soon_free (s : State) (x : Turn) : (s.soon x).free = s.free := rfl

@[simp] theorem State.auto_tiles (s : State) (a : Auto) : (s.auto a).tiles = s.tiles := rfl
@[simp] theorem State.auto_net (s : State) (a : Auto) : (s.auto a).net = s.net := rfl
@[simp] theorem State.auto_spares (s : State) (a : Auto) : (s.auto a).spares = s.spares := rfl
@[simp] theorem State.auto_nextPacket (s : State) (a : Auto) : (s.auto a).nextPacket = s.nextPacket := rfl
@[simp] theorem State.auto_far (s : State) (a : Auto) : (s.auto a).far = s.far := rfl
@[simp] theorem State.auto_ports (s : State) (a : Auto) : (s.auto a).ports = s.ports := rfl
@[simp] theorem State.auto_host (s : State) (a : Auto) : (s.auto a).host = s.host := rfl
@[simp] theorem State.auto_clock (s : State) (a : Auto) : (s.auto a).clock = s.clock := rfl
@[simp] theorem State.auto_ctrl (s : State) (a : Auto) : (s.auto a).ctrl = s.ctrl := rfl
@[simp] theorem State.auto_cycle (s : State) (a : Auto) : (s.auto a).cycle = s.cycle := rfl
@[simp] theorem State.auto_agenda (s : State) (a : Auto) : (s.auto a).agenda = .auto s.here a :: s.agenda := rfl
@[simp] theorem State.auto_here (s : State) (a : Auto) : (s.auto a).here = s.here := rfl
@[simp] theorem State.auto_bun (s : State) (a : Auto) : (s.auto a).bun = s.bun := rfl
@[simp] theorem State.auto_free (s : State) (a : Auto) : (s.auto a).free = s.free := rfl

@[simp] theorem State.modCtl_tiles (s : State) (f : Ctl → Ctl) : (s.modCtl f).tiles = SMap.put s.tiles s.here { s.t with ctl := f s.t.ctl } := rfl
@[simp] theorem State.modCtl_net (s : State) (f : Ctl → Ctl) : (s.modCtl f).net = s.net := rfl
@[simp] theorem State.modCtl_spares (s : State) (f : Ctl → Ctl) : (s.modCtl f).spares = s.spares := rfl
@[simp] theorem State.modCtl_nextPacket (s : State) (f : Ctl → Ctl) : (s.modCtl f).nextPacket = s.nextPacket := rfl
@[simp] theorem State.modCtl_far (s : State) (f : Ctl → Ctl) : (s.modCtl f).far = s.far := rfl
@[simp] theorem State.modCtl_ports (s : State) (f : Ctl → Ctl) : (s.modCtl f).ports = s.ports := rfl
@[simp] theorem State.modCtl_host (s : State) (f : Ctl → Ctl) : (s.modCtl f).host = s.host := rfl
@[simp] theorem State.modCtl_clock (s : State) (f : Ctl → Ctl) : (s.modCtl f).clock = s.clock := rfl
@[simp] theorem State.modCtl_ctrl (s : State) (f : Ctl → Ctl) : (s.modCtl f).ctrl = s.ctrl := rfl
@[simp] theorem State.modCtl_cycle (s : State) (f : Ctl → Ctl) : (s.modCtl f).cycle = s.cycle := rfl
@[simp] theorem State.modCtl_agenda (s : State) (f : Ctl → Ctl) : (s.modCtl f).agenda = s.agenda := rfl
@[simp] theorem State.modCtl_here (s : State) (f : Ctl → Ctl) : (s.modCtl f).here = s.here := rfl
@[simp] theorem State.modCtl_bun (s : State) (f : Ctl → Ctl) : (s.modCtl f).bun = s.bun := rfl
@[simp] theorem State.modCtl_free (s : State) (f : Ctl → Ctl) : (s.modCtl f).free = s.free := rfl

@[simp] theorem State.modLane_tiles (s : State) (f : Lane → Lane) : (s.modLane f).tiles = SMap.put s.tiles s.here { s.t with lane := f s.t.lane } := rfl
@[simp] theorem State.modLane_net (s : State) (f : Lane → Lane) : (s.modLane f).net = s.net := rfl
@[simp] theorem State.modLane_spares (s : State) (f : Lane → Lane) : (s.modLane f).spares = s.spares := rfl
@[simp] theorem State.modLane_nextPacket (s : State) (f : Lane → Lane) : (s.modLane f).nextPacket = s.nextPacket := rfl
@[simp] theorem State.modLane_far (s : State) (f : Lane → Lane) : (s.modLane f).far = s.far := rfl
@[simp] theorem State.modLane_ports (s : State) (f : Lane → Lane) : (s.modLane f).ports = s.ports := rfl
@[simp] theorem State.modLane_host (s : State) (f : Lane → Lane) : (s.modLane f).host = s.host := rfl
@[simp] theorem State.modLane_clock (s : State) (f : Lane → Lane) : (s.modLane f).clock = s.clock := rfl
@[simp] theorem State.modLane_ctrl (s : State) (f : Lane → Lane) : (s.modLane f).ctrl = s.ctrl := rfl
@[simp] theorem State.modLane_cycle (s : State) (f : Lane → Lane) : (s.modLane f).cycle = s.cycle := rfl
@[simp] theorem State.modLane_agenda (s : State) (f : Lane → Lane) : (s.modLane f).agenda = s.agenda := rfl
@[simp] theorem State.modLane_here (s : State) (f : Lane → Lane) : (s.modLane f).here = s.here := rfl
@[simp] theorem State.modLane_bun (s : State) (f : Lane → Lane) : (s.modLane f).bun = s.bun := rfl
@[simp] theorem State.modLane_free (s : State) (f : Lane → Lane) : (s.modLane f).free = s.free := rfl

@[simp] theorem State.modMx_tiles (s : State) (f : Mx → Mx) : (s.modMx f).tiles = SMap.put s.tiles s.here { s.t with mx := f s.t.mx } := rfl
@[simp] theorem State.modMx_net (s : State) (f : Mx → Mx) : (s.modMx f).net = s.net := rfl
@[simp] theorem State.modMx_spares (s : State) (f : Mx → Mx) : (s.modMx f).spares = s.spares := rfl
@[simp] theorem State.modMx_nextPacket (s : State) (f : Mx → Mx) : (s.modMx f).nextPacket = s.nextPacket := rfl
@[simp] theorem State.modMx_far (s : State) (f : Mx → Mx) : (s.modMx f).far = s.far := rfl
@[simp] theorem State.modMx_ports (s : State) (f : Mx → Mx) : (s.modMx f).ports = s.ports := rfl
@[simp] theorem State.modMx_host (s : State) (f : Mx → Mx) : (s.modMx f).host = s.host := rfl
@[simp] theorem State.modMx_clock (s : State) (f : Mx → Mx) : (s.modMx f).clock = s.clock := rfl
@[simp] theorem State.modMx_ctrl (s : State) (f : Mx → Mx) : (s.modMx f).ctrl = s.ctrl := rfl
@[simp] theorem State.modMx_cycle (s : State) (f : Mx → Mx) : (s.modMx f).cycle = s.cycle := rfl
@[simp] theorem State.modMx_agenda (s : State) (f : Mx → Mx) : (s.modMx f).agenda = s.agenda := rfl
@[simp] theorem State.modMx_here (s : State) (f : Mx → Mx) : (s.modMx f).here = s.here := rfl
@[simp] theorem State.modMx_bun (s : State) (f : Mx → Mx) : (s.modMx f).bun = s.bun := rfl
@[simp] theorem State.modMx_free (s : State) (f : Mx → Mx) : (s.modMx f).free = s.free := rfl

@[simp] theorem State.modBuf_tiles (s : State) (f : Buf → Buf) : (s.modBuf f).tiles = SMap.put s.tiles s.here { s.t with buf := f s.t.buf } := rfl
@[simp] theorem State.modBuf_net (s : State) (f : Buf → Buf) : (s.modBuf f).net = s.net := rfl
@[simp] theorem State.modBuf_spares (s : State) (f : Buf → Buf) : (s.modBuf f).spares = s.spares := rfl
@[simp] theorem State.modBuf_nextPacket (s : State) (f : Buf → Buf) : (s.modBuf f).nextPacket = s.nextPacket := rfl
@[simp] theorem State.modBuf_far (s : State) (f : Buf → Buf) : (s.modBuf f).far = s.far := rfl
@[simp] theorem State.modBuf_ports (s : State) (f : Buf → Buf) : (s.modBuf f).ports = s.ports := rfl
@[simp] theorem State.modBuf_host (s : State) (f : Buf → Buf) : (s.modBuf f).host = s.host := rfl
@[simp] theorem State.modBuf_clock (s : State) (f : Buf → Buf) : (s.modBuf f).clock = s.clock := rfl
@[simp] theorem State.modBuf_ctrl (s : State) (f : Buf → Buf) : (s.modBuf f).ctrl = s.ctrl := rfl
@[simp] theorem State.modBuf_cycle (s : State) (f : Buf → Buf) : (s.modBuf f).cycle = s.cycle := rfl
@[simp] theorem State.modBuf_agenda (s : State) (f : Buf → Buf) : (s.modBuf f).agenda = s.agenda := rfl
@[simp] theorem State.modBuf_here (s : State) (f : Buf → Buf) : (s.modBuf f).here = s.here := rfl
@[simp] theorem State.modBuf_bun (s : State) (f : Buf → Buf) : (s.modBuf f).bun = s.bun := rfl
@[simp] theorem State.modBuf_free (s : State) (f : Buf → Buf) : (s.modBuf f).free = s.free := rfl

@[simp] theorem State.modWinch_tiles (s : State) (f : Winch → Winch) : (s.modWinch f).tiles = SMap.put s.tiles s.here { s.t with winch := f s.t.winch } := rfl
@[simp] theorem State.modWinch_net (s : State) (f : Winch → Winch) : (s.modWinch f).net = s.net := rfl
@[simp] theorem State.modWinch_spares (s : State) (f : Winch → Winch) : (s.modWinch f).spares = s.spares := rfl
@[simp] theorem State.modWinch_nextPacket (s : State) (f : Winch → Winch) : (s.modWinch f).nextPacket = s.nextPacket := rfl
@[simp] theorem State.modWinch_far (s : State) (f : Winch → Winch) : (s.modWinch f).far = s.far := rfl
@[simp] theorem State.modWinch_ports (s : State) (f : Winch → Winch) : (s.modWinch f).ports = s.ports := rfl
@[simp] theorem State.modWinch_host (s : State) (f : Winch → Winch) : (s.modWinch f).host = s.host := rfl
@[simp] theorem State.modWinch_clock (s : State) (f : Winch → Winch) : (s.modWinch f).clock = s.clock := rfl
@[simp] theorem State.modWinch_ctrl (s : State) (f : Winch → Winch) : (s.modWinch f).ctrl = s.ctrl := rfl
@[simp] theorem State.modWinch_cycle (s : State) (f : Winch → Winch) : (s.modWinch f).cycle = s.cycle := rfl
@[simp] theorem State.modWinch_agenda (s : State) (f : Winch → Winch) : (s.modWinch f).agenda = s.agenda := rfl
@[simp] theorem State.modWinch_here (s : State) (f : Winch → Winch) : (s.modWinch f).here = s.here := rfl
@[simp] theorem State.modWinch_bun (s : State) (f : Winch → Winch) : (s.modWinch f).bun = s.bun := rfl
@[simp] theorem State.modWinch_free (s : State) (f : Winch → Winch) : (s.modWinch f).free = s.free := rfl

@[simp] theorem State.modFab_tiles (s : State) (f : Fab → Fab) : (s.modFab f).tiles = SMap.put s.tiles s.here { s.t with fab := f s.t.fab } := rfl
@[simp] theorem State.modFab_net (s : State) (f : Fab → Fab) : (s.modFab f).net = s.net := rfl
@[simp] theorem State.modFab_spares (s : State) (f : Fab → Fab) : (s.modFab f).spares = s.spares := rfl
@[simp] theorem State.modFab_nextPacket (s : State) (f : Fab → Fab) : (s.modFab f).nextPacket = s.nextPacket := rfl
@[simp] theorem State.modFab_far (s : State) (f : Fab → Fab) : (s.modFab f).far = s.far := rfl
@[simp] theorem State.modFab_ports (s : State) (f : Fab → Fab) : (s.modFab f).ports = s.ports := rfl
@[simp] theorem State.modFab_host (s : State) (f : Fab → Fab) : (s.modFab f).host = s.host := rfl
@[simp] theorem State.modFab_clock (s : State) (f : Fab → Fab) : (s.modFab f).clock = s.clock := rfl
@[simp] theorem State.modFab_ctrl (s : State) (f : Fab → Fab) : (s.modFab f).ctrl = s.ctrl := rfl
@[simp] theorem State.modFab_cycle (s : State) (f : Fab → Fab) : (s.modFab f).cycle = s.cycle := rfl
@[simp] theorem State.modFab_agenda (s : State) (f : Fab → Fab) : (s.modFab f).agenda = s.agenda := rfl
@[simp] theorem State.modFab_here (s : State) (f : Fab → Fab) : (s.modFab f).here = s.here := rfl
@[simp] theorem State.modFab_bun (s : State) (f : Fab → Fab) : (s.modFab f).bun = s.bun := rfl
@[simp] theorem State.modFab_free (s : State) (f : Fab → Fab) : (s.modFab f).free = s.free := rfl

@[simp] theorem State.modRed_tiles (s : State) (f : Red → Red) : (s.modRed f).tiles = SMap.put s.tiles s.here { s.t with red := f s.t.red } := rfl
@[simp] theorem State.modRed_net (s : State) (f : Red → Red) : (s.modRed f).net = s.net := rfl
@[simp] theorem State.modRed_spares (s : State) (f : Red → Red) : (s.modRed f).spares = s.spares := rfl
@[simp] theorem State.modRed_nextPacket (s : State) (f : Red → Red) : (s.modRed f).nextPacket = s.nextPacket := rfl
@[simp] theorem State.modRed_far (s : State) (f : Red → Red) : (s.modRed f).far = s.far := rfl
@[simp] theorem State.modRed_ports (s : State) (f : Red → Red) : (s.modRed f).ports = s.ports := rfl
@[simp] theorem State.modRed_host (s : State) (f : Red → Red) : (s.modRed f).host = s.host := rfl
@[simp] theorem State.modRed_clock (s : State) (f : Red → Red) : (s.modRed f).clock = s.clock := rfl
@[simp] theorem State.modRed_ctrl (s : State) (f : Red → Red) : (s.modRed f).ctrl = s.ctrl := rfl
@[simp] theorem State.modRed_cycle (s : State) (f : Red → Red) : (s.modRed f).cycle = s.cycle := rfl
@[simp] theorem State.modRed_agenda (s : State) (f : Red → Red) : (s.modRed f).agenda = s.agenda := rfl
@[simp] theorem State.modRed_here (s : State) (f : Red → Red) : (s.modRed f).here = s.here := rfl
@[simp] theorem State.modRed_bun (s : State) (f : Red → Red) : (s.modRed f).bun = s.bun := rfl
@[simp] theorem State.modRed_free (s : State) (f : Red → Red) : (s.modRed f).free = s.free := rfl

@[simp] theorem State.modSync_tiles (s : State) (f : Sync → Sync) : (s.modSync f).tiles = SMap.put s.tiles s.here { s.t with sync := f s.t.sync } := rfl
@[simp] theorem State.modSync_net (s : State) (f : Sync → Sync) : (s.modSync f).net = s.net := rfl
@[simp] theorem State.modSync_spares (s : State) (f : Sync → Sync) : (s.modSync f).spares = s.spares := rfl
@[simp] theorem State.modSync_nextPacket (s : State) (f : Sync → Sync) : (s.modSync f).nextPacket = s.nextPacket := rfl
@[simp] theorem State.modSync_far (s : State) (f : Sync → Sync) : (s.modSync f).far = s.far := rfl
@[simp] theorem State.modSync_ports (s : State) (f : Sync → Sync) : (s.modSync f).ports = s.ports := rfl
@[simp] theorem State.modSync_host (s : State) (f : Sync → Sync) : (s.modSync f).host = s.host := rfl
@[simp] theorem State.modSync_clock (s : State) (f : Sync → Sync) : (s.modSync f).clock = s.clock := rfl
@[simp] theorem State.modSync_ctrl (s : State) (f : Sync → Sync) : (s.modSync f).ctrl = s.ctrl := rfl
@[simp] theorem State.modSync_cycle (s : State) (f : Sync → Sync) : (s.modSync f).cycle = s.cycle := rfl
@[simp] theorem State.modSync_agenda (s : State) (f : Sync → Sync) : (s.modSync f).agenda = s.agenda := rfl
@[simp] theorem State.modSync_here (s : State) (f : Sync → Sync) : (s.modSync f).here = s.here := rfl
@[simp] theorem State.modSync_bun (s : State) (f : Sync → Sync) : (s.modSync f).bun = s.bun := rfl
@[simp] theorem State.modSync_free (s : State) (f : Sync → Sync) : (s.modSync f).free = s.free := rfl

@[simp] theorem State.modTrap_tiles (s : State) (f : Trap → Trap) : (s.modTrap f).tiles = SMap.put s.tiles s.here { s.t with ctl := { s.t.ctl with trap := f s.t.ctl.trap } } := rfl
@[simp] theorem State.modTrap_net (s : State) (f : Trap → Trap) : (s.modTrap f).net = s.net := rfl
@[simp] theorem State.modTrap_spares (s : State) (f : Trap → Trap) : (s.modTrap f).spares = s.spares := rfl
@[simp] theorem State.modTrap_nextPacket (s : State) (f : Trap → Trap) : (s.modTrap f).nextPacket = s.nextPacket := rfl
@[simp] theorem State.modTrap_far (s : State) (f : Trap → Trap) : (s.modTrap f).far = s.far := rfl
@[simp] theorem State.modTrap_ports (s : State) (f : Trap → Trap) : (s.modTrap f).ports = s.ports := rfl
@[simp] theorem State.modTrap_host (s : State) (f : Trap → Trap) : (s.modTrap f).host = s.host := rfl
@[simp] theorem State.modTrap_clock (s : State) (f : Trap → Trap) : (s.modTrap f).clock = s.clock := rfl
@[simp] theorem State.modTrap_ctrl (s : State) (f : Trap → Trap) : (s.modTrap f).ctrl = s.ctrl := rfl
@[simp] theorem State.modTrap_cycle (s : State) (f : Trap → Trap) : (s.modTrap f).cycle = s.cycle := rfl
@[simp] theorem State.modTrap_agenda (s : State) (f : Trap → Trap) : (s.modTrap f).agenda = s.agenda := rfl
@[simp] theorem State.modTrap_here (s : State) (f : Trap → Trap) : (s.modTrap f).here = s.here := rfl
@[simp] theorem State.modTrap_bun (s : State) (f : Trap → Trap) : (s.modTrap f).bun = s.bun := rfl
@[simp] theorem State.modTrap_free (s : State) (f : Trap → Trap) : (s.modTrap f).free = s.free := rfl

/-- The present tile after it is replaced. -/
@[simp] theorem State.modT_t (s : State) (f : Tile → Tile) : (s.modT f).t = f s.t := by
  simp [State.t, State.tile, State.modT, State.setTile]

@[simp] theorem State.modCtl_t (s : State) (f : Ctl → Ctl) : (s.modCtl f).t = { s.t with ctl := f s.t.ctl } :=
  State.modT_t s _
@[simp] theorem State.modLane_t (s : State) (f : Lane → Lane) : (s.modLane f).t = { s.t with lane := f s.t.lane } :=
  State.modT_t s _
@[simp] theorem State.modMx_t (s : State) (f : Mx → Mx) : (s.modMx f).t = { s.t with mx := f s.t.mx } :=
  State.modT_t s _
@[simp] theorem State.modBuf_t (s : State) (f : Buf → Buf) : (s.modBuf f).t = { s.t with buf := f s.t.buf } :=
  State.modT_t s _
@[simp] theorem State.modWinch_t (s : State) (f : Winch → Winch) : (s.modWinch f).t = { s.t with winch := f s.t.winch } :=
  State.modT_t s _
@[simp] theorem State.modFab_t (s : State) (f : Fab → Fab) : (s.modFab f).t = { s.t with fab := f s.t.fab } :=
  State.modT_t s _
@[simp] theorem State.modRed_t (s : State) (f : Red → Red) : (s.modRed f).t = { s.t with red := f s.t.red } :=
  State.modT_t s _
@[simp] theorem State.modSync_t (s : State) (f : Sync → Sync) : (s.modSync f).t = { s.t with sync := f s.t.sync } :=
  State.modT_t s _
@[simp] theorem State.modTrap_t (s : State) (f : Trap → Trap) :
    (s.modTrap f).t = { s.t with ctl := { s.t.ctl with trap := f s.t.ctl.trap } } := State.modT_t s _

@[simp] theorem State.modFar_t (s : State) (f : Far → Far) : (s.modFar f).t = s.t := rfl
@[simp] theorem State.modHost_t (s : State) (f : HostSide → HostSide) : (s.modHost f).t = s.t := rfl
@[simp] theorem State.modCtrl_t (s : State) (f : Ctrl → Ctrl) : (s.modCtrl f).t = s.t := rfl
@[simp] theorem State.soon_t (s : State) (x : Turn) : (s.soon x).t = s.t := rfl
@[simp] theorem State.auto_t (s : State) (a : Auto) : (s.auto a).t = s.t := rfl

/-- Another tile after the present one is replaced. -/
theorem State.modT_tile_ne (s : State) (f : Tile → Tile) {t : Nat} (h : t ≠ s.here) : (s.modT f).tile t = s.tile t := by
  simp [State.tile, State.modT, State.setTile, SMap.get_put_ne _ _ _ h]

/-- Any tile after one is replaced. -/
theorem State.setTile_tile (s : State) (t u : Nat) (x : Tile) : (s.setTile t x).tile u = if u = t then x else s.tile u := by
  simp [State.tile, State.setTile, SMap.get_put]

@[simp] theorem State.setTile_self (s : State) (t : Nat) (x : Tile) : (s.setTile t x).tile t = x := by
  simp [State.setTile_tile]

end Sys2Proof.Machine
end

