-- ==== Sys2Proof/Laws/Mem.lean ====
section
/-!
SUPPORT. What the memory operations do: every one of them keeps the canonical form of the memory it writes, and a write changes
the bytes it names and no other.
-/

namespace Sys2Proof.Machine

open Sys2Proof

/-! ### Lists of indices and loops -/

theorem mem_upto (n i : Nat) : i ∈ upto n ↔ i < n := List.mem_range

theorem length_upto (n : Nat) : (upto n).length = n := List.length_range

theorem mem_run (a n x : Nat) : x ∈ run a n ↔ a ≤ x ∧ x < a + n := by
  simp only [run, List.mem_map, mem_upto]
  exact ⟨fun ⟨i, h, e⟩ => by omega, fun h => ⟨x - a, by omega, by omega⟩⟩

theorem mem_dedup (l : List Nat) (x : Nat) : x ∈ dedup l ↔ x ∈ l := by
  induction l with
  | nil => simp [dedup]
  | cons a l ih =>
    by_cases h : x = a
    · simp [dedup, h]
    · simp [dedup, ih, h]

/-- A property that every step of a fold keeps. -/
theorem foldl_keeps {α β : Type} (P : α → Prop) (f : α → β → α) (hf : ∀ a b, P a → P (f a b)) (l : List β) (a : α) (h : P a) :
    P (l.foldl f a) := by
  induction l generalizing a with
  | nil => exact h
  | cons b l ih => exact ih _ (hf _ _ h)

/-- A value that every step of a fold keeps. -/
theorem foldl_same {α β γ : Type} (g : α → γ) (f : α → β → α) (l : List β) (hf : ∀ a, ∀ b ∈ l, g (f a b) = g a) (a : α) :
    g (l.foldl f a) = g a := by
  induction l generalizing a with
  | nil => rfl
  | cons b l ih =>
    have h := ih (fun a b' hb' => hf a b' (by simp [hb'])) (f a b)
    simpa [h] using hf a b (by simp)

/-! ### The canonical form -/

theorem Memory.wf_set (m : Memory) (k : Nat) (v : Byte) (h : Memory.wf m = true) : Memory.wf (SMap.set 0 m k v) = true :=
  SMap.wf_set _ _ _ _ h

@[simp] theorem Memory.wf_nil : Memory.wf [] = true := rfl

/-- Writing a list of cells keeps the form. -/
theorem Memory.wf_cells (cs : List (Nat × Byte × Bool)) (m : Memory) (h : Memory.wf m = true) :
    Memory.wf (cs.foldl (fun (m : List (Nat × Byte)) (c : Nat × Byte × Bool) => SMap.set 0 m c.1 c.2.1) m) = true :=
  foldl_keeps (fun m => Memory.wf m = true) _ (fun m c h => Memory.wf_set m c.1 c.2.1 h) cs m h

theorem Memory.wf_loopN (f : Nat → Memory → Memory) (n : Nat) (m : Memory) (h : Memory.wf m = true)
    (hf : ∀ i m, Memory.wf m = true → Memory.wf (f i m) = true) : Memory.wf (loopN f n m) = true := by
  induction n with
  | zero => exact h
  | succ n ih => exact hf _ _ ih

theorem Memory.wf_filter (p : Nat × Byte → Bool) (m : Memory) (h : Memory.wf m = true) : Memory.wf (m.filter p) = true := by
  have key : ∀ lo (m : Memory), SMap.rising lo m = true → SMap.rising lo (m.filter p) = true := by
    intro lo m
    induction m generalizing lo with
    | nil => simp
    | cons e m ih =>
      obtain ⟨j, v⟩ := e
      intro h
      simp only [SMap.rising, Bool.and_eq_true, decide_eq_true_eq] at h
      by_cases hp : p (j, v)
      · simp [hp, SMap.rising, h.1, ih _ h.2]
      · simp only [List.filter_cons, hp, Bool.false_eq_true, if_false]
        exact SMap.rising_mono (by omega) _ (ih _ h.2)
  simp only [Memory.wf, SMap.wf, Bool.and_eq_true, List.all_eq_true] at h ⊢
  exact ⟨key 0 m h.1, fun e he => h.2 e (List.mem_filter.mp he).1⟩

/-! ### Buffers -/

@[simp] theorem Buf.setRow_mem (b : Buf) (r : Nat) (x : FrameRow) : (b.setRow r x).mem = b.mem := rfl

@[simp] theorem Buf.touchWord_mem (b : Buf) (w : Nat) : (b.touchWord w).mem = b.mem := by
  unfold Buf.touchWord; split <;> rfl

theorem Buf.poke32_wf (b : Buf) (a : Nat) (v : BitVec 32) (h : Memory.wf b.mem = true) : Memory.wf (b.poke32 a v).mem = true :=
  Memory.wf_loopN _ _ _ h fun _ _ h => Memory.wf_set _ _ _ h

theorem Buf.touchRow_wf (b : Buf) (r : Nat) (h : Memory.wf b.mem = true) : Memory.wf (b.touchRow r).1.mem = true := by
  unfold Buf.touchRow
  split
  · dsimp only; split <;> simpa using h
  · exact b.poke32_wf _ _ h
  · simpa using h

/-- The checks of a read keep the form. -/
theorem Buf.touch_wf (b : Buf) (as : List Nat) (h : Memory.wf b.mem = true) : Memory.wf (b.touch as).1.mem = true := by
  unfold Buf.touch
  apply foldl_keeps (fun x : Buf × List Nat => Memory.wf x.1.mem = true)
  · rintro ⟨b, ev⟩ u hx
    by_cases hu : u < 2 ^ 40
    · simpa only [hu, if_true, Buf.touchWord_mem] using hx
    · simpa only [hu, if_false] using b.touchRow_wf _ hx
  · exact h

theorem Buf.writeWord_wf (b : Buf) (w : Nat) (cs : List (Nat × Byte × Bool)) (h : Memory.wf b.mem = true) :
    Memory.wf (b.writeWord w cs).mem = true := by
  unfold Buf.writeWord
  apply Memory.wf_cells
  split <;> simpa using h

theorem Buf.writeFrame_wf (b : Buf) (a : Nat) (cs : List (Nat × Byte × Bool)) (h : Memory.wf b.mem = true) :
    Memory.wf (b.writeFrame a cs).mem = true := Memory.wf_cells cs _ h

/-- A write keeps the form. -/
theorem Buf.write_wf (b : Buf) (cs : List (Nat × Byte × Bool)) (h : Memory.wf b.mem = true) :
    Memory.wf (b.write cs).mem = true := by
  refine foldl_keeps (fun x : Buf => Memory.wf x.mem = true) _ (fun b a => b.writeFrame_wf a _) _ _ ?_
  exact foldl_keeps (fun x : Buf => Memory.wf x.mem = true) _ (fun b w => b.writeWord_wf w _) _ _ h

@[simp] theorem Buf.noteFill_mem (b : Buf) (as : List Nat) : (b.noteFill as).mem = b.mem := rfl

/-- Poisoning changes no byte. -/
@[simp] theorem Buf.poisonAll_mem (b : Buf) (as : List Nat) : (b.poisonAll as).mem = b.mem :=
  foldl_same Buf.mem _ _ (fun b u _ => by dsimp only; split <;> rfl) b

/-! #### Loading a bank, and launch -/

theorem SMap.rising_append (lo mid : Nat) (m n : Memory) (hm : SMap.rising lo m = true) (hn : SMap.rising mid n = true)
    (hlt : ∀ e ∈ m, e.1 < mid) (hlo : lo ≤ mid) : SMap.rising lo (m ++ n) = true := by
  induction m generalizing lo with
  | nil => exact SMap.rising_mono hlo _ hn
  | cons e m ih =>
    obtain ⟨j, v⟩ := e
    simp only [SMap.rising, Bool.and_eq_true, decide_eq_true_eq] at hm
    have := hlt (j, v) (by simp)
    simp only [List.cons_append, SMap.rising, Bool.and_eq_true, decide_eq_true_eq]
    exact ⟨hm.1, ih _ hm.2 (fun e he => hlt e (by simp [he])) (by simp only at this; omega)⟩

theorem cellList_rising (a : Nat) (d : Bytes) : SMap.rising a (cellList a d) = true := by
  suffices h : ∀ (d : Bytes) (n : Nat), SMap.rising (a + n)
      ((d.zip ((upto d.length).map (· + n))).filterMap fun (x, i) => if x == 0 then none else some (a + i, x)) = true by
    have := h d 0
    simpa [cellList] using this
  intro d
  induction d with
  | nil => intro n; rfl
  | cons x d ih =>
    intro n
    have hu : ∀ k, upto (k + 1) = 0 :: (upto k).map (· + 1) := fun k => List.range_succ_eq_map
    have e : ((upto (x :: d).length).map (· + n)) = n :: (upto d.length).map (· + (n + 1)) := by
      rw [List.length_cons, hu]
      simp only [List.map_map, List.map_cons, Nat.zero_add, List.cons.injEq, true_and]
      exact List.map_congr_left fun i _ => by simp only [Function.comp_apply]; omega
    rw [e]
    by_cases hx : x == 0
    · simp only [List.zip_cons_cons, List.filterMap_cons, hx, if_true]
      exact SMap.rising_mono (by omega) _ (ih (n + 1))
    · simp only [List.zip_cons_cons, List.filterMap_cons, hx, if_false, SMap.rising, Bool.and_eq_true, decide_eq_true_eq,
        Bool.false_eq_true]
      exact ⟨Nat.le_refl _, by simpa [Nat.add_assoc] using ih (n + 1)⟩

theorem cellList_mem (a : Nat) (d : Bytes) (e : Nat × Byte) (h : e ∈ cellList a d) : e.2 ≠ 0 ∧ e.1 < a + d.length := by
  simp only [cellList, List.mem_filterMap] at h
  obtain ⟨⟨x, i⟩, hm, he⟩ := h
  have hi := (mem_upto _ _).1 (List.of_mem_zip hm).2
  by_cases hx : (x == 0) = true
  · rw [if_pos hx] at he; exact absurd he (by simp)
  · rw [if_neg hx, Option.some.injEq] at he
    subst he
    exact ⟨by simpa using hx, by simp only; omega⟩

/-- Three runs of cells that follow each other are one memory. -/
theorem Memory.wf_join (m : Memory) (a n : Nat) (d : Bytes) (hd : d.length ≤ n) (h : Memory.wf m = true) :
    Memory.wf (m.filter (fun e => decide (e.1 < a)) ++ cellList a d ++ m.filter (fun e => decide (a + n ≤ e.1))) = true := by
  have hl := Memory.wf_filter (fun e => decide (e.1 < a)) m h
  have hr := Memory.wf_filter (fun e => decide (a + n ≤ e.1)) m h
  simp only [Memory.wf, SMap.wf, Bool.and_eq_true, List.all_eq_true, decide_eq_true_eq] at hl hr ⊢
  have raise : ∀ lo b (m : Memory), SMap.rising lo m = true → (∀ e ∈ m, b ≤ e.1) → SMap.rising b m = true := by
    intro lo b m hm hb
    cases m with
    | nil => rfl
    | cons e m =>
      simp only [SMap.rising, Bool.and_eq_true, decide_eq_true_eq] at hm ⊢
      exact ⟨hb e (by simp), hm.2⟩
  have h2 := raise 0 (a + n) _ hr.1 fun e he => by simpa using (List.mem_filter.mp he).2
  have h1 := SMap.rising_append a (a + n) _ _ (cellList_rising a d) h2
    (fun e he => by have := (cellList_mem a d e he).2; omega) (by omega)
  constructor
  · rw [List.append_assoc]
    exact SMap.rising_append 0 a _ _ hl.1 h1 (fun e he => by simpa using (List.mem_filter.mp he).2) (by omega)
  · intro e he
    simp only [List.mem_append] at he
    rcases he with (he | he) | he
    · exact hl.2 e he
    · exact (cellList_mem a d e he).1
    · exact hr.2 e he

theorem Buf.loadBank_wf (u : Buf) (k : Nat) (r : Region) (idx : Nat) (img : Bytes) (p : Option (Nat × Nat))
    (h : Memory.wf u.mem = true) : Memory.wf (u.loadBank k r idx img p).mem = true := by
  unfold Buf.loadBank
  split
  · exact h
  · dsimp only
    have hj := fun (off len : Nat) => Memory.wf_join u.mem (0x400000 + 0x8000 * k) 0x8000 ((slice off len img).take 0x8000)
      (by simp only [List.length_take]; omega) h
    split <;> split <;> first | exact h | exact hj _ _

/-- The buffers of a tile at launch are in the form. -/
theorem Buf.launch_wf (u : Buf) (r : Region) (idx : Nat) (img : Bytes) (t : TileSection) (h : Memory.wf u.mem = true) :
    Memory.wf (u.launch r idx img t).mem = true := by
  unfold Buf.launch
  apply foldl_keeps (fun x : Buf => Memory.wf x.mem = true)
  · intro b d hb
    split
    · exact hb
    · exact b.write_wf _ hb
  · exact Buf.loadBank_wf _ _ _ _ _ _ (Buf.loadBank_wf _ _ _ _ _ _ (Memory.wf_filter _ _ h))

/-! ### Far memory and host memory -/

@[simp] theorem State.pendEvent_far (s : State) (e : EvRec) : (s.pendEvent e).far = s.far := rfl

@[simp] theorem State.ringZero_far (s : State) (r : BitVec 16) (c k : Byte) (i : BitVec 16) (a b : Word) :
    (s.ringZero r c k i a b).far = s.far :=
  foldl_same State.far _ _ (fun s _ _ => State.pendEvent_far s _) s

@[simp] theorem State.farEvent_far (s : State) (c : Byte) (u : Nat) (a b : Word) : (s.farEvent c u a b).far = s.far := by
  unfold State.farEvent State.moduleEvent
  rw [State.ringZero_far]

@[simp] theorem State.farBad_far (s : State) (u : Nat) : (s.farBad u).far = s.far := State.farEvent_far _ _ _ _ _

@[simp] theorem State.farCorrect_mem (s : State) (u : Nat) : (s.farCorrect u).far.mem = s.far.mem := by
  unfold State.farCorrect; dsimp only; split <;> simp

@[simp] theorem State.farTouch_mem (s : State) (u : Nat) : (s.farTouch u).2.far.mem = s.far.mem := by
  unfold State.farTouch; split
  · rfl
  · split <;> simp

/-- A read changes no byte of far memory. -/
theorem State.farRead_mem (s : State) (pa n : Nat) : (s.farRead pa n).2.far.mem = s.far.mem := by
  unfold State.farRead
  exact foldl_same (fun x : List Nat × State => x.2.far.mem) _ _ (fun acc u _ => by
    simp) ([], s)

theorem State.farWriteUnit_wf (s : State) (u : Nat) (cs : List (Nat × Byte × Bool)) (h : Memory.wf s.far.mem = true) :
    Memory.wf (s.farWriteUnit u cs).far.mem = true := by
  unfold State.farWriteUnit
  dsimp only
  split <;> exact Memory.wf_cells _ _ (by simpa using h)

/-- A write of far memory keeps the form. -/
theorem State.farWrite_wf (s : State) (pa : Nat) (d : List (Byte × Bool)) (h : Memory.wf s.far.mem = true) :
    Memory.wf (s.farWrite pa d).far.mem = true :=
  foldl_keeps (fun x : State => Memory.wf x.far.mem = true) _ (fun s u => s.farWriteUnit_wf u _) _ _ h

theorem State.farPart_wf (s : State) (pa : Nat) (d : List (Byte × Bool)) (h : Memory.wf s.far.mem = true) :
    Memory.wf (s.farPart pa d).far.mem = true := Memory.wf_cells _ _ h

theorem State.farCover_wf (s : State) (pa : Nat) (d : List (Byte × Bool)) (f : Bool) (h : Memory.wf s.far.mem = true) :
    Memory.wf (s.farCover pa d f).far.mem = true := Memory.wf_cells _ _ h

theorem State.farAtomic_wf (s : State) (pa : Nat) (op : AOp) (sz : Bool) (b c : Word) (h : Memory.wf s.far.mem = true) :
    Memory.wf (s.farAtomic pa op sz b c).2.far.mem = true :=
  State.farWrite_wf (s.farRead pa (sizeBits sz / 8)).2 _ _ (by rw [State.farRead_mem]; exact h)

/-- A write of host memory keeps the form. -/
theorem State.putHost_wf (s : State) (a : Nat) (d : List (Byte × Bool)) (h : Memory.wf s.host.mem = true) :
    Memory.wf (s.putHost a d).host.mem = true :=
  Memory.wf_loopN _ _ _ h fun _ _ h => Memory.wf_set _ _ _ h

/-! ### Bytes after a write -/

/-- Reading after a list of cells is written: a byte that no cell names is unchanged. -/
theorem get_cells_ne (cs : List (Nat × Byte × Bool)) (m : Memory) (a : Nat) (h : ∀ c ∈ cs, c.1 ≠ a) :
    SMap.get 0 (cs.foldl (fun (m : List (Nat × Byte)) (c : Nat × Byte × Bool) => SMap.set 0 m c.1 c.2.1) m) a = SMap.get 0 m a :=
  foldl_same (fun m : Memory => SMap.get 0 m a) _ _ (fun m c hc => by
    simp only [SMap.get_set]; rw [if_neg fun e => h c hc e.symm]) m

theorem Buf.writeWord_ne (b : Buf) (w : Nat) (cs : List (Nat × Byte × Bool)) (a : Nat) (h : ∀ c ∈ cs, c.1 ≠ a) :
    (b.writeWord w cs).byte a = b.byte a := by
  unfold Buf.writeWord Buf.byte
  rw [get_cells_ne _ _ _ h]
  split <;> simp

theorem Buf.writeFrame_ne (b : Buf) (r : Nat) (cs : List (Nat × Byte × Bool)) (a : Nat) (h : ∀ c ∈ cs, c.1 ≠ a) :
    (b.writeFrame r cs).byte a = b.byte a := get_cells_ne cs b.mem a h

/-- A write leaves every byte that it does not name. -/
theorem Buf.write_ne (b : Buf) (cs : List (Nat × Byte × Bool)) (a : Nat) (h : ∀ c ∈ cs, c.1 ≠ a) :
    (b.write cs).byte a = b.byte a := by
  unfold Buf.write
  rw [foldl_same (fun x : Buf => x.byte a) _ _ fun b r _ => b.writeFrame_ne r _ a fun c hc => h c (List.mem_filter.mp hc).1]
  exact foldl_same (fun x : Buf => x.byte a) _ _
    (fun b w _ => b.writeWord_ne w _ a fun c hc => h c (List.mem_filter.mp hc).1) b

theorem mem_cellsOf (a : Nat) (d : List (Byte × Bool)) (c : Nat × Byte × Bool) (h : c ∈ cellsOf a d) :
    a ≤ c.1 ∧ c.1 < a + d.length := by
  simp only [cellsOf, List.mem_map] at h
  obtain ⟨⟨x, i⟩, hm, rfl⟩ := h
  have := (mem_upto _ _).1 (List.of_mem_zip hm).2
  exact ⟨by simp only; omega, by simp only; omega⟩

/-- A write of a run of bytes leaves every byte outside the run. -/
theorem Buf.write_run_ne (b : Buf) (a : Nat) (d : List (Byte × Bool)) (x : Nat) (h : x < a ∨ a + d.length ≤ x) :
    (b.write (cellsOf a d)).byte x = b.byte x :=
  b.write_ne _ _ fun c hc e => by have := mem_cellsOf a d c hc; omega

end Sys2Proof.Machine
end

