-- ==== Sys2Proof/Laws/Ops.lean ====
section
/-!
SUPPORT. What each shared operation does: register writes and interlocked reads, stalls and faults, semaphores, events, packets, mailbox
slots, regions and lane writes. Later proofs cite these and do not unfold the operations.
-/

namespace Sys2Proof.Machine

open Sys2Proof

/-! ### Maps -/

theorem SMap.find_erase {α : Type} (m : List (Nat × α)) (k j : Nat) :
    SMap.find? (SMap.erase m k) j = if j = k then none else SMap.find? m j := by
  induction m with
  | nil => simp [SMap.erase, SMap.find?]
  | cons e r ih =>
    obtain ⟨a, v⟩ := e
    simp only [SMap.erase]
    split
    · rename_i h
      rw [ih]
      simp only [SMap.find?]
      split
      · rfl
      · rw [if_neg (by omega)]
    · simp only [SMap.find?, ih]
      split <;> split <;> first | rfl | omega

theorem SMap.find_insert {α : Type} (m : List (Nat × α)) (k j : Nat) (v : α) (h : ∀ e ∈ m, e.1 ≠ k) :
    SMap.find? (SMap.insert k v m) j = if j = k then some v else SMap.find? m j := by
  induction m with
  | nil => by_cases e : k = j <;> simp [SMap.insert, SMap.find?, e, eq_comm]
  | cons e r ih =>
    obtain ⟨a, w⟩ := e
    have ha : a ≠ k := h (a, w) (by simp)
    have hr := ih fun e he => h e (by simp [he])
    by_cases hj : j = k
    · subst hj
      by_cases hl : j < a <;> simp [SMap.insert, SMap.find?, hl, hr, ha]
    · have hk : ¬ k = j := fun x => hj x.symm
      by_cases hl : k < a <;> simp [SMap.insert, SMap.find?, hl, hr, hj, hk]

/-- A key looked up after one is replaced. -/
theorem SMap.find_put {α : Type} (m : List (Nat × α)) (k j : Nat) (v : α) :
    SMap.find? (SMap.put m k v) j = if j = k then some v else SMap.find? m j := by
  rw [SMap.put, SMap.find_insert _ _ _ _ (SMap.erase_ne m k), SMap.find_erase]
  split <;> rfl

@[simp] theorem SMap.find_put_self {α : Type} (m : List (Nat × α)) (k : Nat) (v : α) : SMap.find? (SMap.put m k v) k = some v := by
  simp [SMap.find_put]

/-! ### Scalar registers -/

/-- The register file after a write. -/
theorem State.setX_x (s : State) (r : XReg) (v : Word) (k : Nat) :
    SMap.get 0 (s.setX r v).t.ctl.x k = if r ≠ 0 ∧ k = r.toNat then v else SMap.get 0 s.t.ctl.x k := by
  unfold State.setX
  by_cases h : r = 0
  · simp [h]
  · have e : (r == 0) = false := by simpa using h
    simp only [e, Bool.false_eq_true, if_false, State.modFab_t, State.modCtl_t, SMap.get_set, ne_eq, h, not_false_eq_true, true_and]

@[simp] theorem State.setX_zero (s : State) (v : Word) : s.setX 0 v = s := by simp [State.setX]

/-- What a register write leaves alone. -/
theorem State.setX_keeps (s : State) (r : XReg) (v : Word) :
    (s.setX r v).net = s.net ∧ (s.setX r v).far = s.far ∧ (s.setX r v).host = s.host ∧ (s.setX r v).ctrl = s.ctrl ∧
    (s.setX r v).clock = s.clock ∧ (s.setX r v).ports = s.ports ∧ (s.setX r v).agenda = s.agenda ∧ (s.setX r v).bun = s.bun ∧
    (s.setX r v).here = s.here ∧ (s.setX r v).cycle = s.cycle ∧ (s.setX r v).free = s.free ∧ (s.setX r v).t.lane = s.t.lane ∧
    (s.setX r v).t.mx = s.t.mx ∧ (s.setX r v).t.buf = s.t.buf ∧ (s.setX r v).t.winch = s.t.winch ∧ (s.setX r v).t.red = s.t.red ∧
    (s.setX r v).t.sync = s.t.sync ∧ (s.setX r v).t.ctl.cpc = s.t.ctl.cpc ∧ (s.setX r v).t.ctl.trap = s.t.ctl.trap ∧
    (s.setX r v).t.ctl.hq = s.t.ctl.hq ∧ (s.setX r v).t.ctl.ret = s.t.ctl.ret := by
  unfold State.setX
  split <;> simp

/-- A register write touches no other tile. -/
theorem State.setX_tile_ne (s : State) (r : XReg) (v : Word) {k : Nat} (h : k ≠ s.here) : (s.setX r v).tile k = s.tile k := by
  unfold State.setX
  split
  · rfl
  · rw [State.modFab, State.modT_tile_ne _ _ (by simpa using h), State.modCtl, State.modT_tile_ne _ _ h]

/-! ### Reads that interlock -/

theorem State.reading_none {s : State} {i : Instr} {rs : List XReg} {k : State → State} (h : s.hazard rs = .none) :
    s.reading i rs k = k s := by simp [State.reading, h]

theorem State.reading_wait {s : State} {i : Instr} {rs : List XReg} {k : State → State} (h : s.hazard rs = .wait) :
    s.reading i rs k = s.stall .reg i := by simp [State.reading, h]

/-- A read of no register meets no hazard. -/
@[simp] theorem State.hazard_nil (s : State) : s.hazard [] = .none := rfl

/-- x0 meets no hazard. -/
@[simp] theorem State.hazard1_zero (s : State) : s.hazard1 0 = .none := by simp [State.hazard1, State.ramoOn, State.xFoul]

/-- Two registers whose first has no hazard. -/
theorem State.hazard_cons_none (s : State) (r : XReg) (rs : List XReg) (h : s.hazard1 r = .none) : s.hazard (r :: rs) = s.hazard rs := by
  simp [State.hazard, h]

/-- The result of a two-operand instruction whose sources can be read. -/
theorem op2_next {i : Instr} {xd xa xb : XReg} {f : Word → Word → Word} {s : State} (h : s.hazard [xa, xb] = .none) :
    op2 i xd xa xb f s = .next (s.setX xd (f (s.x xa) (s.x xb))) := by simp only [op2, State.reading, h]

/-- The result of a one-operand instruction whose source can be read. -/
theorem op1_next {i : Instr} {xd xa : XReg} {f : Word → Word} {s : State} (h : s.hazard [xa] = .none) :
    op1 i xd xa f s = .next (s.setX xd (f (s.x xa))) := by simp only [op1, State.reading, h]

/-! ### Stalls and faults -/

@[simp] theorem State.stall_tiles (s : State) (w : Wait) (i : Instr) : (s.stall w i).tiles = s.tiles := rfl
@[simp] theorem State.stall_waits (s : State) (w : Wait) (i : Instr) : (s.stall w i).bun.waits = s.bun.waits ++ [(w, i)] := rfl
@[simp] theorem State.stall_t (s : State) (w : Wait) (i : Instr) : (s.stall w i).t = s.t := rfl

/-- A fault inside a bundle is noted, and nothing else happens. -/
theorem State.raise_active (s : State) (c : Byte) (h : s.bun.active = true) :
    (s.raise c).tiles = s.tiles ∧ (s.raise c).net = s.net ∧ (s.raise c).far = s.far ∧ (s.raise c).host = s.host ∧
    (s.raise c).ctrl = s.ctrl ∧ (s.raise c).bun.raised.isSome = true := by
  unfold State.raise State.raiseFull
  simp only [h, if_true]
  split <;> simp_all

/-- A fault of an instruction that issues alone is taken. -/
theorem State.raise_alone (s : State) (c : Byte) (h : s.bun.active = false) :
    s.raise c = s.trapEntry { code := c, arg := 0, slot := s.bun.slot, async := false, lane := s.bun.lane, val := 0 } := by
  simp [State.raise, State.raiseFull, h]

/-- A lane slot whose operation and closing checks succeed. -/
theorem State.slot_ok {s u v : State} {r : Except Byte State} (hr : r = .ok u) (he : u.slotEnd = .ok v) : s.slot r = v := by
  subst hr
  simp [State.slot, Except.bind, he]

/-- A lane slot that faults leaves the state before it and raises. -/
theorem State.slot_error {s : State} {r : Except Byte State} {c : Byte} (h : r = .error c) : s.slot r = s.raise c := by
  subst h
  simp [State.slot, Except.bind]

/-- The closing checks change only the bundle at issue. -/
theorem State.slotEnd_ok {u v : State} (h : u.slotEnd = .ok v) :
    v.tiles = u.tiles ∧ v.net = u.net ∧ v.far = u.far ∧ v.host = u.host ∧ v.ctrl = u.ctrl ∧ v.here = u.here ∧ v.cycle = u.cycle ∧
    v.agenda = u.agenda ∧ v.free = u.free ∧ v.clock = u.clock ∧ v.ports = u.ports := by
  unfold State.slotEnd at h
  split at h
  · cases h
  · split at h
    · cases h
    · injection h with h
      subst h
      split <;> simp

/-! ### Semaphores -/

/-- A semaphore after one is replaced. -/
theorem State.setSem_sem (s : State) (n m : Byte) (v : BitVec 16) : (s.setSem n v).sem m = if m = n then v else s.sem m := by
  simp only [State.sem, State.setSem, State.modSync_t, SMap.get_set, BitVec.toNat_inj]

/-- Another barrier after one is replaced. -/
theorem State.setBar_bar (s : State) (n m : BitVec 7) (b : Barrier) : (s.setBar n b).bar m = if m = n then b else s.bar m := by
  simp only [State.bar, State.setBar, State.modRed_t, SMap.get_set, BitVec.toNat_inj]

/-! ### Events -/

/-- An event that finds room waits at the end. -/
theorem State.pendEvent_pend (s : State) (e : EvRec) (h : (s.host.pend.filter fun x => x.fn == e.fn).length < 4096) :
    (s.pendEvent e).host.pend = s.host.pend ++ [e] := by simp [State.pendEvent, h]

/-- Events change only what waits for the host. -/
theorem State.pendEvent_keeps (s : State) (e : EvRec) :
    (s.pendEvent e).tiles = s.tiles ∧ (s.pendEvent e).net = s.net ∧ (s.pendEvent e).far = s.far ∧ (s.pendEvent e).ctrl = s.ctrl ∧
    (s.pendEvent e).clock = s.clock ∧ (s.pendEvent e).here = s.here ∧ (s.pendEvent e).agenda = s.agenda ∧
    (s.pendEvent e).host.mem = s.host.mem ∧ (s.pendEvent e).host.mbox = s.host.mbox ∧ (s.pendEvent e).host.rings = s.host.rings ∧
    (s.pendEvent e).host.deferred = s.host.deferred ∧ (s.pendEvent e).host.vectors = s.host.vectors := by
  unfold State.pendEvent State.modHost
  refine ⟨rfl, rfl, rfl, rfl, rfl, rfl, rfl, ?_, ?_, ?_, ?_, ?_⟩ <;> dsimp only <;> split <;> rfl

/-- What waits for the host only grows. -/
theorem State.mem_pendEvent (s : State) (e x : EvRec) (h : x ∈ s.host.pend) : x ∈ (s.pendEvent e).host.pend := by
  unfold State.pendEvent State.modHost
  dsimp only
  split
  · simp [h]
  · exact h

/-- A module event with room waits for every function. -/
theorem State.moduleEvent_pend (s : State) (code src : Byte) (ix : BitVec 16) (a b : Word) (h : s.host.pend.length < 4000) (f : BitVec 2) :
    ∃ e ∈ (s.moduleEvent code src ix a b).host.pend, e.code = code ∧ e.fn = f ∧ e.ring = 0 ∧ e.arg0 = a ∧ e.arg1 = b := by
  have key : ∀ (fs : List (BitVec 2)) (u : State), u.host.pend.length + fs.length < 4096 → f ∈ fs →
      ∃ e ∈ (fs.foldl (fun s f => s.pendEvent
        { code := code, fn := f, ring := 0, region := 0xFFFF, src := src, srcix := ix, arg0 := a, arg1 := b, time := s.clock.mtime })
          u).host.pend, e.code = code ∧ e.fn = f ∧ e.ring = 0 ∧ e.arg0 = a ∧ e.arg1 = b := by
    have stay : ∀ (fs : List (BitVec 2)) (u : State) (x : EvRec), x ∈ u.host.pend → x ∈ (fs.foldl (fun s f => s.pendEvent
        { code := code, fn := f, ring := 0, region := 0xFFFF, src := src, srcix := ix, arg0 := a, arg1 := b, time := s.clock.mtime })
          u).host.pend := by
      intro fs
      induction fs with
      | nil => intro u x hx; exact hx
      | cons g gs ih => intro u x hx; exact ih _ _ (State.mem_pendEvent _ _ _ hx)
    intro fs
    induction fs with
    | nil => intro u _ hf; cases hf
    | cons g gs ih =>
      intro u hu hf
      simp only [List.length_cons] at hu
      have hp := State.pendEvent_pend u
        { code := code, fn := g, ring := 0, region := 0xFFFF, src := src, srcix := ix, arg0 := a, arg1 := b, time := u.clock.mtime }
        (lt_of_le_of_lt (List.length_filter_le _ _) (by omega))
      rcases List.mem_cons.mp hf with rfl | hg
      · exact ⟨{ code := code, fn := f, ring := 0, region := 0xFFFF, src := src, srcix := ix, arg0 := a, arg1 := b, time := u.clock.mtime },
          stay gs _ _ (hp ▸ List.mem_append.mpr (.inr (List.mem_singleton.mpr rfl))), rfl, rfl, rfl, rfl, rfl⟩
      · refine ih _ ?_ hg
        rw [hp]
        simp only [List.length_append, List.length_singleton]
        omega
  refine key [0, 1, 2, 3] s (by simp only [List.length_cons, List.length_nil]; omega) ?_
  have all : ∀ f : BitVec 2, f ∈ ([0, 1, 2, 3] : List (BitVec 2)) := by decide
  exact all f

/-! ### Packets -/

@[simp] theorem State.send_net (s : State) (d : Nat) (b : Body) : (s.send d b).net = s.net ++
    [{ id := s.nextPacket, at_ := s.here, dest := d, gen := s.genOf d, due := s.cycle + 2, src := s.here, fails := 0, via := none
       body := b }] := rfl
@[simp] theorem State.send_tiles (s : State) (d : Nat) (b : Body) : (s.send d b).tiles = s.tiles := rfl
@[simp] theorem State.send_t (s : State) (d : Nat) (b : Body) : (s.send d b).t = s.t := rfl
@[simp] theorem State.send_far (s : State) (d : Nat) (b : Body) : (s.send d b).far = s.far := rfl
@[simp] theorem State.send_host (s : State) (d : Nat) (b : Body) : (s.send d b).host = s.host := rfl
@[simp] theorem State.send_ctrl (s : State) (d : Nat) (b : Body) : (s.send d b).ctrl = s.ctrl := rfl

/-! ### Regions -/

/-- A region of an id after the regions of one are updated by a function that keeps the id. -/
theorem State.modRegion_of (s : State) (i j : BitVec 16) (f : Region → Region) (hf : ∀ r, (f r).id = r.id) :
    (s.modRegion i f).regionOf j = (s.regionOf j).map fun r => if r.id == i then f r else r := by
  unfold State.regionOf State.modRegion State.modCtrl
  dsimp only
  induction s.ctrl.regions with
  | nil => rfl
  | cons r rs ih =>
    have hid : (if (r.id == i) = true then f r else r).id = r.id := by split <;> simp [hf]
    simp only [List.map_cons, List.find?_cons, hid]
    cases r.id == j
    · exact ih
    · rfl

/-- The region found for an id has it. -/
theorem State.regionOf_id {s : State} {i : BitVec 16} {r : Region} (h : s.regionOf i = some r) : r.id = i := by
  simpa using List.find?_some h

/-! ### Mailbox slots -/

theorem upto_loopN_get (d : Bytes) (k j : Nat) (g : Nat → Nat) (hg : ∀ a b, g a = g b → a = b) (n : Nat) (m : List (Nat × Byte)) :
    SMap.get 0 (loopN (fun i m => SMap.set 0 m (g (k + i)) (d.getD i 0)) n m) (g j) =
      if k ≤ j ∧ j < k + n then d.getD (j - k) 0 else SMap.get 0 m (g j) := by
  induction n with
  | zero => simp only [loopN]; rw [if_neg (by omega)]
  | succ n ih =>
    simp only [loopN, SMap.get_set, ih]
    by_cases e : j = k + n
    · subst e
      rw [if_pos rfl, if_pos (by omega)]
      congr 1
      omega
    · rw [if_neg fun h => e (hg _ _ h)]
      by_cases c : k ≤ j ∧ j < k + n
      · rw [if_pos c, if_pos (by omega)]
      · rw [if_neg c, if_neg (by omega)]

/-- Bytes of a slot after some of it are written. -/
theorem State.putSlot_byte (s : State) (fn : BitVec 2) (slot : BitVec 4) (i j : Nat) (d : Bytes) :
    (s.putSlot fn slot i d).slotByte fn slot j = if i ≤ j ∧ j < i + d.length then d.getD (j - i) 0 else s.slotByte fn slot j :=
  upto_loopN_get d i j (slotKey fn slot) (fun a b h => by unfold slotKey at h; omega) d.length s.host.mbox

/-- Raising a vector leaves every slot, and the vector is sent, or pending where it is masked. -/
theorem State.raiseVector_spec (s : State) (fn : BitVec 2) (v : BitVec 11) :
    (∀ slot j, (s.raiseVector fn v).slotByte fn slot j = s.slotByte fn slot j) ∧
    (if s.masked fn v then (s.raiseVector fn v).pendingVector fn v = true ∧ (s.raiseVector fn v).host.vectors = s.host.vectors
     else (s.raiseVector fn v).host.vectors = s.host.vectors ++ [(fn, v)] ∧ (s.raiseVector fn v).host.pba = s.host.pba) := by
  unfold State.raiseVector
  split
  · exact ⟨fun _ _ => rfl, by simp [State.pendingVector, State.setPba, SMap.get_set], rfl⟩
  · exact ⟨fun _ _ => rfl, rfl, rfl⟩

/-- What an answer of the controller leaves in the slot, and that it raises vector 0. -/
theorem State.answer_slot (s : State) (fn : BitVec 2) (slot : BitVec 4) (st c : Byte) :
    (s.answer fn slot st c).slotByte fn slot 1 = st ∧ (s.answer fn slot st c).slotByte fn slot 4 = c ∧
    (if s.masked fn 0 then (s.answer fn slot st c).pendingVector fn 0 = true else (fn, 0) ∈ (s.answer fn slot st c).host.vectors) ∧
    ∀ j, j ≠ 1 → j ≠ 4 → (s.answer fn slot st c).slotByte fn slot j = s.slotByte fn slot j := by
  have hr : ∀ (u : State) v j, (u.raiseVector fn v).slotByte fn slot j = u.slotByte fn slot j := fun u v j =>
    (u.raiseVector_spec fn v).1 slot j
  have hv := (((s.putSlot fn slot 1 [st]).putSlot fn slot 4 [c]).raiseVector_spec fn 0).2
  have hm : ((s.putSlot fn slot 1 [st]).putSlot fn slot 4 [c]).masked fn 0 = s.masked fn 0 := rfl
  rw [hm] at hv
  unfold State.answer
  simp only [hr, State.putSlot_byte, List.length_singleton]
  refine ⟨by simp, by simp, ?_, fun j h1 h4 => ?_⟩
  · split at hv
    · rw [if_pos ‹_›]; exact hv.1
    · rw [if_neg ‹_›, hv.1]; exact List.mem_append_right _ (List.mem_singleton.2 rfl)
  rw [if_neg (by omega), if_neg (by omega)]

/-- A command that its slot is ready for acts. -/
theorem State.mailbox_act {s : State} {fn : BitVec 2} {slot : BitVec 4} {opc : Byte} {k : State → State}
    (ho : s.slotByte fn slot 0 = opc) (hr : s.ctrl.recovery = false) (hs : s.slotByte fn slot 1 ≠ 1)
    (hz : s.slotBytes fn slot 5 3 = [0, 0, 0]) : s.mailbox fn slot opc k = k s := by
  have h1 : s.slotOpc fn slot = opc := ho
  have h2 : (s.slotByte fn slot 1 == 1) = false := by simpa using hs
  simp only [State.mailbox, h1, hr, State.doorbell, h2, hz]
  simp

/-! ### Lane writes -/

/-- A lane write that is queued. -/
@[simp] theorem State.queueWrite_pending (s : State) (lat : Nat) (x : LaneTarget) :
    (s.queueWrite lat x).t.lane.pending = s.t.lane.pending ++ [{ due := s.cycle + lat, issued := s.cycle, target := x }] := by
  simp [State.queueWrite]

/-- Queueing a lane write changes only what is in flight. -/
theorem State.queueWrite_keeps (s : State) (lat : Nat) (x : LaneTarget) :
    (s.queueWrite lat x).t = { s.t with lane := { s.t.lane with pending := s.t.lane.pending ++
      [{ due := s.cycle + lat, issued := s.cycle, target := x }] } } := by simp [State.queueWrite]

/-- A live vector register is written at its latency, under its mask; a dead one is fault 0x22. -/
theorem State.writeReg_dead (s : State) (k lat : Nat) (o : VOut) (m : BitVec 4) (h : liveName s.t.ctl.depth k = false) :
    s.writeReg k lat o m = .error 0x22 := by simp [State.writeReg, h]

theorem State.writeReg_live (s : State) (k lat : Nat) (o : VOut) (m : BitVec 4) (h : liveName s.t.ctl.depth k = true) :
    ∃ u, s.writeReg k lat o m = .ok u ∧
      (∃ c, ({ due := s.cycle + lat, issued := s.cycle
               target := .vec (physV s.t.ctl.rb k) o.mask o.data (m &&& groupsHit o.mask) c } : LaneWrite) ∈ u.t.lane.pending) ∧
      u.t.lane.v = s.t.lane.v ∧ u.t.ctl = s.t.ctl ∧ u.t.buf = s.t.buf ∧ u.net = s.net := by
  unfold State.writeReg
  simp only [h, Bool.not_true, Bool.false_eq_true, if_false]
  refine ⟨_, rfl, ?_, ?_, ?_, ?_, ?_⟩
  · simp only [State.queueWrite_pending, List.mem_append, List.mem_singleton]
    exact ⟨_, .inr rfl⟩
  all_goals simp [State.queueWrite]

/-! ### Stores -/

/-- A store leaves every byte outside its cells. -/
theorem State.writeAt_byte (s : State) (cs : List (Nat × Byte × Bool)) (a : Nat) (h : ∀ c ∈ cs, c.1 ≠ a) :
    (s.writeAt cs).t.buf.byte a = s.t.buf.byte a := by
  simp only [State.writeAt, State.modBuf_t, Buf.byte, Buf.noteFill_mem]
  exact Buf.write_ne _ _ _ h

/-- A store touches only the buffers of its tile. -/
theorem State.writeAt_keeps (s : State) (cs : List (Nat × Byte × Bool)) :
    (s.writeAt cs).t.ctl = s.t.ctl ∧ (s.writeAt cs).t.lane = s.t.lane ∧ (s.writeAt cs).t.mx = s.t.mx ∧
    (s.writeAt cs).t.winch = s.t.winch ∧ (s.writeAt cs).t.sync = s.t.sync ∧ (s.writeAt cs).net = s.net ∧ (s.writeAt cs).far = s.far ∧
    (s.writeAt cs).host = s.host ∧ (s.writeAt cs).ctrl = s.ctrl := by simp [State.writeAt]

end Sys2Proof.Machine
end

