-- ==== Sys2Proof/Laws/Words.lean ====
section
/-!
SUPPORT. Words as integers: sign extension, truth values, differences.
-/

namespace Sys2Proof.Machine

open Sys2Proof

/-- A signed immediate as a 64-bit word is that integer. -/
theorem sext64_ofInt (imm : BitVec 14) : sext64 imm = BitVec.ofInt 64 imm.toInt := by
  apply BitVec.eq_of_toInt_eq
  unfold sext64
  rw [BitVec.toInt_signExtend_of_le (by omega), BitVec.toInt_ofInt]
  have := BitVec.toInt_lt (x := imm)
  have := BitVec.le_toInt (x := imm)
  rw [Int.bmod_eq_of_le] <;> omega

/-- A truth value as a word. -/
theorem b2w_ofInt (p : Bool) : b2w p = BitVec.ofInt 64 (if p then 1 else 0) := by cases p <;> rfl

/-- A word is its natural number, and its signed number. -/
theorem word_ofInt_toNat (a : Word) : BitVec.ofInt 64 (a.toNat : Int) = a := by rw [BitVec.ofInt_natCast]; simp

theorem word_ofInt_sub (a b : Int) : BitVec.ofInt 64 (a - b) = BitVec.ofInt 64 a - BitVec.ofInt 64 b := by
  rw [sub_eq_add_neg, BitVec.ofInt_add, BitVec.ofInt_neg, sub_eq_add_neg]

end Sys2Proof.Machine
end

