-- ==== Sys2Proof/Tests/Slice0.lean ====
section
/-!
SUPPORT. Tests of the model against worked examples of the spec: bytes of bundles, results of arithmetic, the steps of small programs.
Each test names the file of spec/ its expected result stands in. `Sys2Proof.Tests.Words` holds one word for every instruction.
-/

namespace Sys2Proof.Tests

-- One theorem after another: a kernel evaluation that waits for the theorems before it would hold a thread of its own.
set_option Elab.async false

open Sys2Proof Sys2Proof.Machine

/-! ### Encodings written out in the spec -/

/-- The parcels of bytes as they lie in the I-store. -/
def parcelsOf : Bytes → List (BitVec 16)
  | a :: b :: rest => (b ++ a) :: parcelsOf rest
  | _ => []

/-- The slots of the bundle at the head of some bytes, with its length; the bytes after it are zero. -/
noncomputable def slotsOf (lane : Bool) (b : Bytes) : Option (List Instr × Nat × Bool) :=
  match decodeBundle lane (parcelsOf b ++ [0, 0, 0, 0]) with
  | .error _ => none
  | .ok x => some (x.slots.filterMap fun p => match p.2 with
      | .ok i => some i
      | .error _ => none, x.len, x.last)

/-- The fault of a bundle, or the first one of its slots. -/
noncomputable def faultOf (lane : Bool) (ps : List (BitVec 16)) : Option Byte :=
  match decodeBundle lane ps with
  | .error c => some c
  | .ok b => (b.slots.filterMap fun p => match p.2 with
      | .ok _ => none
      | .error c => some c).head?

theorem test_decode_nop : decodeTableWord 16 0 = some (.nop false false) := by decide

/-- 02_bundles.md, two vector slots of one lane bundle. -/
theorem test_bundle_of_two_vector_slots :
    slotsOf true [0x20, 0xB0, 0x01, 0x00, 0x85, 0x02, 0x00, 0x71, 0x00, 0x30, 0x99, 0x41, 0xDC, 0x02, 0x80, 0x4B, 0x00, 0x50] =
      some ([.vadd { guard := none, w := .w512 } 20 21 98 .i32 false false,
        .vfmul { guard := some { g := 3, sn := false }, w := .w512 } 22 113 23 .f32 .rne false], 18, true) := by decide

/-- 02_bundles.md: the closer of a loop at 0x0040, whose branch goes back 32 bytes. -/
theorem test_bundle_of_addi_and_bne :
    slotsOf false [0x00, 0x28, 0x29, 0x02, 0xFF, 0x7F, 0xA0, 0x24, 0xF0, 0xFF] =
      some ([.addi 5 5 0x3FFF, .bne 5 0 0xFFF0], 10, false) := by decide

/-- 04_winch.md: the command of the 64-row fetch. -/
theorem test_bundle_of_wcopy :
    slotsOf false [0x00, 0x02, 0x04, 0x02, 0x05, 0x01, 0x0D, 0x14, 0xB0, 0x4B, 0x00, 0x00, 0x00, 0x84] =
      some ([.wcopy { wsem := 4, wth := 1, ssem := 5, sinc := 1, q := 1, ord := false } 0 1
        { cw := some (10, 11), cr := some 12 } none false 0x42], 14, false) := by decide

/-- 07_streams_registers.md: the returning atomic add. -/
theorem test_bundle_of_vamoadd :
    slotsOf true [0x00, 0x84, 0x00, 0x4C, 0x95, 0x0B, 0x2C, 0x92] =
      some ([.vamoadd { guard := none, w := .w256, cls := 0 } 23 21 true false 2 22], 8, false) := by decide

/-- 08_vector.md: a fused multiply-add under a predicate that is sensed inverted. -/
theorem test_bundle_of_vfma :
    slotsOf true [0x20, 0xA0, 0xCD, 0x43, 0xC7, 0x93, 0x65, 0xF9, 0x00, 0x60] =
      some ([.vfma { guard := some { g := 9, sn := true }, w := .w512 } 30 31 114 101 .bf16 .sr true], 10, true) := by decide

/-- 09_matrix.md: a push and a drain. -/
theorem test_bundles_of_the_matrix_array :
    slotsOf true [0x20, 0x88, 0x1E, 0x28, 0x00, 0x48] = some ([.mpushan none 121 0 true false 0], 6, true) ∧
    slotsOf true [0x00, 0x88, 0x01, 0x38, 0x00, 0x00] = some ([.mdrain none 0 0 true 0], 6, false) := by decide

/-- 10_fabric.md and 19_programs_multimodule.md: the channel instructions. -/
theorem test_bundles_of_channels :
    slotsOf false [0x00, 0x04, 0x01, 0x80, 0x30, 0x00] = some ([.chrsv 3 1], 6, false) ∧
    slotsOf false [0x00, 0x04, 0x01, 0x88, 0x20, 0x00] = some ([.chwait 2 1], 6, false) ∧
    slotsOf true [0x20, 0x81, 0x08, 0x00, 0x00, 0x0A, 0x00, 0x03] =
      some ([.fsend { guard := none, w := .w1024, cls := 0 } 20 3], 8, true) := by decide

/-- 11_exact_reduction.md: opening a round and contributing to it. -/
theorem test_bundles_of_a_round :
    slotsOf false [0x80, 0x00, 0x01, 0x64, 0x80, 0x4C] = some ([.collopen 5 6 8], 6, false) ∧
    slotsOf true [0x20, 0x81, 0x00, 0x40, 0x00, 0x02, 0x00, 0x14] =
      some ([.collv { guard := none, w := .w256, cls := 0 } 4 5], 8, true) := by decide

/-- 15_sync_time_phases.md and 19_programs_multimodule.md: waiting for a time. -/
theorem test_bundles_of_waitt :
    slotsOf false [0x80, 0x00, 0x01, 0x24, 0x00, 0x80] = some ([.waitt 3], 6, false) ∧
    slotsOf false [0x80, 0x00, 0x02, 0x24, 0x00, 0x00] = some ([.waitt 4], 6, false) := by decide

/-- 02_bundles.md R25, R37: a header of the other sequencer, reserved header bits, a bundle that leaves its bank, a bank
with no parcel left, and E = 1 in a control bundle. -/
theorem test_reserved_encodings :
    faultOf false [0x8000] = some 0x01 ∧ faultOf true [0x0000] = some 0x20 ∧ faultOf false [0x0001] = some 0x01 ∧
    faultOf true [0x8001] = some 0x20 ∧ faultOf false [0x2000] = some 0x01 ∧ faultOf true [0xA000, 0] = some 0x20 ∧
    faultOf false [] = some 0x01 ∧ faultOf false [0x0020] = some 0x01 := by decide

/-! ### Which instructions are well formed -/

/-- 02_bundles.md R45: a slot of 512 bits. -/
def vh : VHead := { guard := none, w := .w512 }
/-- An LD, ST or FB slot of 512 bits. -/
def lh : LHead := { guard := none, w := .w512, cls := 0 }
/-- A command that neither waits nor signals. -/
def wh : WHead := { wsem := 0, wth := 0, ssem := 0, sinc := 0, q := 0, ord := false }
/-- No completion. -/
def wo : WOpts := { cw := none, cr := none }

/-- Reserved field values, one for each check (faults 0x02 and 0x21). -/
theorem test_ill_formed_fields : ∀ i ∈ ([
    .nop false true, .wshp 0 6 1, .wshrd 1 0 7, .wcopy { wh with wsem := 4 } 0 1 wo none false 0,
    .wsig { wh with ssem := 5 } wo none 0, .wflush { wh with wsem := 1 } 0, .whalo wh 0 0 false 0 wo 0,
    .wamo wh .add 0 1 0 3 wo 0, .wamo wh .add 0 1 0 0 { wo with cw := some (1, 2) } 0,
    .wcrc wh 0 true 1 { wo with cw := some (1, 2) } 0, .semsig { lane := false, guard := none } 3 0,
    .fence { lane := false, guard := none } 0, .barset 1 2 3 false, .vadd vh 1 2 3 .f32 false false, .vpopc vh 1 2 .bf16,
    .vshli vh 1 2 .i8 8, .vcmpeq vh 1 2 3 .f16, .vfadd vh 1 2 3 .i32 .rne false, .vfclass vh 1 2 .i8 1,
    .vcvt vh 1 2 .i8 .i16 false .sr false, .vcvthb { vh with w := .w256 } 1 112 .f32 .rne false, .vcvtscl { vh with w := .w256 } 1 2 .f32 false .rne false,
    .vrot vh 1 2 .i32 16, .vslide vh 1 2 3 .i32 17, .vred vh 1 2 .f32 .sum true .rne false, .vredx vh 1 2 3 true .rne false,
    .vrcp vh 1 2 .e4m3 .rne false, .vpoprq vh 1 0, .ptov vh 1 2 .f32, .mcfg none .bf16 .i8 0 false false,
    .pld lh 1 112, .rqst lh 0 112, .vamoadd lh 1 2 false true 0 3, .vamocas lh 0 2 false true 0 3,
    .fsendq lh 1 2, .collq lh 1 2] : List Instr), instrOk i = false ∧ wf i = false := by decide

/-- Operands that are not legal, one for each check (faults 0x03 and 0x22). -/
theorem test_ill_formed_operands : ∀ i ∈ ([
    .wfld 1 2 6, .bfx 1 2 60 4, .bfxu 1 2 63 1, .bfins 1 2 1 63, .loop 0 8, .dispatch 0 1 false false 0 false 3, .scfg 0 6 1,
    .ldepth 0, .ldepth 81, .rbset 80, .collopen 1 2 3, .vadd vh 96 2 3 .i32 false false, .vfma vh 111 2 3 4 .f32 .rne false,
    .vcvthb vh 1 2 .bf16 .rne false, .vcvtfhb vh 1 2 .bf16 0 .rne, .mpushb none 5 false 0, .mpushbz none true 1,
    .mdrain none 0 0 true 1, .mzero none 0 true 1, .mchk none 96 false, .vld lh 112 113,
    .vld lh 1 2, .vldx lh 1 112 .d 0, .pld { lh with w := .w256 } 1 2, .vamoadd lh 1 112 true true 0 3, .vamoadd lh 1 2 true true 0 112,
    .vst lh 1 2, .vstx lh 112 1 .d 0, .frecv lh 96 3] : List Instr), operandOk i = false ∧ wf i = false := by decide

/-! ### Arithmetic -/

/-- 06_number_formats.md: FP32 to BF16 under stochastic rounding, by the slice of the random state. -/
theorem test_stochastic_rounding :
    roundToFloat (ofFloat .f32 0x3F808001) .bf16 .sr false 0x7FFF = (0x3F81, fNX) ∧
    roundToFloat (ofFloat .f32 0x3F808001) .bf16 .sr false 0x7FFE = (0x3F80, fNX) ∧
    roundToFloat (ofFloat .f32 0x3F808001) .bf16 .sr false 0 = (0x3F80, fNX) ∧
    roundToFloat (ofFloat .f32 0x3F810000) .bf16 .sr false 0xFFFF = (0x3F81, 0) := by decide

/-- 06_number_formats.md: 448 + 96 in E4M3 goes beyond range, and saturates. -/
theorem test_e4m3_overflow :
    roundToFloat (.fin false 544 0 false) .e4m3 .rne false 0 = (0x7F, fOF ||| fNX) ∧
    roundToFloat (.fin false 544 0 false) .e4m3 .rne true 0 = (0x7E, fOF ||| fNX) := by decide

/-- 06_number_formats.md: the sum of 2^25, 1 and -2^25 in the long accumulator is 1 in every order; its image. -/
theorem test_order_free_sum :
    sclEncode (((laOf (ofFloat .f32 0x4C000000)).add (laOf (ofFloat .f32 0x3F800000))).add (laOf (ofFloat .f32 0xCC000000))) =
      0x0000000100002880 ∧
    laRound (sclRead 0x0000000100002880).1 .f32 .rne false 0 = (0x3F800000, 0) := by decide

/-- 06_number_formats.md: the image of -(2 + 2^-20), and its value. -/
theorem test_sign_fill :
    sclEncode (laOf (ofFloat .f32 0xC0000004)) = 0xFFFFFFFDFFFFF0000000A100 ∧
    laRound (sclRead 0xFFFFFFFDFFFFF0000000A100).1 .f32 .rne false 0 = (0xC0000004, 0) := by decide

/-- 11_exact_reduction.md: the partial 1 - 2^24 of a subtree. -/
theorem test_partial_of_a_subtree :
    sclEncode ((laOf (ofFloat .f32 0x3F800000)).add (laOf (ofFloat .f32 0xCB800000))) = 0xFF0000010000A880 := by decide

/-- 04_winch.md: the check values of the two CRCs, over "123456789". -/
theorem test_crc_check_values :
    crc32c [0x31, 0x32, 0x33, 0x34, 0x35, 0x36, 0x37, 0x38, 0x39] = 0xE3069283 ∧
    crc64Run 0 [0x31, 0x32, 0x33, 0x34, 0x35, 0x36, 0x37, 0x38, 0x39] = 0x6C40DF5F0B497347 := by decide +kernel

/-- 16_launch.md: the WID of index 1234. -/
theorem test_work_item_id : widOf [10, 64, 3, 1, 1, 1] 0x20304 1234 = 0x7B4 := by decide

/-- 01_module.md: where logical tile (50, 40) lies, its neighbours, and two tiles about a spare row, as 72 px + py. -/
theorem test_default_map :
    defaultHome (84 * 40 + 50) = 72 * 67 + 56 ∧ defaultHome (84 * 41 + 50) = 72 * 67 + 54 ∧ defaultHome (84 * 39 + 50) = 72 * 67 + 58 ∧
    defaultHome (84 * 2) = 4 ∧ defaultHome (84 * 3) = 7 ∧ defaultHome (84 * 65) = 1 := by decide

/-! ### Steps -/

/-- ADD x1, x2, x3, the first bundle after reset: it issues, and the CPC stands after its six bytes. -/
theorem test_step_add :
    ∃ t, step (State.reset.withFetchWord 48 0x860000082000) = .next t ∧ t.t.ctl.cpc = 6 ∧ t.x 1 = 0 := ⟨_, rfl, by decide, by decide⟩

end Sys2Proof.Tests
end

