-- ==== Sys2Proof/Tests/Witness.lean ====
section
/-!
SUPPORT. States and operands that meet the hypotheses of the statements: the control slice, bundles, buffers, the Winch and translation.
-/

open Sys2Proof Sys2Proof.Machine

namespace Sys2Proof.Tests

-- One theorem after another: a kernel evaluation that waits for the theorems before it would hold a thread of its own.
set_option Elab.async false

/-! ### States the witnesses use -/

/-- The machine after reset, at tile 0. -/
def z : State := State.reset

/-- After reset, with scalar registers. -/
def xs (l : List (Nat × Word)) : State := z.modCtl fun c => { c with x := l }

/-- A state whose bundle is open, of the control slice or of the lanes. -/
def opened (lane : Bool) (s : State) : State := { s with bun := { Bun.none with active := true, lane := lane } }

/-- A register that awaits a RAMO of class 0 on the first word of tile 5543. -/
def awaiting (det : Bool) : RamoOut :=
  { rid := 0, cls := 0, xd := 5, det := det, gateway := false, home := 5543, place := 0, size := 8, held := false, resp := none }

/-- The registers of an open bundle. -/
def reads (ramos : List RamoOut) (foul : BitVec 32) : State :=
  { z with bun := { Bun.none with active := true, xs := some { x := [], ramos := ramos, foul := foul } } }

/-- A tile whose handler may be entered. -/
def trappable : State :=
  z.modCtl fun c => { c with fv0 := true, fetch := .running, trap := { c.trap with tvec := 0x100, re := 0xFF } }

/-- A running region of two tiles. -/
def r0 : Region :=
  { id := 1, asid := 7, fn := 2, evr := 3, dq := 0, px := 0, py := 0, wd := 2, ht := 1, flags := 0, slack := 0, imgid := 0, imgva := 0
    lid := 0, mods := [], mm := false, count := 2, next := 1, ext := [2, 1, 1, 1, 1, 1], widw := 1, spdl := 10, sfbase := 0, sfstr := 0
    ranges := [], livev := 0, livef := 0, state := .running, tau := 0, started := [], savedTiles := [], released := [], deadline := none
    kind := 0, tag := 0, slot := 0, prio := 0, serial := none, rst := false, lltv := 0, baseid := 0, err := false, want := 0 }

/-- The machine with regions. -/
def within (rs : List Region) : State := z.modCtrl fun c => { c with regions := rs }

/-! ### The control slice -/

theorem meets_scalar_operations :
    z.hazard [1, 2] = .none ∧ z.hazard [1] = .none ∧
    (xs [(1, 0x8000000000000000), (2, 0xFFFFFFFFFFFFFFFF)]).hazard [1, 2] = .none ∧
    (xs [(1, 0x8000000000000000), (2, 0xFFFFFFFFFFFFFFFF)]).x 1 = 0x8000000000000000 ∧
    (xs [(1, 0x8000000000000000), (2, 0xFFFFFFFFFFFFFFFF)]).x 2 = 0xFFFFFFFFFFFFFFFF := by decide

theorem meets_scalar_registers :
    (5 : BitVec 3).toNat < 6 ∧ 6 ≤ (6 : BitVec 3).toNat ∧ (63 : BitVec 6).toNat + ((0 : BitVec 6).toNat + 1) ≤ 64 ∧
    64 < (63 : BitVec 6).toNat + ((1 : BitVec 6).toNat + 1) ∧ z.hazard [3, 1] = .none := by decide

theorem meets_scalar_hazards :
    (reads [awaiting true] 0).pre.ramos.find? (fun o => o.xd == 5 && o.resp.isNone) = some (awaiting true) ∧
    (reads [awaiting false] 0).pre.ramos.find? (fun o => o.xd == 5 && o.resp.isNone) = some (awaiting false) ∧
    (reads [] 32).pre.ramos.find? (fun o => o.xd == 5 && o.resp.isNone) = none ∧ (reads [] 32).pre.foul.getLsbD 5 = true ∧
    (reads [] 31).pre.foul.getLsbD 5 = false ∧ (reads [] 31).bun.active = true ∧ (reads [] 31).bun.raised = none := by decide

theorem meets_frames :
    (opened false z).bun.active = true ∧ (∃ t, exec (.li 3 7) (opened false z) = .next t) ∧ ∃ t, exec (.jmp 8) (opened false z) = .next t :=
  ⟨rfl, ⟨_, rfl⟩, ⟨_, rfl⟩⟩

theorem meets_csr_access :
    z.csr 0x015 = some 0 ∧ z.csr 0x010 = some 0 ∧ z.csr 0x013 = some 0 ∧ z.csr 0x020 = some 0 ∧ z.csr 0x030 = some 0 ∧
    z.csr 0x031 = some 0 ∧ z.csr 0x100 = some 0 ∧ z.csr 0x101 = some 0 ∧ z.csr 0x002 = none ∧ z.t.ctl.trap.hnd = false ∧
    z.hazard [1] = .none := by decide

/-- Where branches may go: the ends of a bank, and just past them. -/
theorem meets_branches :
    Say.reachable 0x7FFE 0 ∧ Say.reachable 0 0x7FFE ∧ ¬Say.reachable 0x7FFE 0x8000 ∧ Say.reachable 0x8000 0xFFFE ∧
    ¬Say.reachable 0x8000 0x10000 ∧ ¬Say.reachable 0 3 ∧ ¬Say.reachable 0 (-2) := by unfold Say.reachable; decide

theorem meets_compares :
    (xs [(1, 1), (2, 2)]).x 1 ≠ (xs [(1, 1), (2, 2)]).x 2 ∧ ((xs [(1, 0xFFFFFFFFFFFFFFFF)]).x 1).toInt < ((xs []).x 2).toInt ∧
    ((xs []).x 2).toNat < ((xs [(1, 0xFFFFFFFFFFFFFFFF)]).x 1).toNat ∧ z.x 1 = z.x 2 ∧ (z.x 2).toInt ≤ (z.x 1).toInt := by decide

theorem meets_loops :
    ((xs [(1, 1)]).x 1).toNat ≤ 1 ∧ 1 < ((xs [(1, 2)]).x 1).toNat ∧ z.pc.toNat < 0x8000 ∧ z.t.ctl.fv1 = false ∧
    (z.modCtl fun c => { c with fv1 := true }).t.ctl.fv1 = true ∧ 0x8000 ≤ (z.modCtl fun c => { c with cpc := 0x8000 }).pc.toNat ∧
    (z.modCtl fun c => { c with cpc := 0x8000, fv0 := true }).t.ctl.fv0 = true ∧
    (z.modCtl fun c => { c with cpc := 0x8000 }).t.ctl.fv0 = false := by decide

theorem meets_calls :
    (z.modCtl fun c => { c with ret := List.replicate 15 0 }).t.ctl.ret.length < 16 ∧
    16 ≤ (z.modCtl fun c => { c with ret := List.replicate 16 0 }).t.ctl.ret.length ∧ z.t.ctl.ret = [] ∧
    (z.modCtl fun c => { c with ret := [0x40] }).t.ctl.ret = [0x40] ∧ Say.reachable z.pc (0x40 : BitVec 16).toNat ∧
    ¬Say.reachable z.pc (0x41 : BitVec 16).toNat := by unfold Say.reachable; decide

/-- A trap that no event raised. -/
def fault (code : Byte) : Cause := { code := code, arg := 0, slot := 1, async := false, lane := false, val := 0 }

theorem meets_traps :
    (∀ code ∈ ([1, 3, 8, 0x80, 0xFF] : List Byte), Say.takeable trappable code) ∧ trappable.t.sync.inph = false ∧
    trappable.bun.active = false ∧ (opened false trappable).bun.active = true := by unfold Say.takeable; decide

/-- A handler that runs, with a TEPC. -/
def handling (epc : BitVec 16) : State := trappable.modTrap fun t => { t with hnd := true, epc := epc }

theorem meets_trap_return :
    (handling 1).t.ctl.trap.epc.getLsbD 0 = true ∧ (handling 0x8000).fv 0x8000 = false ∧ (handling 0x40).t.ctl.trap.hnd = true ∧
    (handling 0x40).t.ctl.trap.epc.getLsbD 0 = false ∧ (handling 0x40).fv 0x40 = true ∧ (handling 0x40).bun.active = false ∧
    (opened false (handling 0x40)).bun.active = true ∧ z.t.ctl.trap.hnd = false ∧ (opened false z).t.ctl.trap.hnd = false ∧
    ({ fault 0x80 with async := true }).lane = false := by decide

theorem meets_fault_handling :
    (opened false z).bun.raised = none ∧ ({ (opened false z) with bun := { (opened false z).bun with raised := some (fault 1) } }).bun.raised ≠ none ∧
    (within [r0]).region = some r0 ∧ r0.index 0 < 65536 ∧ (within [r0]).t.ctl.trap.hnd = false ∧ (fault 4).code ≠ 0x13 ∧
    z.t.lane.pending = [] ∧ z.t.lane.sigs = [] ∧ z.t.mx.rows = [] ∧ (z.host.pend.filter fun x => x.fn == 2).length < 4096 ∧
    { handling 0 with cycle := 1048575 }.cycle < { handling 0 with cycle := 1048575 }.t.ctl.trap.hstart + 2 ^ 20 ∧
    { handling 0 with cycle := 1048576 }.t.ctl.trap.hstart + 2 ^ 20 ≤ 1048576 ∧ (handling 0).t.ctl.frozen = false := by decide

/-! ### Steps -/

/-- ADD x1, x2, x3 at address 0, about to issue. -/
def adding : State := z.withFetchWord 48 0x860000082000

theorem meets_control_bundle :
    ∃ b, adding.agenda = [.control 0] ∧ controlHold { adding with agenda := [] } = none ∧
      decodeBundle false (adding.t.buf.parcels adding.t.ctl.cpc.toNat) = .ok b ∧ b.slots = [(1, .ok (.add 1 2 3))] ∧
      ∃ t, Say.ran [(1, .add 1 2 3)] (Say.opened b { adding with agenda := [] }) t ∧ t.bun.waits = [] :=
  ⟨_, rfl, rfl, rfl, rfl, _, ⟨_, rfl, rfl, rfl⟩, rfl⟩


/-- A lane bundle of one VAND, about to issue at a tile in no region. -/
def anding : State := z.withFetchWord 80 0x8180002010029000

set_option maxRecDepth 8000 in
theorem meets_lane_bundle :
    ∃ b blk, anding.agenda = [.lane 0] ∧ anding.isHeld = false ∧ anding.t.lane.stop = false ∧ anding.t.ctl.blk = some blk ∧
      blk.off = false ∧ anding.t.buf.badFetch blk.lpc.toNat (lengthAt (anding.t.buf.parcels blk.lpc.toNat)) = none ∧
      decodeBundle true (anding.t.buf.parcels blk.lpc.toNat) = .ok b ∧
      b.slots = [(2, .ok (.vand { guard := none, w := .w1024 } 1 2 3))] ∧
      ∃ t, Say.ran [(2, .vand { guard := none, w := .w1024 } 1 2 3)] (openBundle true blk.lpc b { anding with agenda := [] }) t :=
  ⟨_, _, rfl, rfl, rfl, rfl, rfl, rfl, rfl, rfl, _, ⟨_, rfl, rfl, rfl⟩⟩

/-- A bundle whose second slot faults (WFLD of field 6), and one that stalls (SEMWAIT for 1). -/
theorem meets_faulting_and_stalled_bundles :
    (∃ t, Say.ran [] (opened false z) t) ∧
    (∃ u c, exec (.wfld 1 2 6) { opened false z with bun := { (opened false z).bun with slot := 2 } } = .next u ∧ u.bun.raised = some c) ∧
    (∃ t, Say.ran [(1, .semwait 3 1)] (opened false (xs [(1, 1)])) t ∧ t.bun.waits ≠ []) ∧
    (opened false z).bun.late = none ∧ (∀ nb, [((.semwait : Wait), Instr.semwait 3 1)] ≠ [(.barrier, .arrwait nb)]) :=
  ⟨⟨_, rfl⟩, ⟨_, _, rfl, rfl⟩, ⟨_, ⟨_, rfl, rfl, rfl⟩, by decide⟩, rfl, by simp⟩

theorem meets_illegal_bundle :
    let s := z.withFetchWord 16 0x0001
    s.agenda = [.control 0] ∧ controlHold { s with agenda := [] } = none ∧ decodeBundle false (s.t.buf.parcels s.t.ctl.cpc.toNat) = .error 0x01 :=
  ⟨rfl, rfl, rfl⟩

theorem meets_event_turns :
    ({ z with agenda := [.event 5543 .rampWindowEnd] }).agenda = [.event 5543 .rampWindowEnd] ∧ (5543 : Nat) < 5544 ∧
    ({ z with agenda := [.event 5544 .rampWindowEnd] }).agenda = [.event 5544 .rampWindowEnd] ∧ 5544 ≤ (5544 : Nat) ∧ z.agenda = [] := by
  decide

/-! ### Buffers, channels and remote atomics -/

/-- Where SM accesses go: the ends of C and of both sides of A, aligned and not. -/
theorem meets_sm_addresses :
    z.t.buf.pairs = [] ∧ (0x5FFF8 : Word).toNat < 0x60000 ∧ (0x5FFF8 : Word).toNat % 8 = 0 ∧ (0x5FFFC : Word).toNat % 8 ≠ 0 ∧
    0x60000 ≤ (0x60000 : Word).toNat ∧ (0x1BFFF8 : Word).toNat < 0x200000 ∧ (0x1BFFF8 : Word).toNat % 0x100000 < 0xC0000 ∧
    0xC0000 ≤ (0xC0000 : Word).toNat % 0x100000 ∧ 0x200000 ≤ (0x200000 : Word).toNat := by decide

/-- A location that is aligned, one that is not, and one whose word is poisoned. -/
theorem meets_scalar_accesses :
    let m : SmAddr := { cls := 0, cbuf := true, xa := 1, off := 1 }
    let a : SmAtom := { cls := 0, cbuf := true, xa := 1 }
    let p := (xs [(1, 0x10000)]).modBuf fun b => { b with poison := [(0x310008 / 8, true)] }
    (xs [(1, 0x10000)]).hazard [1] = .none ∧ (xs [(1, 0x10000)]).hazard [1, 4] = .none ∧ (xs [(1, 0x10000)]).hazard [1, 2, 4] = .none ∧
    (xs [(1, 0x10000)]).smAt true ((xs [(1, 0x10000)]).smEa m 8) 8 = .ok 0x310008 ∧ (xs [(1, 0x10001)]).smAt true ((xs [(1, 0x10001)]).smEa m 8) 8 = .error 9 ∧
    (xs [(1, 0x10000)]).smAt a.cbuf ((xs [(1, 0x10000)]).x a.xa) 8 = .ok 0x310000 ∧
    anyPoison ((xs [(1, 0x10000)]).readAt (run 0x310008 8)).1 = false ∧ anyPoison ((opened false p).readAt (run 0x310008 8)).1 = true ∧
    (opened false p).bun.active = true := by decide

/-- A tile with channels 1 (windowed, send), 2 (windowed, receive) and 3 (static, receive), each of window 4. -/
def channels (l : List (Nat × Chan)) (x : Word) : State :=
  (xs [(1, x)]).modFab fun f =>
    { f with route := [(1, 0x8040000000000000), (2, 0xC040000000000000), (3, 0xE040000000000000)], chans := l }

theorem meets_channels :
    let z4 := channels [] 4
    let z5 := channels [] 5
    let busy := channels [(1, { Chan.zero with nxt := 3, rsv := 1 }), (2, { Chan.zero with avl := 4 })] 4
    z4.hazard [1] = .none ∧ z4.granted .chrsv = false ∧ z4.granted .chwait = false ∧ chSendWin (z4.userEnt 1) = true ∧
    chSendWin (z4.userEnt 2) = false ∧ chRecvWin (z4.userEnt 2) = true ∧ chRecvWin (z4.userEnt 1) = false ∧ chRecvStat (z4.userEnt 3) = true ∧
    chSendWin (z4.userEnt 3) = false ∧ chRecvWin (z4.userEnt 3) = false ∧ chSendWin (z4.userEnt 0) = false ∧ chRecvWin (z4.userEnt 0) = false ∧
    chRecvStat (z4.userEnt 0) = false ∧ chWin (z4.userEnt 1) < (z5.x 1).toNat ∧
    (z4.chan 1).inf + (z4.chan 1).rsv + (z4.x 1).toNat ≤ chWin (z4.userEnt 1) ∧
    chWin (busy.userEnt 1) < (busy.chan 1).inf + (busy.chan 1).rsv + (busy.x 1).toNat ∧
    (busy.x 1).toNat ≤ (busy.chan 2).avl ∧ (z4.chan 2).avl < (z4.x 1).toNat ∧
    (z4.modCtl fun c => { c with waits := [(.chrsv, .chrsv 1 1)] }).t.ctl.waits = [(.chrsv, .chrsv 1 1)] ∧
    (z4.chan 2).rsv < 128 ∧ (z4.chan 2).inf < 128 ∧ (z4.stored 2).length < 128 := by decide

/-- RAMOs: at the tile's own port side, at no place, over a gateway; with fifteen and sixteen outstanding. -/
def ramoing (l : Word) (n : Nat) (inph : Bool) : State :=
  ((xs [(1, l)]).modFab fun f => { f with ramos := List.replicate n (awaiting false), route := [(9, 0x8040200000000000)] }).modSync fun y =>
    { y with det := true, inph := inph }

theorem meets_remote_atomics :
    let s := ramoing 0xBFFF8 15 true
    s.hazard [1, 2, 6] = .none ∧ s.hazard [1, 2] = .none ∧ s.ramoHome (s.x 1) true = some (.tile 0) ∧ s.t.fab.ramos.length < 16 ∧
    s.t.sync.det = true ∧ s.t.sync.inph = true ∧ 16 ≤ (ramoing 0xBFFF8 16 true).t.fab.ramos.length ∧
    s.ramoHome 0xBFFFC true = none ∧ s.ramoHome 0xC0000 true = none ∧ (ramoing 0 0 false).t.sync.inph = false := by decide +kernel

theorem meets_ordered_remote_atomics :
    Say.ordered (ramoing 0xBFFF8 15 true) 1 0 0xBFFF8 8 ∧ ¬Say.ordered (ramoing 0xBFFF8 15 true) 0 0 0xBFFF8 8 ∧
    ¬Say.ordered (ramoing 0xBFFF8 15 true) 1 5543 7 8 ∧ Say.ordered (ramoing 0xBFFF8 15 true) 1 5543 8 8 := by
  unfold Say.ordered; decide +kernel

/-- A request at its home, and the register of one that returns. -/
def asked (det : Bool) : RamoReq :=
  { src := 5543, rid := 0, cbuf := false, side := true, off := 0xBFFF8, aop := .add, sz := true, det := det, phn := 0, b := 1, cmp := 0 }

theorem meets_remote_atomic_performance :
    (asked false).det = false ∧ (asked false).sz = true ∧ (asked false).src < 5544 ∧ (asked true).det = true ∧
    ((z.modFab fun f => { f with held := List.replicate 1023 (asked true) }).t.fab.held.filter fun x => x.phn == 0).length < 1024 ∧
    (z.modFab fun f => { f with ramos := [awaiting false] }).t.fab.ramos.find? (fun x => x.rid == 0) = some (awaiting false) ∧
    (z.modFab fun f => { f with ramos := [{ awaiting false with held := true }] }).t.fab.ramos.find? (fun x => x.rid == 0) =
      some { awaiting false with held := true } ∧
    (awaiting false).held = false ∧ (awaiting false).xd ≠ 0 := by decide +kernel

/-- A home with one request held, its region's round over. -/
def due : State :=
  ((z.modFab fun f => { f with held := [asked true] }).modSync fun y => { y with commit := .applied, phn := 1 })

theorem meets_deterministic_remote_atomics :
    z.phaseOver 0 = false ∧ due.phaseOver 0 = true ∧ due.phaseOver 1 = false ∧ due.t.fab.held = [asked true] := by decide

/-! ### Semaphores, barriers, waits and phases -/

/-- A signal in a control bundle, and in a lane bundle. -/
def sy (lane : Bool) : SyHead := { lane := lane, guard := none }

/-- Semaphore 3 at a value, x1 at another. -/
def semaphore (v : BitVec 16) (x : Word) : State := (xs [(1, x)]).modSync fun y => { y with sem := [(3, v)] }

/-- A stalled bundle of one instruction. -/
def stalled (w : Wait) (i : Instr) (s : State) : State := s.modCtl fun c => { c with waits := [(w, i)] }

theorem meets_semaphores :
    (sy false).lane = false ∧ (semaphore 65535 0).ramosDone (semaphore 65535 0).bun.scope (fun _ => true) = true ∧
    (∃ s : State, s.ramosDone s.bun.scope (fun _ => true) = false ∧ s.bun.active = true) ∧
    (∃ on, (opened true z).guard (sy true).guard = .ok on ∧ on 0 = true) ∧ Say.noConflict (opened true z) ∧
    (semaphore 0 65535).hazard [1] = .none ∧ ((semaphore 0 65535).x 1).toNat < 65536 ∧ 65536 ≤ ((semaphore 0 65536).x 1).toNat ∧
    65535 < ((semaphore 65535 0).sem 3).toNat + (1 : BitVec 12).toNat ∧ (semaphore 1 1).granted .semwait = false ∧
    ((semaphore 1 1).x 1).toNat ≤ ((semaphore 1 1).sem 3).toNat ∧ ((semaphore 1 2).sem 3).toNat < ((semaphore 1 2).x 1).toNat ∧
    Say.waitsFor (stalled .semwait (.semwait 3 1) (semaphore 1 1)) .semwait (.semwait 3 1) :=
  ⟨rfl, rfl, ⟨{ z.modFab fun f => { f with ramos := [awaiting false] } with bun := { Bun.none with active := true, scope := 3 } }, rfl, rfl⟩, ⟨_, rfl, rfl⟩,
    ⟨rfl, rfl, rfl⟩, rfl, by decide, by decide, by decide, rfl, by decide, by decide, rfl⟩

/-- Barrier 2 with an entry, arrivals that wait, a DONE and a ticket. -/
def barrier (ent : BitVec 32) (pend : Nat) (done wt : BitVec 16) : State :=
  (z.modRed fun r => { r with bars := [(2, { Barrier.zero with ent := ent, pend := pend, done := done })] }).modSync fun y => { y with wt := [(2, wt)] }

theorem meets_barriers :
    Say.mayArrive (barrier 0x80000100 1 0 0) 2 ∧ ¬Say.mayArrive (barrier 0x80000100 2 0 0) 2 ∧
    ((barrier 0x80000100 2 0 0).bar 2).ent.getLsbD 31 = true ∧ (bits 8 16 ((barrier 0x80000100 2 0 0).bar 2).ent).toNat ≠ 0 ∧
    ((barrier 0x100 0 0 0).bar 2).ent.getLsbD 31 = false ∧ (bits 8 16 ((barrier 0x80000000 0 0 0).bar 2).ent).toNat = 0 ∧
    Say.episodeReleased (barrier 0x80000100 0 1 0) 2 ∧ Say.episodeReleased (barrier 0x80000100 0 32767 0) 2 ∧
    ¬Say.episodeReleased (barrier 0x80000100 0 32768 0) 2 ∧ ¬Say.episodeReleased (barrier 0x80000100 0 5 5) 2 ∧
    (barrier 0x80000100 0 1 0).granted .barrier = false ∧
    Say.waitsFor (stalled .barrier (.wait 2) (barrier 0x80000100 0 1 0)) .barrier (.wait 2) := by
  unfold Say.mayArrive Say.episodeReleased Say.waitsFor; decide

/-- WAITA of the word at port-side offset 8, which holds 7. -/
theorem meets_word_waits :
    let s := (xs [(1, 8), (2, 7)]).modBuf fun b => { b with mem := [(8, 7)] }
    s.hazard [1, 2, 3] = .none ∧ s.hazard [1, 2] = .none ∧ s.localPlace (s.x 1) 8 = some 8 ∧
    (s.t.ctl.granted.find? fun g => g.1 == .waita) = none ∧ anyPoison (s.readAt (run 8 8)).1 = false ∧
    Say.little (s.readAt (run 8 8)).2.t.buf.byte 8 8 = (s.x 2).toNat % 2 ^ 64 ∧
    Say.little (s.readAt (run 8 8)).2.t.buf.byte 8 8 ≠ (s.x 3).toNat % 2 ^ 64 ∧ s.waitStart + (s.x 3).toNat ≤ s.cycle ∧
    ¬s.waitStart + (s.x 1).toNat ≤ s.cycle ∧ ¬(∃ x ∈ s.t.ctl.waits, x.1 = Wait.waita) := by decide

/-- The same WAITA while it waits: it watches the word resolved at its issue. -/
theorem meets_word_watched :
    let i : Instr := .waita 3 1 2 false true true
    let s := (stalled .waita i ((xs [(1, 8), (2, 7)]).modBuf fun b => { b with mem := [(8, 7)] })).modCtl fun c => { c with waitAt := 8 }
    s.hazard [1, 2, 3] = .none ∧ s.hazard [1, 2] = .none ∧ s.localPlace (s.x 1) 8 = some 8 ∧
    (∃ x ∈ s.t.ctl.waits, x.1 = Wait.waita) ∧ s.t.ctl.waitAt = 8 ∧ Say.waitsFor s .waita i ∧
    anyPoison (s.readAt (run 8 8)).1 = false := by unfold Say.waitsFor; decide

theorem meets_time_waits :
    let at_ (t : Word) : State := { xs [(1, 5)] with clock := { z.clock with mtime := t } }
    0 ≤ ((at_ 5).clock.mtime - (at_ 5).x 1).toInt ∧ ((at_ 4).clock.mtime - (at_ 4).x 1).toInt < 0 ∧
    0 ≤ ((at_ 0x8000000000000004).clock.mtime - (at_ 0x8000000000000004).x 1).toInt ∧
    ((at_ 0x8000000000000005).clock.mtime - (at_ 0x8000000000000005).x 1).toInt < 0 ∧ (at_ 5).granted .waitt = false := by decide

theorem meets_fences :
    (∀ o ∈ z.pre.ramos, ¬((1 : BitVec 16).getLsbD o.cls.toNat = true ∧ o.resp = none)) ∧
    (∃ o ∈ ({ reads [awaiting false] 0 with bun := { (reads [awaiting false] 0).bun with scope := 1 } } : State).pre.ramos,
      (1 : BitVec 16).getLsbD o.cls.toNat = true ∧ o.resp = none ∧ o.gateway = false) ∧ z.granted .fence = false := by decide

/-- A tile inside a phase. -/
def phased (run expd : Word) (ver : Bool) : State := z.modSync fun y => { y with inph := true, ver := ver, run := run, expd := expd }

theorem meets_phases :
    (z.modSync fun y => { y with pcp := 1 }).t.sync.pcp ≠ 0 ∧ z.t.sync.pcp = 0 ∧ z.t.sync.inph = false ∧ z.lanesIdle = true ∧
    (z.modLane fun l => { l with sigs := [{ sem := 1, due := 3 }] }).lanesIdle = false ∧
    (z.modCtl fun c => { c with after := some .phbegin }).t.ctl.after = some .phbegin ∧ (phased 1 2 true).t.sync.inph = true ∧
    (phased 1 2 true).commitReady = true ∧ (phased 1 2 true).t.sync.ver = true ∧ (phased 1 2 true).t.sync.run ≠ (phased 1 2 true).t.sync.expd ∧
    (phased 1 1 true).t.sync.run = (phased 1 1 true).t.sync.expd ∧ (phased 1 2 false).t.sync.ver = false ∧
    ((phased 0 0 false).modLane fun l => { l with sigs := [{ sem := 1, due := 3 }] }).commitReady = false ∧
    z.t.sync.commit = .none ∧ z.t.sync.det = false := by decide

/-- A deterministic commit: its round complete, then its requests applied. -/
def committing (c : Commit) (ramos : List RamoOut) : State :=
  (((z.modSync fun y => { y with commit := c, det := true, inph := true }).modFab fun f => { f with ramos := ramos }).modRed fun r =>
    { r with colls := [(63, { Coll.zero with lv := true })] }).modCtl fun c => { c with waits := [(.phround, .phcommit)] }

theorem meets_phase_barrier :
    (committing .round []).t.sync.commit = .round ∧ ((committing .round []).coll 63).state ≠ .aborted ∧ (committing .round []).roundOver = true ∧
    (committing .round []).detInFlight 0 = false ∧
    (∀ o ∈ (committing .applied [awaiting false, { awaiting true with resp := some (0, false) }]).t.fab.ramos, o.det = true → o.resp ≠ none) ∧
    (committing .applied []).t.sync.closing = 0 ∧ Say.waitsFor (committing .applied []) .phround .phcommit ∧
    (∃ o ∈ (committing .applied [awaiting true]).t.fab.ramos, o.det = true ∧ o.resp = none) := by unfold Say.waitsFor; decide

/-- A cancellation at its last step. -/
def canceling : State :=
  z.modSync fun y => { y with canceling := true, refilling := true, snap := some (
    { x := [(1, 9)], ret := [], restart := 4, off := false, q := [], p := [], pmark := [], st := [], rb := 0, depth := 80, seed := 1, rn := 2,
      srow := 0, drow := 0, mrow := 0, af := .bf16, bf := .bf16, spm := 0, sat := false } : Snap) }

theorem meets_phase_cancel :
    (phased 0 0 false).t.sync.esc = false ∧ (phased 0 0 false).bun.active = false ∧ z.t.sync.canceling = false ∧
    canceling.t.sync.canceling = true ∧ canceling.t.sync.refilling = true ∧ (∀ r ∈ canceling.t.winch.running, r.cmd.refill = false) ∧
    canceling.t.sync.snap.isSome = true := by decide

theorem meets_instruction_fence :
    z.iStoreQuiet = true ∧ z.granted .ifence = false ∧ z.bankWriting false = false ∧
    Say.waitsFor (stalled .ifence .ifence z) .ifence .ifence := by unfold Say.waitsFor; decide

/-- CSRs as they stood before the bundle, assigned codes, and a stack that has no port left. -/
theorem meets_bundle_captures :
    z.csrWas 0x015 = some 0 ∧ z.csrWas 0x002 = none ∧ z.bun.was = none ∧ ({ z with bun := { z.bun with was := some z.t } } : State).bun.was = some z.t ∧
    assigned 0x16 = true ∧ assigned 0x02 = true ∧ assigned 0x0D = false ∧ z.t.lane.freshAt = z.cycle ∧ z.t.mx.done = [] ∧
    (∀ g ∈ z.t.ctl.granted, g.1 ≠ Wait.sm) ∧ earlierSlots (.ramo, .nop false false) = [] ∧ z.t.lane.replay = false := by decide

theorem meets_dead_stack :
    (z.modCtrl fun c => { c with deadTiles := (upto 8).map (stackTile (farStack 0x1000)) }).servingPort 0x1000 = none ∧
    z.servingPort 0x1000 ≠ none := by decide

/-! ### The Halyard queue, the lane sequencer and the ramp limiter -/

/-- A token of no consequence. -/
def token (i : Instr) (vals : List Word) : Token := { instr := i, vals := vals, enq := 0, bad := false }

/-- A control slice with n queued tokens, its banks visible, its limiter off or on at level 0. -/
def tokened (n : Nat) (ramp : Bool) (x : Word) : State :=
  (xs [(1, x)]).modCtl fun c => { c with hq := List.replicate n (token (.rbset 0) []), fv0 := true, ramp := { c.ramp with en := ramp, lvl := 19 } }

theorem meets_halyard :
    (79 : BitVec 7).toNat < 80 ∧ (80 : BitVec 7).toNat ≤ 80 ∧ 1 ≤ (1 : BitVec 7).toNat ∧ (5 : BitVec 3).toNat < 6 ∧
    (handling 0).t.ctl.trap.hnd = true ∧ (tokened 63 false 0).t.ctl.trap.hnd = false ∧ (tokened 63 false 0).hazard [1, 2] = .none ∧
    (tokened 63 false 0).t.ctl.hq.length < 64 ∧ 64 ≤ (tokened 64 false 0).t.ctl.hq.length ∧
    ((tokened 0 false 0xFFFFFF).x 1).toNat < 2 ^ 24 ∧ 2 ^ 24 ≤ ((tokened 0 false 0x1000000).x 1).toNat ∧ z.t.ctl.fv0 = false ∧
    (tokened 0 true 1).t.ctl.ramp.en = true ∧ 1200 * (1 : BitVec 6).toNat / 63 ≤ (tokened 0 true 1).t.ctl.ramp.lvl ∧
    (tokened 0 true 1).t.ctl.ramp.lvl < 1200 * (2 : BitVec 6).toNat / 63 := by decide +kernel

/-- The lanes about to take a token. -/
def taking (i : Instr) (vals : List Word) : State :=
  { z with cycle := 2 }.modCtl fun c => { c with hq := [token i vals], fv0 := true }

theorem meets_token_take :
    (taking (.ldepth 5) []).t.ctl.hq = { instr := .ldepth 5, vals := [], enq := 0, bad := false } :: [] ∧ (taking (.ldepth 5) []).t.ctl.blk = none ∧
    (taking (.ldepth 5) []).t.lane.stop = false ∧ (taking (.ldepth 5) []).t.ctl.frozen = false ∧ 0 + 2 ≤ (taking (.ldepth 5) []).cycle ∧
    (taking (.ldepth 5) []).t.ctl.laneFree ≤ (taking (.ldepth 5) []).cycle ∧ ([1, 2] : List Word) = [1, 2] := by decide

/-- A write of v3 due at cycle 4, and a signal due then. -/
def landing (cycle : Nat) : State :=
  { z with cycle := cycle }.modLane fun l =>
    { l with pending := [{ due := 4, issued := 4, target := .vec 3 0xFF 0x12 0 0 }], sigs := [] }

theorem meets_landings :
    (landing 3).t.lane.pending = [{ due := 4, issued := 4, target := .vec 3 0xFF 0x12 0 0 }] ∧ (landing 3).cycle < 4 ∧ 4 ≤ (landing 4).cycle ∧
    livePhys (landing 4).t.ctl.rb (landing 4).t.ctl.depth 3 = true ∧ (landing 4).t.lane.sigs = [] ∧
    (z.modLane fun l => { l with sigs := [{ sem := 2, due := 4 }] }).t.lane.sigs = [{ sem := 2, due := 4 }] := by decide +kernel

theorem meets_ramp_window :
    ({ z with cycle := 1199 } : State).cycle < z.t.ctl.ramp.wstart + 1200 ∧ z.t.ctl.ramp.wstart + 1200 ≤ ({ z with cycle := 1200 } : State).cycle := by
  decide

/-! ### The Winch -/

/-- The head of a command. -/
def whead (sem th : Byte) (ord : Bool) : WHead := { wsem := sem, wth := th, ssem := 5, sinc := 1, q := 0, ord := ord }

/-- A command of queue 0. -/
def command (id : Nat) (op : Instr) (vals src dst : List Word) : WCmd :=
  { id := id, q := 0, op := op, vals := vals, src := src, dst := dst, inPhase := false, packet := none, refill := false }

/-- WSIG, waiting for semaphore 4. -/
def sig (ord : Bool) (id : Nat) : WCmd := command id (.wsig (whead 4 1 ord) { cw := none, cr := some 1 } none 0x42) [0, 0, 2 ^ 61 + 0x5FFF0] [] []

/-- A command under way. -/
def under (c : WCmd) (phase : WPhase) (hold : WHold) : WRun := { freshRun c with phase := phase, hold := hold }

/-- A Winch with commands queued and under way. -/
def winch (queued : List WCmd) (running : List WRun) : State := z.modWinch fun w => { w with queued := queued, running := running }

theorem meets_commands :
    (1 : BitVec 4) ≠ 0 ∧ (z.x 1).toNat % 2 ^ 32 = 0 ∧ 4096 ≤ ((xs [(1, 4096)]).x 1).toNat % 2 ^ 32 ∧
    1 ≤ ((xs [(1, 4095)]).x 1).toNat % 2 ^ 32 ∧ ((xs [(1, 4095)]).x 1).toNat % 2 ^ 32 ≤ 4095 ∧ z.hazard [1] = .none ∧
    z.hazard ((Say.options z { cw := some (1, 2), cr := some 3 }).1 ++ [4, 5, 6, 7]) = .none ∧
    Say.outstanding (winch (List.replicate 15 (sig false 0)) []).t.winch 0 < 16 ∧
    16 ≤ Say.outstanding (winch (List.replicate 16 (sig false 0)) []).t.winch 0 := by decide +kernel

/-- Configurations at their limits: a queue of 1024 packets that ends with its side, a ring of 4096 records that ends with C or beyond it. -/
theorem meets_winch_immediate :
    rqOk (2 ^ 63 + 10 * 2 ^ 57 + 0xB0000) (0xBFFF8 * 2 ^ 20 + 0xBFFF8) = true ∧ rqOk (2 ^ 63 + 11 * 2 ^ 57) 0 = false ∧
    rqOk (2 ^ 63 + 0xC0000) 0 = false ∧ z.crOk (2 ^ 61 + 0x50000) 12 = true ∧ z.crOk (2 ^ 61 + 0x50010) 12 = true ∧ z.crOk 0 13 = false ∧
    z.hazard [1, 2] = .none ∧ (∀ q, Say.outstanding z.t.winch q < 32) ∧ z.bun.late = none := by decide +kernel

theorem meets_command_start :
    (winch [] []).startable 0 = none ∧
    ((winch [sig false 1] []).modSync fun y => { y with sem := [(4, 1)] }).startable 0 = some (sig false 1) ∧
    (winch [sig false 1] []).t.winch.queued.find? (fun c => c.q == 0) = some (sig false 1) ∧
    ((winch [sig false 1] []).sem (sig false 1).info.wsem).toNat < (sig false 1).info.wth.toNat ∧ (sig true 1).info.ord = true ∧
    (∃ r ∈ (winch [sig true 1] [under (sig false 0) .ready .free]).t.winch.running, r.cmd.q = 0 ∧ r.cmd.refill = false ∧ r.cmd.id < 1) := by
  decide +kernel

theorem meets_command_complete :
    let r := under (sig false 3) .ready .free
    (winch [] [r]).t.winch.running.find? (fun r => r.cmd.id == 3) = some r ∧ r.phase = .ready ∧ r.fault = none ∧ r.canceled = false ∧
    r.wrote = [] ∧ r.cmd.info.ba = none ∧ r.cmd.info.pc = false ∧ r.cmd.packet = none ∧ r.cmd.info.sinc ≠ 0 ∧
    r.cmd.info.o.cr ≠ none ∧ 0x5FFF0 % 16 = 0 ∧ 0x5FFF0 + 16 ≤ 0x60000 ∧ r.cmd.crLoc = BitVec.ofNat 64 (2 ^ 61 + 0x5FFF0) := by decide +kernel

/-- An enabled request queue at port-side offset 0 whose first packet has an OPC. -/
def packet (opc : Byte) : State :=
  (z.modWinch fun w => { w with rq := [(0, { en := true, wq := 1, lg := 0, side := false, base := 0, wix := 0, rix := 0, rd := 0 })] }).modBuf fun b =>
    { b with mem := if opc = 0 then [(56, 1)] else [(0, opc), (56, 1)] }

theorem meets_request_packets : ∀ opc ∈ ([0, 1, 2, 3, 4, 5, 255] : List Byte),
    ((packet opc).packetAt 0).isSome = true ∧
    ((packet opc).packetAt 0).map (fun x => (bits 0 8 (x.2.1.getD 0 0)).toNat) = some opc.toNat := by decide

/-- A scrubber with one valid shard of no bytes, its interval over. -/
def scrubbing (cycle : Nat) (shards : List (Nat × Shard)) : State :=
  { z with cycle := cycle }.modWinch fun w => { w with scrubInt := 4096, scrubDue := 4096, scrubIdx := 63, shards := shards }

theorem meets_scrub :
    z.t.winch.scrubInt = 0 ∧ (scrubbing 4095 []).cycle < (scrubbing 4095 []).t.winch.scrubDue ∧
    (scrubbing 4096 []).t.winch.scrubDue ≤ (scrubbing 4096 []).cycle ∧ (scrubbing 4096 []).t.winch.scrubInt ≠ 0 ∧
    (scrubbing 4096 [(63, { state := .valid, off := 0, len := 0, digest := 0, code := 0 })]).t.winch.scrubIdx < 64 ∧
    ((scrubbing 4096 []).modWinch fun w => { w with checking := some 63 }).t.winch.checking = some 63 ∧ z.t.winch.checking = none ∧
    ((scrubbing 4096 []).shardDigest { state := .valid, off := 0, len := 0, digest := 0, code := 0 }).1 = 0 := by decide

/-- A remote Winch's request to the last bytes of the C buffer. -/
def remote (off : BitVec 20) (op : RemoteOp) : RemoteReq :=
  { src := 5543, cmd := 0, elem := 0, buf := 2, side := false, off := off, first := true, op := op }

theorem meets_remote_winch :
    (remote 0x5FFF0 (.read 16)).src < 5544 ∧ (remote 0x5FFF0 (.read 16)).buf = 2 ∧ (remote 0x5FFF0 (.read 16)).side = false ∧
    (remote 0x5FFF0 (.read 16)).off.toNat + 16 ≤ 0x60000 ∧ 0x60000 < (remote 0x5FFF1 (.read 16)).off.toNat + 16 ∧
    (remote 0x5FFF8 (.atomic .add true 1 0)).off.toNat % 8 = 0 ∧ (remote 0x5FFF8 (.atomic .add true 1 0)).off.toNat + 8 ≤ 0x60000 := by decide

/-- A copy from a remote tile, waiting; a completion word in far memory; a CRC over far memory. -/
def copying (phase : WPhase) (hold : WHold) : WRun :=
  under (command 3 (.wcopy (whead 0 0 false) 0 1 { cw := some (1, 2), cr := none } none false 0) [0x8000000000000100, 7, 0]
    [0x8000000006000000, 0x0001000100010040, 1, 0, 1, 0] [0, 0x0001000100010040, 1, 0, 1, 0]) phase hold

theorem meets_winch_answers :
    let s := winch [] [copying .moving .resp]
    s.t.winch.running.find? (fun r => r.cmd.id == 4) = none ∧ s.t.winch.running.find? (fun r => r.cmd.id == 3) = some (copying .moving .resp) ∧
    (s.accessOf (copying .moving .resp)).isSome = true ∧ (s.accessOf (copying .word .resp)).isSome = true ∧
    (copying .moving .resp).hold = .resp ∧ (0 : Nat) = 8 * (copying .moving .resp).idx + (copying .moving .resp).sub := by decide

theorem meets_far_accesses :
    let s := winch [] [copying .moving (.far 0x1000 0 65536)]
    s.t.winch.running.find? (fun r => r.cmd.id == 3) = some (copying .moving (.far 0x1000 0 65536)) ∧ (copying .moving (.far 0x1000 0 65536)).hold = .far 0x1000 0 65536 ∧
    ((s.accessOf (copying .moving (.far 0x1000 0 65536))).map fun p => p.1.act) = some .read ∧
    (s.accessOf (copying .word (.far 0x1000 0 65536))).isSome = true := by decide

/-! ### Translation -/

/-- Address space 1, its root at 0x10000, whose first 512 MiB lie at 0x20000000 and may be read. -/
def mapped : State :=
  z.modFar fun f => { f with asids := [(1, 0x8400000000010000)], mem := [(0x10000, 0x01), (0x10002, 0x02), (0x20000, 0x07), (0x20003, 0x20)] }

/-- The page of `mapped`. -/
def page : Leaf :=
  { vbase := 0, base := 0x20000000, size := 2 ^ 29, s := true, w := false, a := false, x := false, ent := 0x20000007, lvl := 1 }

theorem meets_page_walks :
    (mapped.walk 1 0x1FFFFFFF).1 = .leaf page ∧ bit 63 (SMap.get 0 z.far.asids 1) = false ∧ (z.walk 1 0).1 = .fault 0x57 0 0 := by decide

/-- A miss of command 3. -/
def miss : XMiss := { tile := 0, q := 0, cmd := 3, asid := 1, va := 0x12345, kind := 0 }

theorem meets_translation_misses :
    (z.modCtrl fun c => { c with deadTiles := (upto 4).flatMap linkTiles }).servingSide (miss.va.toNat / 2 ^ 39 % 4) = none ∧
    z.servingSide (miss.va.toNat / 2 ^ 39 % 4) = some 0 ∧
    ((mapped.modSide 0 fun x => { x with slice := [(1, page)] }).side 0).slice.find?
      (fun e => e.1 == miss.asid && leafCovers e.2 miss.va.toNat) = some (1, page) ∧
    (z.side 0).slice.find? (fun e => e.1 == miss.asid && leafCovers e.2 miss.va.toNat) = none ∧ (z.side 0).waiting < 8192 ∧
    (∀ w ∈ (z.side 0).walks, w.asid ≠ miss.asid ∨ w.region ≠ miss.va.toNat / 2 ^ 21) ∧
    (winch [] [copying .moving (.retry 256)]).t.winch.running.find? (fun r => r.cmd.id == miss.cmd) = some (copying .moving (.retry 256)) ∧
    ({ z with cycle := 255 } : State).cycle < 256 ∧ 256 ≤ ({ z with cycle := 256 } : State).cycle := by decide

/-- The walk that the miss joins; a side with 8192 misses, and a retry not yet due. -/
theorem meets_joined_walks :
    let s := z.modSide 0 fun x => { x with walks := [{ id := 0, asid := 1, region := 0, waiting := [miss], stale := false }] }
    let full := z.modSide 0 fun x => { x with walks := [{ id := 0, asid := 2, region := 0, waiting := List.replicate 8192 miss, stale := false }] }
    (∃ w ∈ (s.side 0).walks, w.asid = miss.asid ∧ w.region = miss.va.toNat / 2 ^ 21) ∧ 8192 ≤ (full.side 0).waiting ∧ (s.side 0).waiting < 8192 ∧
    (winch [] [copying .moving .miss]).t.winch.running = [copying .moving .miss] ∧ (copying .moving .miss).cmd.id = miss.cmd ∧
    (winch [] []).t.winch.running.find? (fun r => r.cmd.id == miss.cmd) = none := by decide +kernel

/-- The walk of the miss. -/
def walk (stale : Bool) : Walk := { id := 0, asid := 1, region := 0, waiting := [miss], stale := stale }

theorem meets_walks :
    ((mapped.modSide 0 fun x => { x with walks := [walk false] }).side 0).walks = [walk false] ∧ (walk true).stale = true ∧
    (walk false).waiting = [miss] ∧
    (((mapped.modSide 0 fun x => { x with walks := [walk false] }).modSide 0 fun x => { x with walks := [] }).walk 1 miss.va.toNat).1 = .leaf page := by
  decide

theorem meets_fills :
    (winch [] [copying .moving .miss]).t.winch.running.find? (fun r => r.cmd.id == miss.cmd) = some (copying .moving .miss) ∧
    (copying .moving .miss).hold = .miss ∧ (winch [] [copying .moving .miss]).probeFault miss page = none ∧
    (winch [] [under (command 3 (.wtlbp (whead 0 0 false) 1 1 noOpts 0) [0, 0, 0, 0x12345] [] []) .moving .miss]).probeFault
      { miss with kind := 1 } page = some { code := 0x51, aux := 0x20000007, word0 := faultWord0 1 1 0x12345 } ∧
    (XFill.mk miss (.leaf page)).result = .leaf page ∧
    (XFill.mk miss (.fault 0x51 1 7)).result = .fault 0x51 1 7 := by decide

/-- An invalidation of address space 1. -/
def inval : Inval := { kind := 1, asid := 1, base := 0, pages := 1, tag := 0, fn := 0, slot := none }

theorem meets_invalidation :
    (z.side 3).live = true ∧ ((z.modSide 3 fun x => { x with live := false }).side 3).live = false ∧ z.far.invals = [] ∧
    (z.modFar fun f => { f with invals := [inval] }).inFlight inval = false ∧
    (∃ s : State, s.inFlight { inval with kind := 2 } = true ∨ s.inFlight { inval with kind := 0 } = true ∨ s.inFlight { inval with asid := 0 } = true) := by
  refine ⟨by decide, by decide, by decide, by decide, (winch [] [copying .moving (.far 0x1000 0 65536)]), ?_⟩
  decide

end Sys2Proof.Tests
end

