-- ==== Sys2Proof/Tests/WitnessLanes.lean ====
section
/-!
SUPPORT. States and operands that meet the hypotheses of the statements: lanes, channel slots, the matrix, reductions and the fabric.
-/

open Sys2Proof Sys2Proof.Machine

namespace Sys2Proof.Tests

-- One theorem after another: a kernel evaluation that waits for the theorems before it would hold a thread of its own.
set_option Elab.async false


/-! ### Lanes -/

/-- Did it succeed? -/
def succeeds {α : Type} : Except Byte α → Bool
  | .ok _ => true
  | .error _ => false

/-- How it failed. -/
def failure {α : Type} : Except Byte α → Option Byte
  | .ok _ => none
  | .error c => some c

/-- A stream: its BUF and SIDE, OFF, ROWS, UNITS, PITCH, options and POS. -/
def stream (st : Nat) (f0 : BitVec 32) (rows units : BitVec 16) (pitch f3 f4 pos : BitVec 32) : List (Nat × BitVec 32) :=
  [(8 * st, f0), (8 * st + 1, rows ++ units), (8 * st + 2, pitch), (8 * st + 3, f3), (8 * st + 4, f4), (8 * st + 5, pos)]

/-- The lanes at issue, with streams. -/
def lanes (l : List (Nat × BitVec 32)) : State := (opened true z).modLane fun x => { x with st := l }

/-- Eight rows of eight units on the port side, in BF16. -/
def rows (pos : BitVec 32) : State := lanes (stream 9 0x4000 8 8 128 6 0 pos)

/-- A slot of 1024 bits without a guard. -/
def wide : VHead := { guard := none, w := .w1024 }

theorem meets_lane_sources :
    (63 : VCode).toNat < 96 ∧ (63 : VCode).toNat < 16 + z.t.ctl.depth ∧ (95 : VCode).toNat < 16 + z.t.ctl.depth ∧
    16 + (z.modCtl fun c => { c with depth := 79 }).t.ctl.depth ≤ (95 : VCode).toNat ∧ 96 ≤ (96 : VCode).toNat ∧ (111 : VCode).toNat < 112 ∧
    SMap.get false (z.modLane fun l => { l with pmark := [(15, true)] }).t.lane.pmark 15 = true ∧ SMap.get false z.t.lane.pmark 15 = false := by
  decide

/-- Pops at the last group, past it, misaligned, outside the buffer, of an illegal stream and at a held port. -/
theorem meets_stream_pops :
    succeeds ((rows 56).pop 9 8) = true ∧ failure ((rows 64).pop 9 8) = some 0x2B ∧ failure ((rows 4).pop 9 8) = some 0x2A ∧
    failure ((lanes (stream 9 0xBFFF0 1 2 16 6 0 0)).pop 9 2) = some 0x29 ∧ failure ((lanes []).pop 9 8) = some 0x28 ∧
    failure (((rows 0).modLane fun l => { l with held := [(0, 0)] }).pop 9 8) = some 0x2E ∧ (rows 56).bun.popped = [] ∧
    (rows 56).bun.claimed = [] ∧ (rows 56).bun.reached = [] ∧ succeeds ((rows 56).popSome 9 8 (fun b => b == 0)) = true ∧
    (rows 56).streamLegal 9 = true ∧ ((rows 56).stream 9).buf ≠ 1 ∧ ((rows 56).stream 9).order = false := by decide +kernel

/-- Sources and destinations: registers, parameters, and a push of the last group of a stream. -/
theorem meets_lane_operations :
    (∃ on vs u, (opened true z).guard wide.guard = .ok on ∧ (opened true z).srcs .w1024 (fun _ b => on b) [1, 100, 3] = .ok (vs, u) ∧ Say.room u 5 .w1024) ∧
    succeeds ((rows 56).claim (121 - 112) (unitsOf .w1024)) = true ∧
    failure ((opened true z).srcs .w1024 (fun _ _ => true) [1, 121]) = some 0x28 ∧ failure (((opened true z).modLane fun l => { l with pmark := [(9, true)] }).guard
      (some { g := 9, sn := false })) = some 0x2D :=
  ⟨⟨_, _, _, rfl, rfl, .inl ⟨by decide, by decide, _, rfl⟩⟩, by decide +kernel, by decide +kernel, by decide +kernel⟩

/-- Live and dead names. -/
theorem meets_live_names :
    Say.live (opened true z) [1, 100, 95] ∧ ¬Say.live (opened true (z.modCtl fun c => { c with depth := 79 })) [1, 95] := by
  unfold Say.live; decide

theorem meets_lane_instructions : ∀ i ∈ ([.vadd wide 5 1 2 .i8 false true, .vdot4 wide 5 1 2 3 false true, .vsrai wide 5 1 .i8 7, .vand wide 5 1 2,
    .vfma wide 5 1 2 3 .e4m3 .dyn true, .vrcp wide 5 1 .f32 .sr false, .vcvt wide 5 1 .i4 .f32 false .rne true, .vcvtmx wide 5 1 .rne,
    .vcvtscl wide 5 1 .f32 false .rne false, .vcvthb wide 5 121 .f32 .rne false, .vcvtfhb wide 121 1 .f32 3 .rne, .vperm wide 5 1 2 3 .i8,
    .vslide wide 5 1 2 .i8 128, .vcmpr wide 5 1 2 .i8, .vpoprq wide 5 0, .vred wide 5 1 .f32 .sum false .rne true, .vredx wide 5 1 2 true .rne false,
    .vcmpeq wide 2 1 2 .i64, .vfclass wide 2 1 .f16 0x1FF] : List Instr), wf i = true := by decide

/-- Predicates, a row of a result queue, and HB4 blocks with their scales. -/
theorem meets_lane_special_operands :
    succeeds ((opened true z).pred 3) = true ∧ failure (((opened true z).modLane fun l => { l with pmark := [(3, true)] }).pred 3) = some 0x2D ∧
    ((opened true z).modMx fun m => { m with rq := [(0, [{ data := 7, marks := 0 }])] }).t.mx.popHalf 0 ≠ none ∧ z.t.mx.queue 0 = [] ∧
    succeeds ((lanes (stream 9 0x4000 8 8 128 10 0x200000 0)).pop 9 4) = true ∧
    ((lanes (stream 9 0x4000 8 8 128 10 0x210000 0)).stream 9).fmt = 10 ∧
    succeeds ((lanes (stream 9 0x4000 8 8 128 10 0x210000 0)).readScales 9 0 4 (fun _ => true)) = true ∧ ((rows 0).stream 9).fmt ≠ 10 ∧
    succeeds ((lanes (stream 9 0x4000 8 8 128 10 0x210000 0)).claim 9 4) = true ∧
    succeeds ((lanes (stream 9 0x4000 8 8 128 10 0x210000 0)).popSome 9 4 (fun b => decide (b < 32))) = true := by decide +kernel

theorem meets_reduction_sum :
    Fmt.isI .i32 = true ∧ ([some 1, none, some 3, some 4] : List (Option Nat)).length = 2 ^ 2 ∧
    (∀ x ∈ ([some 1, none, some 3, some 4] : List (Option Nat)), ∀ n, x = some n → n < 2 ^ 32) ∧
    (∃ x ∈ ([some 1, none, some 3, some 4] : List (Option Nat)), x ≠ none) := by decide

/-- An LD, ST or FB slot of 1024 bits. -/
def lwide : LHead := { guard := none, w := .w1024, cls := 0 }

/-- Loads, gathers and stores: the groups they take, and the elements they name. -/
theorem meets_lane_accesses :
    (5 : VCode).toNat < 96 ∧ (5 : VCode).toNat < 16 + z.t.ctl.depth ∧ 112 ≤ (121 : VCode).toNat ∧
    succeeds ((rows 56).popAddrs (121 - 112) (unitsOf .w1024)) = true ∧ failure ((rows 64).popAddrs (121 - 112) (unitsOf .w1024)) = some 0x2B ∧
    ((8 : Nat) : Int) = (rows 0).posAt 9 + (1 : BitVec 12).toInt * unitsOf .w1024 ∧ succeeds ((rows 0).groupCheck 9 8 8) = true ∧
    failure ((rows 56).groupCheck 9 8 64) = some 0x2B ∧ succeeds ((rows 0).reach 9 ((rows 0).groupAddrs 9 8 8)) = true ∧
    succeeds ((rows 0).access ((rows 0).groupAddrs 9 8 8)) = true ∧ succeeds ((rows 63).pop 9 1) = true ∧ succeeds ((rows 0).vreg 5) = true ∧
    succeeds ((rows 0).indexed 9 4 32 false 0 fun _ => true) = true ∧ failure ((rows 0).indexed 9 4 32 false 0x2F000 fun _ => true) = some 0x2C ∧
    succeeds ((rows 0).indexed 9 4 32 false 0x2EFFF fun b => b == 0) = true ∧
    failure ((lanes (stream 9 0x80000000 8 8 128 6 0 0)).indexed 9 4 32 false 0 fun _ => true) = some 0x2C ∧
    failure ((lanes (stream 9 0x40000000 8 8 128 6 0 0)).indexed 9 4 32 false 0 fun _ => true) = some 0x28 ∧
    failure ((lanes (stream 9 0x100000 8 8 128 6 0 0)).indexed 9 4 32 false 0 fun _ => true) = some 0x28 ∧
    failure ((lanes (stream 9 0xC0000 8 8 128 6 0 0)).indexed 9 4 32 false 0 fun _ => false) = some 0x2C ∧
    (rows 0).storesBefore [5] = none ∧
    ((rows 0).modLane fun l => { l with pending := [{ due := 3, issued := 0, target := .mem [(5, 1, false)] false }] }).storesBefore [5] = some 3 ∧
    succeeds ((rows 0).indexed 9 8 16 true 0 fun _ => true) = true ∧ succeeds ((rows 0).src 22 .w1024 (fun _ => true)) = true ∧
    succeeds (((rows 0).modMx fun m => { m with rq := [(0, [{ data := 7, marks := 0 }])] }).claim 9 8) = true := by decide +kernel

/-- The sends and receives of a lane bundle on the channels 1 to 4: windowed and static. -/
def flits (c : Chan) (store : List Slot) : State :=
  (opened true (within [r0])).modFab fun f =>
    { f with route := [(1, 0x8040000000000000), (2, 0xC040000000000000), (3, 0xE040000000000000), (4, 0xA000000000000000)]
             chans := [(1, c), (2, c), (3, c), (4, c)], recvStore := store }

/-- A flit that waits on a channel. -/
def arrived (ch : Byte) : Slot :=
  { ch := ch, seq := 0, bad := false, flit := { typ := 1, dx := 0, dy := 0, gen := 0, seq := 0, dch := ch, psn := 0, wid := 2, sem := 0, payload := 9 } }

theorem meets_channel_slots :
    let s := flits { Chan.zero with rsv := 1, clm := 1 } [arrived 2, arrived 3]
    let t := flits Chan.zero []
    chSendWin (s.userEnt 1) = true ∧ (s.chan 1).brk = false ∧ chGw (s.userEnt 1) = false ∧ s.relTile (chX (s.userEnt 1)) (chY (s.userEnt 1)) = some 0 ∧
    (s.chan 1).rsv ≠ 0 ∧ (t.chan 1).rsv = 0 ∧ succeeds (s.src 20 .w1024 (fun _ => true)) = true ∧ Say.live s [20] ∧ chV (t.userEnt 0) = false ∧ chRecv (t.userEnt 2) = true ∧
    chStatic (t.userEnt 4) = true ∧ chV (t.userEnt 4) = true ∧ chRecv (t.userEnt 4) = false ∧ ((flits { Chan.zero with brk := true } []).chan 4).brk = true ∧
    chRecvWin (t.userEnt 2) = true ∧ (t.chan 2).clm = 0 ∧ s.t.fab.recvStore.find? (fun x => x.ch == 2 && x.seq == (s.chan 2).con) = some (arrived 2) ∧
    (s.chan 2).clm ≠ 0 ∧ (arrived 2).bad = false ∧ chRecvStat (s.userEnt 3) = true ∧ (s.chan 3).ovr = false ∧ s.stored 3 = arrived 3 :: [] ∧
    t.stored 3 = [] ∧ ((flits { Chan.zero with ovr := true } []).chan 3).ovr = true ∧ chRecvStat (s.userEnt 2) = false := by
  unfold Say.live; decide +kernel

/-! ### The matrix array -/

/-- The array at issue, its rows and its sparsity. -/
def array (l : List MxRow) (spm : BitVec 2) : State := (rows 0).modMx fun m => { m with rows := l, spm := spm }

/-- A row in flight. -/
def row (age : Nat) (sinceFlip : Bool) : MxRow :=
  { age := age, frame := 3, row := 63, fresh := true, poison := false, sinceFlip := sinceFlip, totals := 5, flags := 0 }

theorem meets_matrix_rows :
    (∃ on u, ((opened true z).modLane fun l => { l with p := [(9, 1)] }).guard (some { g := 9, sn := true }) = .ok on ∧ on 0 = false ∧
      (((opened true z).modLane fun l => { l with p := [(9, 1)] }).naming [9] []).slotEnd = .ok u) ∧
    (∃ c, ((opened true z).naming [9] [9]).slotEnd = .error c) ∧
    (∃ c, ((opened true z).modLane fun l => { l with pmark := [(9, true)] }).guard (some { g := 9, sn := true }) = .error c) ∧
    (∃ on, (array [] 0).guard none = .ok on ∧ on 0 = true) ∧ (array [] 1).t.mx.spm ≠ 0 ∧ (array [] 0).t.mx.spm = 0 ∧
    succeeds ((array [] 0).pushOperand 121) = true ∧ succeeds ((array [] 1).pushOperand 5) = true ∧ succeeds ((array [] 1).metadata 63) = true ∧
    (∀ y ∈ (array [row 62 true] 0).t.mx.rows, y.age < 63) ∧ (array [row 63 true, row 62 true] 0).t.mx.rows = row 63 true :: [row 62 true] ∧
    (row 63 true).age = 63 ∧ (∀ y ∈ [row 62 true], y.age < 63) ∧ (array [] 0).bun.active = true ∧
    ((array [] 0).modMx fun m => { m with done := [row 64 true] }).t.mx.done = [row 64 true] :=
  ⟨⟨_, _, rfl, rfl, rfl⟩, ⟨_, rfl⟩, ⟨_, rfl⟩, ⟨_, rfl, rfl⟩, by decide, by decide, by decide +kernel, by decide +kernel, by decide +kernel, by decide, rfl, rfl, by decide, rfl, rfl⟩

theorem meets_matrix_int8 :
    let m : Mx := { Mx.reset with af := .i8, bf := .i8 }
    m.af = .i8 ∧ m.bf = .i8 ∧ m.spm = 0 ∧ m.broken = [] := by decide

/-- A stream of B records: at its position a record with no cells, or none. -/
def plane (magic : Byte) (l : List MxRow) : State :=
  (((lanes (stream 9 0x40000000 64 2 32 6 0 126)).modMx fun m => { m with rows := l }).modBuf fun b => { b with mem := if magic = 0 then [] else [(0x2007E8, magic)] })

theorem meets_matrix_planes :
    (∀ x ∈ (array [row 0 true] 0).t.mx.rows, x.sinceFlip = true) ∧ (∃ x ∈ (array [row 0 false] 0).t.mx.rows, x.sinceFlip = false) ∧
    (plane 0xB7 []).bStream 9 = true ∧ (array [] 0).bStream 9 = false ∧ ((plane 0xB7 []).stream 9).pos % 2 = 0 ∧
    ((plane 0xB7 []).stream 9).pos + 2 ≤ ((plane 0xB7 []).stream 9).rows * ((plane 0xB7 []).stream 9).units ∧
    ((plane 0xB7 []).stream 9).off + 16 * (((plane 0xB7 []).stream 9).pos + 2) ≤ 0x100000 ∧
    (recordHead (valueOf ((plane 0xB7 []).latch.readAt ((upto 16).map fun i => (plane 0xB7 []).latch.latchedAddr (16 * 126 + i))).1) false 0).2.2 = true ∧
    (recordHead (valueOf ((plane 0 []).latch.readAt ((upto 16).map fun i => (plane 0 []).latch.latchedAddr (16 * 126 + i))).1) false 0).2.2 = false ∧
    64 ≤ (64 : BitVec 7).toNat ∧ (63 : BitVec 7).toNat < 64 ∧ succeeds ((plane 0xB7 []).naming [9] []).slotEnd = true := by decide +kernel

/-- What decoding checks of a slot: the first check that fails, or none. -/
theorem meets_whole_slots :
    let l := Say.wholes Mx.reset none lwide 121 121 5 0 0 3 0 0 0 true false false false false false .bf16 .i8 0
    (∃ k ∈ l, k.checks.find? (fun x => !x.1) = some (false, 0x21)) ∧ (∃ k ∈ l, ∀ x ∈ k.checks, x.1 = true) := by decide +kernel

theorem meets_matrix_control :
    (array [] 0).rowsAfter 0 < 8 ∧ 8 ≤ ((array [] 0).modMx fun m => { m with rq := [(0, List.replicate 8 { data := 7, marks := 0 })] }).rowsAfter 0 ∧
    succeeds ((array [] 0).access (run (0x300000 + 256 * 255) 256)) = true ∧ succeeds ((array [] 0).access [0x300000 + 256 * 255]) = true ∧
    mxPair .bf16 .i8 = false ∧ mxPair .i8 .i8 = true ∧ (array [row 0 true] 0).t.mx.rows ≠ [] ∧ (array [] 0).t.mx.rows = [] := by decide +kernel

/-! ### Exact reductions and barriers -/

/-- An FP32 sum with a child to the north: at its root, or with the root to the south, or a ring root of two modules. -/
def entry (par : Nat) (ring : Bool) : Word :=
  BitVec.ofNat 64 (2 ^ 63 + par * 2 ^ 60 + 2 ^ 59 + 2 ^ 58 + 2 * 2 ^ 34 + 5 * 2 ^ 30 + 5 * 2 ^ 23 + (if ring then 2 ^ 18 + 7 * 2 ^ 10 else 0))

/-- A round at the switch of a tile. -/
def coll (e : Word) (c : Coll) (x : List (Nat × Word)) : State :=
  ((xs x).modRed fun r => { r with table := [(5, e)], colls := [(5, c)] }).modFab fun f => { f with route := [(7, 0x88400000000C0000)] }

/-- A round of two elements that the tile has opened, with one slot for its lanes. -/
def opens : Coll := { Coll.zero with state := .opened, rnd := 7, len := 64, nslot := 1, active := true, act := 7 }

/-- COLLOPEN's words: round 7, LEN 1, one slot or none. -/
def cob (slots : Nat) : Word := BitVec.ofNat 64 (7 * 2 ^ 48 + 2 ^ 32 + slots * 2 ^ 20)

theorem meets_rounds_open :
    let s := coll (entry 0 false) Coll.zero [(2, cob 256)]
    s.hazard [1, 2, 3] = .none ∧ s.granted .collopen = false ∧ reV (s.redEnt 4) = false ∧ reV (s.redEnt 5) = true ∧ reL (s.redEnt 5) = true ∧
    s.openFault 5 (s.x 1) (s.x 2) (s.x 3) = none ∧ s.openFault 5 0 (cob 257) 0 = some 0xA1 ∧ (bits 20 9 (cob 257)).toNat = 257 ∧
    (s.coll 5).lv = false ∧ (s.coll 5).active = false ∧ s.t.red.store + (bits 20 9 (s.x 2)).toNat ≤ 256 ∧ reKids (s.redEnt 5) ≠ [] ∧ (s.coll 5).heads = [] ∧
    256 < (s.modRed fun r => { r with store := 1 }).t.red.store + (bits 20 9 (s.x 2)).toNat ∧
    ((coll (entry 0 false) opens []).coll 5).state = .opened ∧ bit 30 (s.x 2) = false ∧
    (let c := (coll (entry 0 false) { Coll.zero with lv := true, last := 7, lastCode := 0xA8 } [(2, cob 1)]).coll 5
     c.lv = true ∧ bits 48 16 (cob 1) = c.last ∧ c.lastCode ≠ 0) ∧ bit 30 (2 ^ 30 : Word) = true ∧ s.localPlace 8 8 = some 8 := by decide +kernel

theorem meets_contributions :
    let s := coll (entry 0 false) opens [(1, 0x1000), (2, 32)]
    (∃ on, s.guard none = .ok on ∧ on 0 = true) ∧ Width.w1024.bits / redBits (redFmt (reIn (s.redEnt 5))) = 32 ∧ Say.incomplete s 5 ∧
    Say.mayContribute s 5 32 true ∧ Say.member s 5 ∧ ((coll (entry 0 false) { opens with state := .aborted } []).coll 5).state = .aborted ∧
    ¬Say.mayContribute (coll (entry 0 false) { opens with cur := 33 } []) 5 32 true ∧ (∃ u, s.src 4 .w1024 (fun b => decide (b < 128)) = .ok u) ∧
    Say.mayContribute (coll (entry 0 false) { opens with src := true, nslot := 0 } []) 5 32 false ∧ (s.collbRange 5 (s.x 1) 32).isSome = true ∧
    s.collbRange 5 0xBFFF8 32 = none ∧ redFmt (reIn (s.redEnt 5)) = .f32 := by
  refine ⟨⟨_, rfl, rfl⟩, by decide +kernel, .inl ⟨0, by decide +kernel⟩, ?_, ?_, by decide +kernel, ?_, ⟨_, rfl⟩, ?_, by decide +kernel, by decide +kernel,
    by decide +kernel⟩ <;> (simp only [Say.mayContribute, Say.member]; decide +kernel)

theorem meets_round_status :
    let s := coll (entry 0 false) opens []
    reV (s.redEnt 4) = false ∧ (s.modSync fun y => { y with det := true }).barrierId 63 = true ∧ s.barrierId 5 = false ∧ (s.coll 4).state ≠ .opened ∧
    (s.coll 5).state = .opened ∧ (s.coll 5).active = true ∧ rePar (s.redEnt 5) = 0 ∧ reRing (s.redEnt 5) = false ∧ (s.coll 5).successor = none ∧
    (s.coll 5).cur < 2 ^ 16 ∧ (s.coll 5).nslot < 512 := by decide +kernel

theorem meets_reduction_order :
    (0 : Nat) < 4 ∧ [(La.zero, true), (laOf (ofFloat .f32 0x3F800000), false)].Perm [(laOf (ofFloat .f32 0x3F800000), false), (La.zero, true)] :=
  ⟨by decide, List.Perm.swap _ _ _⟩

/-- A flit of round 7 on an edge of the tree of id 5. -/
def tree (code : Byte) : CollFlit := { typ := 4, idx := 5, gen := 0, rnd := 7, seq := 0, psn := 0, code := code, flags := 0, payload := 0 }

/-- A detour half. -/
def half (h : Bool) : DetourFlit := { half := h, dx := 0, dy := 0, gen := 0, flags := 0, payload := 0 }

theorem meets_upward_flits :
    let up := coll (entry 3 false) { opens with state := .idle, rnd := 0 } []
    let e := up.redEnt 5
    reV e = true ∧ 0 ∈ reKids e ∧ 1 ∉ reKids e ∧ (up.coll 5).active = true ∧ (tree 0).rnd = (up.coll 5).act ∧
    (tree 0).seq = BitVec.ofNat 15 (SMap.get 0 (up.coll 5).exp 0) ∧ ((up.coll 5).state ≠ .opened ∨ (up.coll 5).rnd ≠ (up.coll 5).act) ∧
    (∀ h ∈ (up.coll 5).heads, h.1 ≠ 0) ∧
    ((coll (entry 3 false) { opens with heads := [(0, 1, 64)], state := .idle } []).coll 5).heads.find? (fun h => h.1 == 0) = some (0, 1, 64) := by
  decide +kernel

theorem meets_upward_flits_incomplete : Say.incomplete (coll (entry 3 false) { opens with state := .idle, rnd := 0 } []) 5 :=
  .inl ⟨0, by decide +kernel⟩

theorem meets_result_flits :
    let down := coll (entry 3 false) { opens with len := 64 } []
    let last := coll (entry 3 false) { opens with len := 64, de := true, resDone := 63, dst := 0x1000 } []
    let idle := coll (entry 3 false) { Coll.zero with lv := true, last := 6 } []
    rePar (down.redEnt 5) ≠ 0 ∧ (down.coll 5).state = .opened ∧ (down.coll 5).rnd = (tree 0).rnd ∧ (down.coll 5).de = false ∧
    (down.coll 5).resDone + 32 < (down.coll 5).len ∧ (last.coll 5).de = true ∧ (last.coll 5).cwe = false ∧ (last.coll 5).successor = none ∧
    (last.coll 5).resDone + 1 = (last.coll 5).len ∧ 0 < redBits (redFmt (reOut (last.redEnt 5))) ∧
    (idle.coll 5).active = false ∧ ¬((idle.coll 5).lv = true ∧ (tree 0).rnd = (idle.coll 5).last) ∧ (tree 0).seq = 0 ∧
    (idle.coll 5).state ≠ .opened := by decide +kernel

/-- Flits out of turn, copies and flits of the round before; a window with room, and one that is full. -/
theorem meets_tree_numbers :
    let s := coll (entry 3 false) { opens with exp := [(0, 2)], lv := true, last := 6 } []
    let w : State := s.modRed fun r => { r with outs := [(treeKey 4 5 0, { q := List.replicate 32 (tree 0, true), moved := 0 })] }
    1 ≤ (({ tree 0 with seq := 3 } : CollFlit).seq - BitVec.ofNat 15 (SMap.get 0 (s.coll 5).exp 0)).toNat ∧
    2 ^ 14 ≤ (({ tree 0 with seq := 1 } : CollFlit).seq - BitVec.ofNat 15 (SMap.get 0 (s.coll 5).exp 0)).toNat ∧
    ({ tree 0 with rnd := 6 } : CollFlit).rnd ≠ (s.coll 5).act ∧ ({ tree 0 with rnd := 6 } : CollFlit).rnd = (s.coll 5).last ∧
    (s.treeOut (treeKey 4 5 0)).flying.length < 32 ∧ 32 ≤ (w.treeOut (treeKey 4 5 0)).flying.length ∧
    (∀ x ∈ (w.treeOut (treeKey 4 5 0)).q, numbered x.1 = true → x.2 = true ∧ x.1.rnd = (tree 0).rnd) := by decide +kernel

theorem meets_detour_flits :
    (half false).half = false ∧ (half true).half = true ∧
    SMap.find? (z.modRed fun r => { r with halves := [(0, half false)] }).t.red.halves 0 = some (half false) := by decide +kernel

/-- A partial and an abort of module 3 that come round the ring. -/
def ringFlit (ty code : Nat) : Flit :=
  { typ := 1, dx := 0, dy := 0, gen := 0, seq := 0, dch := 7, psn := 0, wid := 2, sem := 0,
    payload := BitVec.ofNat 1024 (7 * 2 ^ 512 + 3 * 2 ^ 528 + ty * 2 ^ 540 + code * 2 ^ 597) }

theorem meets_round_aborts :
    let s := coll (entry 1 false) { opens with timer := some 5, grace := some 5, abcode := 0xA7 } []
    let r := coll (entry 0 true) opens []
    reV (s.redEnt 5) = true ∧ (s.coll 5).active = true ∧ (tree 0xA8).rnd = (s.coll 5).act ∧ rePar (s.redEnt 5) = 0 + 1 ∧ (s.coll 5).successor = none ∧
    (tree 0xA8).code ≠ 0 ∧ (s.coll 5).timer ≠ none ∧ 5 ≤ ({ s with cycle := 5 } : State).cycle ∧ ({ s with cycle := 4 } : State).cycle < 5 ∧
    rePar (s.redEnt 5) ≠ 0 ∧ (s.coll 5).abp = false ∧ (s.coll 5).grace ≠ none ∧ (s.coll 5).abcode ≠ 0 ∧ (r.coll 5).timer = none ∧
    reRing (r.redEnt 5) = true ∧ bits 512 16 (ringFlit 0 0).payload = (r.coll 5).act ∧
    chMod (r.chEnt (reRch (r.redEnt 5))) = bits 528 12 (ringFlit 0 0).payload ∧ bits 540 4 (ringFlit 0 0).payload = 0 ∧
    bits 540 4 (ringFlit 1 0xA8).payload = 1 ∧ bits 597 8 (ringFlit 1 0xA8).payload ≠ 0 := by decide +kernel

theorem meets_barrier_flits :
    let b := barrier 0xC8000100 1 5 0
    let f : CollFlit := { tree 0 with idx := 2, rnd := 5 }
    (b.bar f.idx).ent.getLsbD 31 = true ∧ 0 ∈ (upto 4).filter (fun p => bit (27 - p) (b.bar f.idx).ent) ∧
    (barrier 0xC8000200 1 5 0).bar 2 ≠ b.bar 2 ∧ ((barrier 0xC8000200 1 5 5).bar 2).pend < 0x10000 * 2 ∧
    (bits 28 3 (b.bar f.idx).ent).toNat ≠ 0 ∧ f.rnd = (b.bar f.idx).done ∧ (bits 28 3 ((barrier 0x88000100 0 0 0).bar 2).ent).toNat = 0 ∧
    (f.rnd + 1 - SMap.get 0 (b.bar f.idx).kids 0).toNat = 6 ∧ 1 ≤ (f.rnd + 1 - (b.bar f.idx).done).toNat ∧
    (f.rnd + 1 - (b.bar f.idx).done).toNat ≤ 32767 ∧ 32767 < (({ f with rnd := 3 } : CollFlit).rnd + 1 - (b.bar f.idx).done).toNat := by
  decide +kernel

/-! ### The fabric -/

/-- A packet of a flit on its way from tile 0, or at tile 1, its destination. -/
def flying (at_ : Nat) (gen : Byte) (due : Nat) : Packet :=
  { id := 9, at_ := at_, dest := 1, gen := gen, due := due, src := 0, fails := 0, via := none, body := .flit (arrived 2).flit }

/-- A network of one packet. -/
def net (p : Packet) : State := { within [r0] with net := [p] }

theorem meets_packet_hops :
    (net (flying 0 0 1)).net.find? (fun p => p.id == 9) = some (flying 0 0 1) ∧ (net (flying 0 0 1)).cycle < 1 ∧ (flying 0 0 0).due ≤ z.cycle ∧
    (flying 0 0 0).via = none ∧ (flying 0 1 0).gen ≠ z.genOf 1 ∧ (flying 0 0 0).gen = z.genOf 1 ∧ (arrived 2).flit.typ ≠ 0 ∧
    (let e := routeEntry (z.tile 0).fab.cols (z.tile 0).fab.rows 0 1
     e.getLsbD 3 = true ∧ 1 ≤ (bits 0 3 e).toNat ∧ (bits 0 3 e).toNat ≤ 4 ∧ (z.tile 0).fab.linkDown.getLsbD ((bits 0 3 e).toNat - 1) = false) ∧
    (flying 0 0 0).fails = 0 ∧ 4 ≤ ({ flying 0 0 0 with fails := 3 } : Packet).fails + 1 ∧
    9 ∈ SMap.get [] ((net (flying 0 0 0)).setTile 0 { Tile.reset with fab := { Fab.reset with retry := [(1, [9])] } }).t.fab.retry 1 ∧
    ({ flying 0 0 0 with fails := 1 } : Packet).fails ≠ 0 ∧ 9 ∉ SMap.get [] (net (flying 0 0 0)).t.fab.retry 1 ∧
    (z.modCtrl fun c => { c with splices := [{ tile := 1, spare := none, trigger := 1, home := 0, stage := 2, due := 0, cmd := none }] }).moving 1 = true ∧
    z.moving 1 = false ∧ (flying 0 0 0).fails + 1 < 4 ∧ (flying 1 0 0).at_ = (flying 1 0 0).dest ∧ ({ net (flying 1 0 0) with here := 1 } : State).region.isSome = true ∧
    (5543 : Nat) < 5544 := by decide +kernel

/-- A link that turns over the lowest bit of the CRC. -/
theorem meets_link_noise (f : Flit) :
    linkCrc (flitWord f ^^^ (0 : Word)) (f.payload ^^^ (0 : BitVec 1024)) ≠ linkCrc (flitWord f) f.payload ^^^ (1 : BitVec 16) := by
  intro h
  simpa using congrArg (fun x => x.getLsbD 0) h

theorem meets_channel_arrivals :
    let s := flits Chan.zero []
    s.ringOf? 2 = none ∧ chRecvWin (s.chEnt 2) = true ∧ (arrived 2).flit.seq = (s.chan 2).exp ∧ chRecvWin (s.chEnt 1) = false ∧
    (arrived 2).flit.seq ≠ ((flits { Chan.zero with exp := 1 } []).chan 2).exp ∧ chRecvStat (s.chEnt 3) = true ∧
    ((flits Chan.zero (List.replicate 3 (arrived 3))).stored 3).length < chWin (s.chEnt 3) ∧
    chWin (s.chEnt 3) ≤ ((flits Chan.zero (List.replicate 4 (arrived 3))).stored 3).length ∧ chRecvStat (s.chEnt 2) = false := by decide +kernel

theorem meets_channel_acknowledgements :
    let s := (flits { Chan.zero with nxt := 4 } []).modFab fun f => { f with sendStore := [arrived 1] }
    chRecvWin (s.chEnt 2) = true ∧ chGw (s.chEnt 2) = false ∧ s.relTile (chX (s.chEnt 2)) (chY (s.chEnt 2)) = some 0 ∧ chRecvWin (s.chEnt 1) = false ∧
    chSendWin (s.chEnt 1) = true ∧ ((3 : BitVec 16) + 1 - (s.chan 1).ack).toNat ≠ 0 ∧ ((3 : BitVec 16) + 1 - (s.chan 1).ack).toNat ≤ (s.chan 1).inf ∧
    (s.chan 1).inf < ((4 : BitVec 16) + 1 - (s.chan 1).ack).toNat ∧ ((0xFFFF : BitVec 16) + 1 - (s.chan 1).ack).toNat = 0 ∧
    (∀ x ∈ s.t.red.table, reRing x.2 = false) ∧ (s.chan 1).inf ≠ 0 ∧ s.cycle < (s.chan 1).moved + 16384 ∧
    (s.chan 1).moved + 16384 ≤ ({ s with cycle := 16384 } : State).cycle ∧ s.t.fab.sendStore.filter (fun x => x.ch == 1) = [arrived 1] := by
  decide +kernel

/-- A stale flit. -/
def stale (ch : Option Byte) : Nak := { dest := 1, ch := ch, via := none, body := .flit (arrived 2).flit }

theorem meets_stale_generations :
    (stale (some 1)).ch = some 1 ∧ z.ctrl.deadTiles.contains (z.home (stale (some 1)).dest) = false ∧
    (z.modCtrl fun c => { c with deadTiles := [z.home 1] }).ctrl.deadTiles.contains (z.home (stale (some 1)).dest) = true ∧
    stale none ∉ z.t.fab.naked ∧ stale none ∈ (z.modFab fun f => { f with naked := [stale none] }).t.fab.naked ∧ (stale none).ch = none ∧ (stale none).via = none ∧
    ({ stale (some 1) with via := some (3, 7) } : Nak).via ≠ none ∧ z.moving (stale none).dest = false ∧
    ((flits { Chan.zero with nxt := 4 } []).modFab fun f => { f with sendStore := [arrived 1] }).t.fab.sendStore.filter (fun x => x.ch == 1) = [arrived 1] ∧
    (z.modSync fun y => { y with semIn := [7] }).t.sync.semIn = [7] ∧
    z.routesOk [{ tile := 0, cols := [], rows := [] }] = false := by decide +kernel

/-- Some homes are retired. -/
def retired (l : List Nat) : State := z.modCtrl fun c => { c with deadTiles := l.map z.home }

/-- No tile of the list is live. -/
theorem retired_not_live (l : List Nat) : (l.filter fun t => (retired l).tileLive ((retired l).home t)) = [] := by
  refine List.filter_eq_nil_iff.2 fun t ht => ?_
  show ¬(!(l.map z.home).contains (z.home t)) = true
  rw [List.contains_iff_mem.2 (List.mem_map.2 ⟨t, ht, rfl⟩)]
  decide

/-- With no live tile, no route is asked of the tables. -/
theorem routes_ok_of_no_live (s : State) (h : ((upto tileCount).filter fun t => s.tileLive (s.home t)) = []) : s.routesOk [] = true := by
  unfold State.routesOk
  simp only [h]
  rfl

theorem meets_route_table_load : ∃ s : State, s.routesOk [] = true := ⟨_, routes_ok_of_no_live _ (retired_not_live _)⟩

end Sys2Proof.Tests
end

