-- ==== Sys2Proof/Tests/WitnessModule.lean ====
section
/-!
SUPPORT. States and operands that meet the hypotheses of the statements: optical ports, the host, launches, boot and repair.
-/

open Sys2Proof Sys2Proof.Machine

namespace Sys2Proof.Tests

-- One theorem after another: a kernel evaluation that waits for the theorems before it would hold a thread of its own.
set_option Elab.async false


/-! ### Optical ports -/

/-- Port 3, paired with port 5 of module 9, and the module at a cycle. -/
def optical (p : Port) (cycle : Nat) : State := { z with ports := [(3, p)], cycle := cycle }

/-- The port as it trained at cycle 0. -/
def fresh : Port := Port.fresh (0, 3) (9, 5) 0

/-- A flit in the replay buffer, last sent in cycle 0. -/
def kept : OptFlit × Nat := (mkOpt 1 0 65535 7, 0)

/-- The header of a flit made by `mkOpt` reads back above its CRC as it was made. -/
theorem mkOpt_hdr_high (t s a : Nat) (p : BitVec 512) :
    (mkOpt t s a p).hdr.toNat / 2 ^ 24 = (BitVec.ofNat 64 (2 ^ 60 * t + 2 ^ 44 * s + 2 ^ 28 * a)).toNat / 2 ^ 24 := by
  rw [← Nat.shiftRight_eq_div_pow, ← Nat.shiftRight_eq_div_pow, ← BitVec.toNat_ushiftRight, ← BitVec.toNat_ushiftRight]
  congr 1
  ext i hi
  simp only [mkOpt, BitVec.getElem_ushiftRight, BitVec.getLsbD_or, BitVec.getLsbD_setWidth]
  rw [BitVec.getLsbD_of_ge (crc24 _ _) (24 + i) (by omega)]
  simp

/-- A field above the CRC reads back as it was put. -/
theorem mkOpt_field (t s a k w : Nat) (p : BitVec 512) :
    bits (24 + k) w (mkOpt t s a p).hdr = bits (24 + k) w (BitVec.ofNat 64 (2 ^ 60 * t + 2 ^ 44 * s + 2 ^ 28 * a)) := by
  apply BitVec.eq_of_toNat_eq
  simp only [bits, BitVec.extractLsb'_toNat, Nat.shiftRight_eq_div_pow, Nat.pow_add, ← Nat.div_div_eq_div_mul, mkOpt_hdr_high]

/-- The CRC of a flit made by `mkOpt`. -/
theorem mkOpt_hdr_low (t s a : Nat) (p : BitVec 512) :
    bits 0 24 (mkOpt t s a p).hdr = crc24 (BitVec.ofNat 64 (2 ^ 60 * t + 2 ^ 44 * s + 2 ^ 28 * a)) p := by
  ext i hi
  have h : (BitVec.ofNat 64 (2 ^ 60 * t + 2 ^ 44 * s + 2 ^ 28 * a)).getLsbD i = false := by
    rw [show 2 ^ 60 * t + 2 ^ 44 * s + 2 ^ 28 * a = (2 ^ 32 * t + 2 ^ 16 * s + a) * 2 ^ 28 by ring]
    simp only [BitVec.getLsbD_ofNat]
    rw [Nat.testBit_mul_two_pow]
    simp
    omega
  simp only [mkOpt, bits, BitVec.getElem_extractLsb', BitVec.getLsbD_or, Nat.zero_add, h, Bool.false_or, BitVec.getLsbD_setWidth]
  simp only [show i < 64 by omega, decide_true, Bool.true_and]
  exact BitVec.getLsbD_eq_getElem hi

/-- A flit made by `mkOpt` with a TYPE that exists is good. -/
theorem mkOpt_good (t : Nat) (s a : Nat) (p : BitVec 512)
    (ht : (bits (24 + 36) 4 (BitVec.ofNat 64 (2 ^ 60 * t + 2 ^ 44 * s + 2 ^ 28 * a))).toNat = t ∧ t ≤ 6 ∧
      bits (24 + 0) 4 (BitVec.ofNat 64 (2 ^ 60 * t + 2 ^ 44 * s + 2 ^ 28 * a)) = 0) :
    optGood (mkOpt t s a p) = true ∧ optTyp (mkOpt t s a p) = t := by
  obtain ⟨h1, h2, h3⟩ := ht
  rw [← mkOpt_field (p := p)] at h1 h3
  have h1' : optTyp (mkOpt t s a p) = t := h1
  have h : crc24 (mkOpt t s a p).hdr (mkOpt t s a p).payload = bits 0 24 (mkOpt t s a p).hdr := by
    rw [mkOpt_hdr_low]
    unfold crc24
    rw [mkOpt_hdr_high]
    rfl
  refine ⟨?_, h1'⟩
  simp only [Nat.add_zero] at h3
  simp [optGood, h, h1', h2, h3]

/-- A good flit reaches port 3 of a module. -/
theorem arrives_mkOpt (p : Port) (c t sq a : Nat) (x : BitVec 512) (hu : p.up = true) (hr : p.records = [])
    (ht : (bits (24 + 36) 4 (BitVec.ofNat 64 (2 ^ 60 * t + 2 ^ 44 * sq + 2 ^ 28 * a))).toNat = t ∧ t ≤ 6 ∧
      bits (24 + 0) 4 (BitVec.ofNat 64 (2 ^ 60 * t + 2 ^ 44 * sq + 2 ^ 28 * a)) = 0) :
    Say.arrives (optical p c) 3 p (mkOpt t sq a x) t :=
  ⟨rfl, hu, hr, (mkOpt_good t sq a x ht).1, (mkOpt_good t sq a x ht).2⟩

/-- The number of a flit made by `mkOpt`. -/
theorem optSeq_mkOpt (t sq a : Nat) (x : BitVec 512)
    (h : (bits (24 + 20) 16 (BitVec.ofNat 64 (2 ^ 60 * t + 2 ^ 44 * sq + 2 ^ 28 * a))).toNat = sq) : optSeq (mkOpt t sq a x) = sq := by
  rw [← mkOpt_field (p := x)] at h
  exact h

theorem meets_optical_arrivals :
    Say.arrives (optical fresh 0) 3 fresh (mkOpt 1 0 0 0) 1 ∧ Say.arrives (optical fresh 0) 3 fresh (mkOpt 0 0 0 0) 0 ∧
    optByte (mkOpt 1 0 0 0) 0 = 0 ∧ optByte (mkOpt 1 0 0 1) 0 = 1 ∧ optByte (mkOpt 1 2 0 1) 16 = 0 ∧
    (optSeq (mkOpt 1 0 0 0) + 65536 - fresh.expect) % 65536 = 0 ∧ 32768 ≤ (optSeq (mkOpt 1 32768 0 0) + 65536 - fresh.expect) % 65536 ∧
    (optSeq (mkOpt 1 32767 0 0) + 65536 - fresh.expect) % 65536 = 32767 ∧ (optSeq (mkOpt 1 1 0 0) + 65536 - fresh.expect) % 65536 = 1 ∧
    fresh.discard = false ∧ fresh.stream = [] ∧ ({ fresh with stream := List.replicate 128 0 } : Port).stream.length = 128 ∧
    optGood { hdr := 0x7000000000000000, payload := 0 } = false ∧
    fresh.idleDue ≤ (optical fresh 240).cycle ∧ (optical fresh 239).cycle < fresh.idleDue ∧ (6 : Nat) ≤ 6 ∧ (65535 : Nat) < 2 ^ 16 ∧ (15 : Nat) < 16 := by
  rw [optSeq_mkOpt 1 0 0 0 (by decide), optSeq_mkOpt 1 32768 0 0 (by decide), optSeq_mkOpt 1 32767 0 0 (by decide), optSeq_mkOpt 1 1 0 0 (by decide)]
  refine ⟨arrives_mkOpt fresh 0 1 0 0 0 rfl rfl (by decide), arrives_mkOpt fresh 0 0 0 0 0 rfl rfl (by decide),
    by decide +kernel, by decide +kernel, by decide +kernel, ?_⟩
  have h : optGood { hdr := 0x7000000000000000, payload := 0 } = false := by
    have : decide (optTyp { hdr := 0x7000000000000000, payload := 0 } ≤ 6) = false := by decide +kernel
    unfold optGood
    rw [this, Bool.and_false, Bool.false_and]
  refine ⟨by decide, by decide, by decide, by decide, rfl, rfl, by simp, h, ?_⟩
  decide +kernel

/-- A record for module 0 of class 8 from module 3, and the tile its gateway flit names. -/
def gateway : State :=
  (within [{ r0 with mods := [0, 3] }]).modFab fun f => { f with route := [(2, 0xC8400000000C0000)] }

theorem meets_optical_records :
    (bits 8 4 (0x3800 : Word)).toNat = 8 ∧ bits 24 12 (0x3800 : Word) = gateway.ctrl.modno ∧ bits 36 28 (0x3800 : Word) = 0 ∧
    gateway.gatewayTile (bits 12 12 (0x3800 : Word)) (arrived 2).flit = some 0 ∧ z.gatewayTile 3 (arrived 2).flit = none ∧
    9 < (bits 8 4 (0x3A00 : Word)).toNat ∧ (bits 8 4 (0x3100 : Word)).toNat < 2 ∧ { z with host := { z.host with pend := [] } }.host.pend = [] := by
  decide +kernel

theorem meets_optical_replay :
    let p : Port := { fresh with replay := [kept], nextSeq := 1 }
    Say.arrives (optical p 0) 3 p (mkOpt 2 0 65535 0) 2 ∧
    (nbits 0 16 (mkOpt 2 0 65535 0).payload.toNat + 65536 - (Say.acked p 65535).oldest) % 65536 ≤ (Say.acked p 65535).replay.length ∧
    fresh.replay = [] ∧ p.replay = kept :: [] ∧ p.up = true ∧ p.training = false ∧ (optical p 23999).cycle < kept.2 + 24000 ∧
    kept.2 + 24000 ≤ (optical p 24000).cycle ∧
    (let t : Port := { p with training := true, trainDue := 1200000 }
     t.trainDue ≤ (optical t 1200000).cycle ∧ (optical t 1199999).cycle < t.trainDue ∧ SMap.find? (optical t 0).ports 3 = some t ∧ t.peer = some (9, 5)) ∧
    SMap.find? z.ports 3 = none ∧ (23 : Nat) < 24 :=
  ⟨arrives_mkOpt _ 0 2 0 65535 0 rfl rfl (by decide), by decide +kernel, rfl, rfl, rfl, rfl, by decide +kernel, by decide +kernel,
    ⟨by decide +kernel, by decide +kernel, rfl, rfl⟩, rfl, by decide⟩

theorem meets_optical_reefs :
    let reefing : Port := { fresh with reef := some 4, reefGroups := 2, reefDue := some 1200, reefEnd := some 12000 }
    let one : Port := { fresh with groupsIn := 1, groupsOut := 1, light := 1 }
    fresh.up = true ∧ fresh.groupsIn &&& (1#4 <<< 1) ≠ 0 ∧ fresh.reef = none ∧ fresh.groupsIn &&& ~~~(fresh.reefGroups ||| (1#4 <<< 1)) ≠ 0 ∧
    one.groupsIn &&& (1#4 <<< 1) = 0 ∧ one.groupsIn &&& ~~~(one.reefGroups ||| (1#4 <<< 0)) = 0 ∧ one.light.getLsbD 1 = false ∧
    fresh.light.getLsbD 1 = true ∧ Say.arrives (optical fresh 0) 3 fresh (mkOpt 3 0 65535 2) 3 ∧
    fresh.groupsOut &&& ~~~bits 0 4 (mkOpt 3 0 65535 2).payload ≠ 0 ∧ one.groupsOut &&& ~~~bits 0 4 (mkOpt 3 0 65535 1).payload = 0 ∧
    Say.arrives (optical reefing 0) 3 reefing (mkOpt 4 0 65535 0) 4 ∧ reefing.reef ≠ none ∧ reefing.unreef = false ∧ reefing.reefDue = some 1200 ∧
    1200 ≤ (optical reefing 1200).cycle ∧ (optical reefing 1199).cycle < 1200 ∧ 12000 ≤ (optical reefing 12000).cycle ∧
    (optical reefing 11999).cycle < 12000 ∧ Say.arrives (optical fresh 0) 3 fresh (mkOpt 5 0 65535 2) 5 ∧
    Say.arrives (optical fresh 0) 3 fresh (mkOpt 6 0 65535 2) 6 ∧ fresh.unreefGroups = 0 ∧ ({ fresh with unreefGroups := 2 } : Port).unreefGroups ≠ 0 :=
  ⟨rfl, by decide, rfl, by decide, by decide, by decide, by decide, by decide, arrives_mkOpt _ 0 3 0 65535 2 rfl rfl (by decide), by decide +kernel,
    by decide +kernel,
    arrives_mkOpt _ 0 4 0 65535 0 rfl rfl (by decide), by decide, rfl, rfl, by decide, by decide, by decide, by decide,
    arrives_mkOpt _ 0 5 0 65535 2 rfl rfl (by decide), arrives_mkOpt _ 0 6 0 65535 2 rfl rfl (by decide), rfl, by decide⟩

/-- Port 2 may not train: both of its tiles are dead, or port 3 has the peer. -/
def deadPort : State := z.modCtrl fun c => { c with deadTiles := portTiles 2 }

theorem meets_optical_training :
    (23 : Nat) < 24 ∧ (∃ x ∈ portTiles 23, z.tileLive x = true) ∧ z.ports = [] ∧ ¬(24 : Nat) < 24 ∧
    (∀ x ∈ portTiles 2, deadPort.tileLive x = false) ∧ (2 : Nat) < 24 ∧
    (∃ e ∈ (optical fresh 0).ports, e.1 ≠ 2 ∧ (e.2.up = true ∨ e.2.training = true) ∧ e.2.peer = some (9, 5)) ∧
    (∀ e ∈ (optical fresh 0).ports, e.1 ≠ 3 → e.2.up = true ∨ e.2.training = true → e.2.peer ≠ some (9, 5)) ∧
    SMap.find? (optical { fresh with training := true } 0).ports 3 = some { fresh with training := true } ∧ fresh.peer = some (9, 5) ∧
    fresh.training = false := by decide +kernel

/-- A port in a reef of group 1, with the groups it has named and those it has lost. -/
def lost (named groups : BitVec 4) : Port :=
  { fresh with reef := some 0, reefGroups := groups, reefNamed := named, reefDue := some 1200, reefEnd := some 12000 }

theorem meets_reef_answers :
    Say.arrives (optical (lost 2 2) 0) 3 (lost 2 2) (mkOpt 4 0 65535 0) 4 ∧ (lost 2 2).reefGroups &&& ~~~(lost 2 2).reefNamed = 0 ∧
    (lost 2 2).unreef = false ∧ Say.arrives (optical (lost 2 6) 0) 3 (lost 2 6) (mkOpt 4 0 65535 0) 4 ∧
    (lost 2 6).reefGroups &&& ~~~(lost 2 6).reefNamed ≠ 0 ∧ Say.arrives (optical fresh 0) 3 fresh (mkOpt 4 0 65535 0) 4 :=
  ⟨arrives_mkOpt _ 0 4 0 65535 0 rfl rfl (by decide), by decide, rfl, arrives_mkOpt _ 0 4 0 65535 0 rfl rfl (by decide), by decide,
    arrives_mkOpt _ 0 4 0 65535 0 rfl rfl (by decide)⟩

/-! ### The host -/

/-- Slot 2 of function 1 with bytes; a command has its opcode in byte 0. -/
def slot (l : List (Nat × Byte)) (s : State) : State := s.modHost fun h => { h with mbox := l.map fun x => (slotKey 1 2 x.1, x.2) }

theorem meets_mailbox_doorbells :
    let s := slot [(0, 7), (1, 1)] z
    let t := slot [(0, 7), (1, 2), (5, 1)] z
    let bad := s.modCtrl fun c => { c with recovery := true }
    s.slotByte 1 2 0 ≠ 6 ∧ s.slotByte 1 2 0 = 7 ∧ s.slotByte 1 2 1 = 1 ∧ s.ctrl.recovery = false ∧ t.slotByte 1 2 1 ≠ 1 ∧ t.slotByte 1 2 5 ≠ 0 ∧
    bad.ctrl.recovery = true ∧ (1 : BitVec 2) ≠ 0 ∧ Say.ready (slot [(0, 7)] z) 1 2 7 ∧
    ∀ o ∈ ([0, 8, 0x0F, 0x15, 0x1F, 0x28, 0xFF] : List Nat), o = 0 ∨ (8 ≤ o ∧ o ≤ 0x0F) ∨ (0x15 ≤ o ∧ o ≤ 0x1F) ∨ 0x28 ≤ o := by
  unfold Say.ready; decide +kernel

/-- A host request of function 1. -/
def request (write : Bool) (addr len : Nat) (data : Bytes) : HostReq :=
  { fn := 1, write := write, addr := addr, len := len, data := data, ep := false, ecrcOk := true }

theorem meets_host_requests :
    z.host.linkUp.getLsbD 3 = true ∧ (z.modHost fun h => { h with linkUp := 7 }).host.linkUp.getLsbD 3 = false ∧
    Say.served z (request true 0xB000 0 (List.replicate 512 0)) ∧ Say.served z (request false 0 4096 []) ∧
    { request true 0 0 [0] with ecrcOk := false }.ecrcOk = false ∧ 512 < (request true 0 0 (List.replicate 513 0)).data.length ∧
    4096 < (request false 0 4097 []).len := by
  unfold Say.served; decide +kernel

/-- Function 1 with vector 3 pending, masked as after reset. -/
def waitingVector : State := z.modHost fun h => { h with pba := [(2048 + 3, true)] }

/-- The same with bit 0 of its vector control clear, as a write of 0 to it leaves it. -/
def unmaskedVector : State := waitingVector.modHost fun h => { h with msix := [(0x8000 + 16 * 3 + 12, 0)] }

theorem meets_register_accesses :
    (request true 0xB000 0 [15]).write = true ∧ ofBytes (request true 0xB000 0 [15]).data < 16 ∧ 16 ≤ ofBytes (request true 0xB000 0 [16]).data ∧
    (request true 0xA000 0 [7]).data = [7] ∧ (2046 : Nat) < 2047 ∧ (request true (0xC000 + 8 * 2046) 0 (List.replicate 8 0)).data.length = 8 ∧
    0x8000 ≤ (0x9FFF : Nat) ∧ (0xB001 : Nat) < 0xC000 ∧ (0xFFF8 : Nat) ≤ 0xFFF8 ∧ (0x7FFF : Nat) < 0x8000 ∧
    waitingVector.pendingVector 1 3 = true ∧ waitingVector.masked 1 3 = true ∧ unmaskedVector.masked 1 3 = false ∧
    z.pendingVector 1 3 = false ∧ (request false 0x80FF 1 []).write = false ∧ (0 : Nat) < (request false 0x80FF 1 []).len := by
  decide +kernel

/-- A ring of 64 records, from WP 64 on in its second pass, with a HEAD, and an event for it. -/
def ring (head hold : Nat) (owed : Bool) : Ring :=
  { base := 0x1000, lg := 6, en := true, vector := 1, wp := 64, head := head, seq := 0, holdUntil := hold, owed := owed }

/-- Function 1 with its ring 0. -/
def ringing (r : Ring) : State := z.modHost fun h => { h with rings := [(2048, r)] }

theorem meets_event_rings :
    Say.ring (ringing (ring 1 0 false)) 1 0 (ring 1 0 false) ∧ (ring 1 0 false).wp < 2 ^ 32 ∧ (∀ r, ¬Say.ring z 1 0 r) ∧
    (∃ pre e post, (ringing (ring 1 0 false)).host.pend = pre ++ e :: post ∧ (∀ x ∈ pre, ¬(x.fn = 1 ∧ x.ring = 0)) ∧ e.fn = 1 ∧ e.ring = 0) ∧
    (ringing (ring 1 0 false)).host.linkUp.getLsbD 1 = true ∧ ((ring 1 0 false).wp + 2 ^ 32 - (ring 1 0 false).head) % 2 ^ 32 < 2 ^ (ring 1 0 false).lg ∧
    2 ^ (ring 0 0 false).lg ≤ ((ring 0 0 false).wp + 2 ^ 32 - (ring 0 0 false).head) % 2 ^ 32 ∧ SMap.get 0 z.host.dropped 1 = 0 ∧
    (ring 0 0 true).owed = true ∧ (ring 0 0 true).holdUntil ≤ z.cycle ∧ z.cycle < (ring 0 1 true).holdUntil := by
  refine ⟨⟨rfl, rfl⟩, by decide, fun r h => ?_, ⟨bootEvents.take 1, _, bootEvents.drop 2, rfl, by decide, rfl, rfl⟩, rfl, by decide, by decide, rfl, rfl,
    by decide, by decide⟩
  have : (none : Option Ring) = some r := h.1
  contradiction

theorem meets_tile_window :
    Say.window (within [r0]) (2 ^ 22 + 0x1BFFF8) 8 1 .a true 0xBFFF8 ∧ Say.window (within [r0]) (2 ^ 22 + 0x25FFF8) 8 1 .c false 0x5FFF8 ∧
    (∀ t b side o, ¬Say.window (within [r0]) (2 ^ 22 * 5544) 8 t b side o) ∧
    (∀ x ∈ (({ within [r0] with here := 1 } : State).readAt (({ within [r0] with here := 1 } : State).bufRun .a true false 0xBFFF8 8)).1, x.2 = false) ∧
    (request true (2 ^ 22 + 0x1BFFF8) 0 [1, 2]).write = true ∧ 0 < (request false (2 ^ 22 + 0x1BFFF8) 8 []).len := by
  refine ⟨⟨by decide, by decide +kernel, .inl (by decide)⟩, ⟨by decide, by decide +kernel, .inr (by decide)⟩, ?_, by decide +kernel, rfl, by decide⟩
  rintro t b side o ⟨h, -, ⟨-, h1, h2⟩ | ⟨-, -, h1, h2⟩⟩
  · split at h2 <;> omega
  · omega

theorem meets_far_window :
    (z.servingPort 0).isSome = true ∧ Say.populated z 0 512 ∧ ¬Say.populated z (farLimit - 8) 16 ∧
    (∀ x ∈ (z.farRead 0 8).1, x.2 = false) := by
  refine ⟨by decide +kernel, ⟨by decide, fun x _ h => ?_⟩, fun h => ?_, by decide +kernel⟩
  · have : x / 512 = 0 := by omega
    rw [this]
    decide +kernel
  · have := h.1
    revert this
    decide

theorem meets_host_atomics :
    let a : HostAtomic := { fn := 1, bar := 2, addr := 2 ^ 22 + 0x1BFFF8, op := 2, bits := 64, a := 0, b := 5, ecrcOk := true }
    a.op ≠ 3 ∧ a.addr % (a.bits / 8) = 0 ∧ z.host.linkUp.getLsbD a.fn.toNat = true ∧
    (({ within [r0] with here := 1 } : State).atomicAt (({ within [r0] with here := 1 } : State).bufAddr .a true false 0xBFFF8) .cas true 5 0 false).2.1 =
      false ∧ (∀ y ∈ (z.farAtomic 0 .swap true 5 0).1, y.2 = false) := by decide +kernel

theorem meets_host_links_and_time :
    ((16 : Byte) = 16 ∨ (16 : Byte) = 8 ∨ (16 : Byte) = 4) ∧ (∃ x ∈ linkTiles 3, x ∉ z.ctrl.deadTiles) ∧ z.ctrl.recovery = false ∧
    Say.roomy z ∧ (6 : Byte).toNat < 7 ∧ 7 ≤ (7 : Byte).toNat ∧ 16 ≤ (16 : Byte).toNat ∧
    (1 : Byte).toNat ≤ 7 ∧ 7 < (8 : Byte).toNat ∧ z.clock.state = .free ∧ { z.clock with state := .locked }.state = .locked ∧
    { z.clock with state := .lost }.state ≠ .locked := by unfold Say.roomy; decide

/-- The module's clock, disciplined from free, with what it has noted of the messages. -/
def timed (syncAt asked : Option Int) (sync : Option (Int × Int)) : State :=
  { z with clock := { z.clock with syncAt := syncAt, askedAt := asked, sync := sync } }

theorem meets_module_time :
    (timed (some 5) none none).clock.syncAt = some 5 ∧ z.clock.syncAt = none ∧ (timed none (some 9) (some (1, 2))).clock.sync = some (1, 2) ∧
    (timed none (some 9) (some (1, 2))).clock.askedAt = some 9 ∧ z.clock.sync = none ∧ z.clock.askedAt = none ∧ (0 : Int) < 1 ∧ (0 : Int) ≤ 0 ∧
    z.ctrl.launched = false ∧ (z.modCtrl fun c => { c with launched := true }).ctrl.launched = true ∧
    { z.clock with state := .lost }.state = .lost := by decide +kernel

theorem meets_immediate_commands :
    let s := slot [(0, 5), (8, 0xFE), (9, 7), (17, 0x10), (24, 16), (32, 1)] z
    Say.ready s 1 2 5 ∧ s.slotWord 1 2 8 < 2047 ∧ s.slotWord 1 2 16 % 4096 = 0 ∧ 6 ≤ s.slotWord 1 2 24 ∧ s.slotWord 1 2 24 ≤ 16 ∧
    s.slotWord 1 2 32 ≤ 1 ∧ (slot [(0, 5), (24, 5)] z).slotWord 1 2 24 < 6 ∧ Say.ready (slot [(0, 6)] z) 1 2 6 ∧ z.servingSide 3 = some 3 := by
  unfold Say.ready; decide +kernel

theorem meets_invalidation_requests :
    let s := slot [(0, 1), (10, 7), (18, 1), (24, 1)] z
    Say.ready s 1 2 1 ∧ s.slotWord 1 2 8 % 256 < 3 ∧ s.slotWord 1 2 16 % 65536 = 0 ∧ s.slotWord 1 2 16 < 2 ^ 57 ∧ 1 ≤ s.slotWord 1 2 24 ∧
    s.slotWord 1 2 24 ≤ 2 ^ 24 ∧ s.slotWord 1 2 16 + 65536 * s.slotWord 1 2 24 ≤ 2 ^ 57 ∧ s.far.invals.length < 16 ∧
    16 ≤ (s.modFar fun f => { f with invals := List.replicate 16 inval }).far.invals.length ∧
    ¬(slot [(0, 1), (8, 3)] z).slotWord 1 2 8 % 256 < 3 := by unfold Say.ready; decide +kernel

theorem meets_host_copy :
    let s := slot [(0, 3), (8, 1), (16, 64), (24, 128), (32, 64)] z
    let c : HCopy := { id := 4, fn := 1, tag := 7, host := 64, far := 128, len := 64, toHost := true }
    let d : Deferred := { fn := 1, slot := 2, tag := 7, opc := 3, region := 0xFFFF, id := 4 }
    Say.ready s 1 2 3 ∧ s.slotWord 1 2 8 ≤ 1 ∧ s.slotWord 1 2 16 % 64 = 0 ∧ s.slotWord 1 2 24 % 64 = 0 ∧ s.slotWord 1 2 32 % 64 = 0 ∧
    s.slotWord 1 2 32 ≤ 2 ^ 30 ∧ s.host.hcopies.length < 64 ∧ 64 ≤ (s.modHost fun h => { h with hcopies := List.replicate 64 c }).host.hcopies.length ∧
    d.opc = 3 ∧ d.id = c.id ∧ (slot [(0, 3), (8, 2)] z).slotWord 1 2 8 = 2 ∧ Say.ready (slot [(0, 2)] z) 1 2 2 ∧
    (slot [(0, 2)] z).slotWord 1 2 8 % 4096 = 0 ∧ (slot [(0, 2), (8, 8)] z).slotWord 1 2 8 % 4096 ≠ 0 := by unfold Say.ready; decide +kernel

theorem meets_unreef_command :
    let s := slot [(0, 4), (8, 23)] z
    Say.ready s 1 2 4 ∧ (s.slotByte 1 2 8).toNat < 24 ∧ 24 ≤ ((slot [(0, 4), (8, 24)] z).slotByte 1 2 8).toNat ∧ SMap.find? s.ports 23 = none ∧
    s.host.deferred = [] ∧ ({ fresh with reef := some 1 } : Port).reef.isSome = true ∧ fresh.reef = none := by unfold Say.ready; decide +kernel

/-! ### Launches -/

/-- The bytes of a launch record that are not zero: an image at address 0 of address space 1, at the origin, on this module alone. -/
def recordCells : List (Nat × Byte) :=
  [(16, 1), (20, 3), (23, 10), (24, 1), (28, 1), (32, 1), (36, 1), (40, 1), (44, 1), (56, 0x3B), (60, 1)]

/-- The record of slot bytes 8 to 255. -/
def record (l : List (Nat × Byte)) : Bytes := (upto 248).map fun i => SMap.get 0 l (i + 8)

/-- An image of one tile without programs, of 592 bytes, in far memory of address space 1. -/
def imaged (l : List (Nat × Byte)) : State :=
  mapped.modFar fun f => { f with mem := f.mem ++ l.map fun x => (0x20000000 + x.1, x.2) }

/-- The bytes of that image. -/
def imageCells : List (Nat × Byte) :=
  [(0, 0x47), (1, 0x4E), (2, 0x49), (3, 0x4D), (4, 0x01), (6, 0x01), (8, 0x05), (24, 0x50), (25, 0x02), (32, 0xEA), (33, 0x92), (34, 0xEE), (35, 0x0B), (40, 0x01), (42, 0x01), (566, 0x01)]

/-- A machine whose distributor has selected a record. -/
def selected (b : Bytes) (s : State) : State := s.modDist fun d => { d with sel := some (3, b, (1, 2, 9)) }

/-- That record in a slot. -/
def recorded : State := slot ((0, 0x10) :: recordCells) z

/-- Its numbers are within the limits of a launch record. -/
theorem recordCells_numbers :
    let f := Say.field recorded 1 2
    f 8 8 % 4096 = 0 ∧ f 16 2 ≠ 0 ∧ (f 18 1 = 0xFF ↔ f 19 1 = 0xFF) ∧ f 20 1 < 16 ∧ f 21 1 < 8 ∧ 10 ≤ f 23 1 ∧ f 23 1 ≤ 30 ∧
    f 48 8 % 4096 = 0 ∧ 1 ≤ f 60 2 ∧ f 60 2 ≤ 64 ∧ (f 21 1 / 4 % 2 = 1 ∨ f 60 2 = 1) ∧ f 62 2 = 0 := by decide +kernel

/-- It names one module, this one, and its other bytes are zero. -/
theorem recordCells_rest :
    let f := Say.field recorded 1 2
    f 60 2 = 1 ∧ f 72 2 = recorded.ctrl.modno.toNat ∧ f 72 2 < 4096 ∧ ∀ i, i < 256 → 74 ≤ i → f i 1 = 0 := by decide +kernel

/-- So it passes the checks. -/
theorem recordCells_fit : Say.recordFits recorded 1 2 := by
  obtain ⟨h1, h2, h3, h4, h5, h6, h7, h8, h9, h10, h11, h12⟩ := recordCells_numbers
  obtain ⟨h, own, small, zero⟩ := recordCells_rest
  refine ⟨h1, h2, h3, h4, h5, h6, h7, h8, h9, h10, h11, h12, fun i hi => by omega, fun i hi => ?_, ⟨0, by omega, own⟩,
    fun i h1 h2 => zero i (by omega) (by omega), fun i h1 h2 => zero i h2 (by omega)⟩
  obtain rfl : i = 0 := by omega
  exact small

theorem meets_launch_records :
    let s := slot ((0, 0x10) :: recordCells) z
    let t := s.modCtrl fun c => { c with dist := { c.dist with queues := [(3, List.replicate 256 [])] } }
    Say.ready s 1 2 0x10 ∧ Say.recordFits s 1 2 ∧ (SMap.get [] s.ctrl.dist.queues (Say.field s 1 2 20 1)).length < 256 ∧
    256 ≤ (SMap.get [] t.ctrl.dist.queues (Say.field t 1 2 20 1)).length ∧ ¬Say.recordFits (slot [(0, 0x10)] z) 1 2 := by
  refine ⟨by unfold Say.ready; decide +kernel, recordCells_fit, by decide +kernel, by decide +kernel, fun h => ?_⟩
  have := h.2.1
  revert this
  decide +kernel

theorem meets_queue_and_region_status :
    let s := slot [(0, 0x11), (8, 15), (9, 15)] z
    let t := slot [(0, 0x14), (8, 1)] (within [r0])
    Say.ready s 1 2 0x11 ∧ Say.field s 1 2 8 1 < 16 ∧ Say.field s 1 2 9 1 < 16 ∧ 16 ≤ Say.field (slot [(8, 16)] z) 1 2 8 1 ∧
    16 ≤ Say.field (slot [(9, 16)] z) 1 2 9 1 ∧ Say.ready t 1 2 0x14 ∧ t.regionOf (BitVec.ofNat 16 (Say.field t 1 2 8 2)) = some r0 ∧
    r0.mm = false ∧ (slot [(0, 0x14)] z).regionOf (BitVec.ofNat 16 (Say.field (slot [(0, 0x14)] z) 1 2 8 2)) = none := by
  unfold Say.ready; decide +kernel

/-- Two queues with a record each: queue 3 has aged, queue 4 is about to. -/
def queues (cycle : Nat) : State :=
  { z.modDist fun d => { d with
      queues := [(3, [record recordCells]), (4, [[]])], fns := [(3, [(1, 2, 9)]), (4, [(0, 0, 0)])], eff := [(3, 1)]
      waitc := [(4, 2 ^ 20 - 1)] } with cycle := cycle }

theorem meets_distributor :
    let d := (queues 16).ctrl.dist
    d.due ≤ (queues 16).cycle ∧ (queues 16).ctrl.power = .p0 ∧ (queues 16).ctrl.recovery = false ∧ d.sel = none ∧ d.lastq < 16 ∧
    Say.nextQueue d 3 ∧ SMap.get [] d.queues 3 = [record recordCells] ∧ SMap.get [] d.fns 3 = [(1, 2, 9)] ∧ SMap.get [] d.queues 5 = [] ∧
    SMap.get [] d.queues 4 ≠ [] ∧ SMap.get 0 d.waitc 4 + 1 = 2 ^ 20 ∧ SMap.get 0 (z.modDist fun d => d).ctrl.dist.waitc 4 + 1 ≠ 2 ^ 20 ∧
    recPre (record recordCells) = false ∧ (selected (record recordCells) z).ctrl.dist.sel = some (3, record recordCells, (1, 2, 9)) ∧
    ({ z with cycle := 0 }.modDist fun d => { d with due := 1 }).ctrl.dist.due = 1 := by
  refine ⟨by decide +kernel, rfl, rfl, rfl, by decide +kernel, ⟨by decide, by decide +kernel, ?_⟩, rfl, rfl, rfl, by decide +kernel, by decide +kernel,
    by decide +kernel, by decide +kernel, rfl, rfl⟩
  decide +kernel

/-- The image that a launch reads. -/
def readImg (s : State) : Option Bytes := (s.readImage 1 0).1

/-! An image's CRC is too long for the kernel to evaluate at once; it is checked here sixteen bytes at a time. -/

/-- Do the given registers follow one another over the sixteens of a byte string? -/
def crcFollows (c : BitVec 32) : List (BitVec 32) → Bytes → Bool
  | [], b => b == []
  | d :: r, b => crc32Run c (b.take 16) == d && crcFollows d r (b.drop 16)

theorem crcFollows_spec (l : List (BitVec 32)) : ∀ (c : BitVec 32) (b : Bytes), crcFollows c l b = true → crc32Run c b = l.getLastD c := by
  induction l with
  | nil =>
    intro c b h
    simp only [crcFollows, beq_iff_eq] at h
    subst h
    rfl
  | cons d r ih =>
    intro c b h
    simp only [crcFollows, Bool.and_eq_true, beq_iff_eq] at h
    have h2 := ih d _ h.2
    rw [← h.1] at h2
    rw [List.getLastD_cons, ← h.1, ← h2]
    conv => lhs; rw [← List.take_append_drop 16 b]
    unfold crc32Run
    rw [List.foldl_append]

/-- The image's bytes from the checked part on. -/
def imageBody : Bytes := (upto 592).map fun i => SMap.get 0 imageCells i

/-- The CRC32C registers over its 556 checked bytes, worked out by hand from R117. -/
def imageCrcs : List (BitVec 32) :=
  [0x47A8CA80, 0xFAD5C66E, 0x44F567E9, 0x3CF96E37, 0x4CA5427C, 0x06A8CED4, 0xD5362F5A, 0x014A2BD4, 0x14279DBA, 0xAE23EC37, 0x55A435A8, 0xD2A429B8,
   0x831655FC, 0x7513B865, 0xA1C92CD2, 0x7893D1B4, 0x4D0509AA, 0xDDECB73D, 0xD9CD3EFD, 0x7CB4BB38, 0xDE90ABDF, 0x249D469C, 0x8C0E4C25, 0x28B79F4E,
   0xF942898C, 0xC62DEEC9, 0x387D8B4A, 0x173C0556, 0x0C54EFED, 0x07555B17, 0x26D42DC4, 0x5C714EE7, 0x41286EB9, 0xAFFB9A1E, 0xF4116D15]

theorem image_crc : crcOk imageBody = true := by
  have h : crc32Run 0xFFFFFFFF ((imageBody.take (imgLen imageBody)).drop 36) = imageCrcs.getLastD 0xFFFFFFFF :=
    crcFollows_spec _ _ _ (by decide +kernel)
  unfold crcOk crc32c
  rw [h]
  decide +kernel

theorem image_read : readImg (imaged imageCells) = some imageBody := by decide +kernel

theorem meets_binding_refusals :
    let b := record recordCells
    let short : Bytes := record (recordCells.filter fun x => x.1 != 24)
    let busy := (imaged []).modFar fun f => { f with invals := [inval] }
    let other (l : List (Nat × Byte)) : Option Bytes := readImg (imaged l)
    recAsid b = 1 ∧ recVa b = 0 ∧ z.asidBusy 1 = false ∧ busy.asidBusy 1 = true ∧ readImg z = none ∧ (other []).map headerOk = some false ∧
    headerOk imageBody = true ∧ launchHeaderOk imageBody = true ∧ imgStat imageBody = false ∧
    (recExt short).getD 0 0 = 0 := by
  decide +kernel

/-- An image with a bad launch header, and one with static channels for another link latency table: of 37 checked bytes. -/
theorem meets_header_refusals :
    let at_ (c : List (Nat × Byte)) : Option Bytes := readImg (imaged ([(0, 0x47), (1, 0x4E), (2, 0x49), (3, 0x4D), (4, 1), (6, 1), (8, 5)] ++ c))
    (at_ [(24, 36), (40, 85), (42, 1)]).map (fun b => (headerOk b, crcOk b, launchHeaderOk b)) = some (true, true, false) ∧
    (at_ [(24, 36), (40, 1), (42, 1), (44, 16), (46, 2), (56, 1)]).map (fun b => (headerOk b, crcOk b, launchHeaderOk b)) =
      some (true, true, true) ∧
    (at_ [(24, 36), (40, 1), (42, 1), (44, 16), (46, 2), (56, 1)]).map (fun b => (imgStat b, imgLltv b)) = some (true, 1) ∧
    (at_ [(24, 36), (32, 1), (40, 1), (42, 1)]).map (fun b => (headerOk b, crcOk b)) = some (true, false) ∧ z.ctrl.lltVersion = 0 := by
  decide +kernel

/-- The value of a check that passes. -/
def passed {α : Type} : Except Nat α → Option α
  | .ok a => some a
  | .error _ => none

/-- The one section of the image. -/
def imageSection : TileSection :=
  { x0 := 0, x1 := 0, y0 := 0, y1 := 0, entry := 0, bank0 := some (592, 0), bank1 := none, chans := [], reds := [], bars := [], streams := [], data := [] }

/-- The machine that has selected the record, and the same after it has read the image. -/
def bound : State := selected (record recordCells) (imaged imageCells)

theorem meets_binding :
    let b := record recordCells
    let u := (bound.readImage 1 0).2
    bound.ctrl.dist.sel = some (3, b, (1, 2, 9)) ∧ bound.ctrl.power = .p0 ∧ bound.asidBusy (recAsid b) = false ∧
    (bound.readImage (recAsid b) (recVa b)).1 = some imageBody ∧ passed (u.checkImage b imageBody) = some [imageSection] ∧
    u.placeFor b (imgWd imageBody) (imgHt imageBody) = some (0, 0) ∧
    tablesOk [imageSection] 0 0 (imgWd imageBody) (imgHt imageBody) (imgFlags imageBody % 2 == 1) = true ∧
    u.ownGateways b (gateways [imageSection] (imgWd imageBody) (imgHt imageBody)) = true ∧ recMm b = false ∧ recRst b = false ∧
    (∀ r ∈ u.ctrl.regions, r.id ≠ u.ctrl.nextRegion) := by
  refine ⟨rfl, rfl, by decide +kernel, by decide +kernel, ?_, ?_⟩
  · unfold State.checkImage
    rw [image_crc]
    decide +kernel
  · decide +kernel

theorem meets_waiting_launch :
    let b := record recordCells
    let u := (bound.readImage 1 0).2
    (u.modCtrl fun c => { c with regions := [r0] }).placeFor b (imgWd imageBody) (imgHt imageBody) = none := by
  decide +kernel

theorem meets_work_identifiers :
    let ext : List Nat := [3, 1, 1, 1, 1, 2]
    let w : BitVec 42 := 2 ^ 35 + 2
    (∀ j, j < 6 → 1 ≤ ext.getD j 1 ∧ ext.getD j 1 ≤ 2 ^ min (widthOfField w j) 32) ∧
    ((List.range 6).map fun j => widthOfField w j).sum ≤ 64 ∧ ext.length = 6 ∧ 5 < ext.prod := by
  decide +kernel

theorem meets_accepts :
    let more := { r0 with next := 1, count := 2 }
    let none_ := { r0 with next := 2, count := 2 }
    let s := (within [more]).modCtl fun c => { c with waits := [(.accept, .accept 5)] }
    (within [more]).region = some more ∧ more.mm = false ∧ (within [more]).t.ctl.granted = [] ∧ more.next < more.count ∧
    (within [none_]).region = some none_ ∧ none_.count ≤ none_.next ∧ s.t.ctl.waits = [(.accept, .accept 5)] ∧ s.region = some more ∧
    ((within [more]).modCtl fun c => { c with granted := [(.accept, .accept 5, 7)] }).t.ctl.granted = [(.accept, .accept 5, 7)] ∧
    (within [more]).t.ctl.waits = [] ∧
    ((within [none_]).modCtl fun c => { c with waits := [(.accept, .accept 5)] }).region = some none_ ∧
    ((within [more]).modCtl fun c => { c with waits := [(.accept, .accept 5), (.semwait, .semwait 5 0)] }).t.ctl.waits ≠ [] ∧
    (∃ w ∈ ((within [more]).modCtl fun c => { c with waits := [(.accept, .accept 5), (.semwait, .semwait 5 0)] }).t.ctl.waits, w.1 ≠ .accept) := by
  decide +kernel

/-- Tile 0 of a region as its program has ended. -/
def ended (r : Region) (s : State) : State := (s.modCtrl fun c => { c with regions := [r] }).modCtl fun c => { c with fetch := .ended }

theorem meets_start_and_release :
    let last := { r0 with released := [1] }
    (within [r0]).region = some r0 ∧ r0.state = .running ∧ (within [r0]).here ∉ r0.started ∧ (within [r0]).reached r0.tau = true ∧
    (within [r0]).t.ctl.fetch = .notStarted ∧ (within [{ r0 with tau := 1 }]).reached 1 = false ∧ (within [r0]).here ∈ [(0 : Nat)] ∧
    (ended r0 z).region = some r0 ∧ (ended r0 z).here ∉ r0.released ∧ (ended r0 z).releasable = true ∧
    (∃ k ∈ r0.tiles, k ≠ (ended r0 z).here ∧ k ∉ r0.released) ∧ (∀ k ∈ last.tiles, k = (ended last z).here ∨ k ∈ last.released) ∧
    (ended last z).releasable = true ∧ (ended last z).host.deferred = [] ∧
    ((ended r0 z).modFab fun f => { f with ramos := [awaiting false] }).t.fab.ramos ≠ [] ∧ (within [{ r0 with state := .binding }]).here = 0 := by
  decide +kernel

theorem meets_preemption_requests :
    let s (k : Byte) (r : Region) := slot [(0, 0x12), (8, 1), (10, k)] (within [r])
    let still := { r0 with flags := 16 }
    Say.ready (s 1 r0) 1 2 0x12 ∧ (slot [(0, 0x12), (8, 2)] (within [r0])).regionOf 2 = none ∧
    (s 1 r0).regionOf (BitVec.ofNat 16 (Say.field (s 1 r0) 1 2 8 2)) = some r0 ∧ r0.state = .running ∧ (s 1 r0).ctrl.splices = [] ∧
    Say.field (s 1 r0) 1 2 10 1 = 1 ∧ Say.field (s 2 r0) 1 2 10 1 = 2 ∧ r0.stat = false ∧ still.stat = true ∧
    (s 2 still).regionOf (BitVec.ofNat 16 (Say.field (s 2 still) 1 2 8 2)) = some still := by unfold Say.ready; decide +kernel

theorem meets_soft_deadlines :
    let soft := { r0 with state := .softSaving, deadline := some 1024 }
    let s := { within [soft] with cycle := 1024 }
    s.regionOf soft.id = some soft ∧ soft.deadline = some 1024 ∧ 1024 ≤ s.cycle ∧ soft.stat = false ∧ { soft with flags := 16 }.stat = true ∧
    { s with cycle := 1023 }.cycle < 1024 ∧ r0.state ≠ .softSaving ∧ (∀ k, k < 2 → (s.tile k).winch.running = [] ∧ (s.tile k).red.colls = []) ∧
    s.host.deferred = [] ∧ s.tiles = z.tiles := by decide +kernel

/-- A region that saves by force, of one tile, frozen. -/
def forcing : State :=
  (within [{ r0 with wd := 1, ht := 1, state := .forcedSaving }]).modCtl fun c => { c with frozen := true }

theorem meets_forced_preemption :
    let r := { r0 with state := .forcedSaving }
    let one := { r0 with wd := 1, ht := 1, state := .forcedSaving }
    (within [r]).regionOf r.id = some r ∧ r.savedTiles = [] ∧ (∀ k ∈ r.tiles, ((within [r]).tile k).red.colls = [] ∧
      ((within [r]).tile k).ctl.trap.hnd = false ∧ ((within [r]).tile k).sync.canceling = false) ∧
    (∃ k ∈ r.tiles, (((within [r]).modWinch fun w => { w with running := [copying .moving (.far 0 0 65536)] }).tile k).winch.running ≠ []) ∧
    (∃ o ∈ [awaiting false], o.det = false ∧ o.resp = none) ∧ (∃ p ∈ (net (flying 0 0 0)).net, r.has p.src = true) ∧ forcing.regionOf one.id = some one ∧ one.err = false ∧ one.want = 0 ∧
    forcing.net = [] ∧ forcing.ctrl.splices = [] ∧ one.tiles = [0] ∧ (forcing.tile 0).ctl.frozen = true ∧ (forcing.tile 0).ctl.trap.hnd = false ∧
    (forcing.tile 0).sync.canceling = false ∧ (forcing.tile 0).winch.running = [] ∧ (forcing.tile 0).fab.ramos = [] ∧
    (forcing.tile 0).ctl.softStop = false ∧ forcing.region = some one ∧ forcing.here = 0 ∧ (forcing.tile 0).red.colls = [] ∧
    r0.state ≠ .forcedSaving := by decide +kernel

theorem meets_teardown :
    let s := slot [(0, 0x13), (8, 1)] (within [r0])
    Say.ready s 1 2 0x13 ∧ s.regionOf (BitVec.ofNat 16 (Say.field s 1 2 8 2)) = some r0 ∧ r0.state = .running ∧ s.ctrl.splices = [] ∧
    (∀ x ∈ s.ctrl.regions, x.id ≠ r0.id → x.live = true → x.asid ≠ r0.asid) ∧ s.host.deferred = [] ∧ s.tiles = z.tiles ∧
    (slot [(0, 0x13), (8, 2)] (within [r0])).regionOf 2 = none := by unfold Say.ready; decide +kernel

/-! ### Launches across modules -/

/-- The port to module 9. -/
def linked (s : State) : State := { s with ports := [(3, fresh)] }

/-- A launch of modules 0 and 9, that module 0 leads. -/
def l0 : Launch := { Launch.fresh 77 [0, 9] with live := [0, 9] }

/-- Its region here. -/
def rm : Region := { r0 with mm := true, lid := 77, mods := [0, 9], count := 128 }

/-- Module 0 with the launch. -/
def joint (l : Launch) (r : Region) : State := linked ((within [r]).modCtrl fun c => { c with launches := [l] })

/-- A message to a module about the launch. -/
def message (dest : BitVec 12) (lid : Word) : MgmtMsg := { src := 9, dest := dest, body := .heartbeat lid }

theorem meets_message_relay :
    (message 0 77).dest = z.ctrl.modno ∧ (message 9 77).dest ≠ z.ctrl.modno ∧ (joint l0 rm).mm (mgmtLid (message 9 77).body) = some l0 ∧
    (joint l0 rm).paired (message 9 77).dest = true ∧ (joint l0 rm).mm (mgmtLid (message 9 78).body) = none := by decide +kernel

/-- A module's binding message, or its result. -/
def bindMsg (src : BitVec 12) (nmod : Nat) (gws : List GwEntry) (result : Option Bool) : BindMsg :=
  { src := src, lid := 77, nmod := nmod, mods := [0, 9], imgid := 5, gws := gws, result := result }

/-- A gateway entry: channel 1 of tile (0, 0) here sends to channel 2 of tile (0, 0) of module 9. -/
def sends : GwEntry := { x := 0, y := 0, ch := 1, ent := 2 ^ 63 + 2 ^ 60 + 2 ^ 30 }

theorem meets_binding_exchange :
    let own := bindMsg 0 2 [] none
    let m := bindMsg 9 2 [] none
    let r := { rm with state := .binding }
    let l := { l0 with binds := [own] }
    let both := { l0 with binds := [own, m, bindMsg 0 2 [] (some true)] }
    let due := { l0 with bindDue := some 10 }
    z.mm 77 = none ∧ z.mmRegion 77 = none ∧ Say.launch (joint l r) m.lid l r ∧ r.state = .binding ∧ l.mods = [z.ctrl.modno, 9] ∧
    (9 : BitVec 12) ≠ z.ctrl.modno ∧ (joint l r).paired 9 = true ∧ m.src = 9 ∧ own.src = z.ctrl.modno ∧ l.binds = [own] ∧ own.result = none ∧
    m.result = none ∧ Say.sameLaunch m own ∧ Say.gatewaysMatch 0 own [own, m] ∧ ¬Say.sameLaunch (bindMsg 9 3 [] none) own ∧
    ¬Say.gatewaysMatch 0 (bindMsg 0 2 [sends] none) [bindMsg 0 2 [sends] none, m] ∧
    Say.launch (joint both r) 77 both r ∧ (bindMsg 0 2 [] (some true)).result = some true ∧
    (joint due r).regionOf r.id = some r ∧ (joint due r).mm r.lid = some due ∧ due.bindDue = some 10 ∧ 10 ≤ { joint due r with cycle := 10 }.cycle ∧
    { joint due r with cycle := 9 }.cycle < 10 ∧ rm.state ≠ .binding ∧ (∀ y ∈ (joint both r).ctrl.regions, y.id = r.id → y = r) := by
  unfold Say.launch Say.sameLaunch Say.gatewaysMatch; decide +kernel

theorem meets_batch_requests :
    let waits := { l0 with awaiting := [(1, 9, [9])], nextBatch := 1 }
    let again := { l0 with reissue := [0], nextBatch := 1 }
    let alone := { l0 with live := [0] }
    Say.launch (joint l0 rm) 77 l0 rm ∧ l0.leader = z.ctrl.modno ∧ (9 : BitVec 12) ∈ l0.live ∧ l0.minority = false ∧ l0.lid = 77 ∧
    l0.reissue = [] ∧ 64 * l0.nextBatch < rm.count ∧ (∀ a ∈ waits.awaiting, a.2.2 ≠ []) ∧ (∃ x ∈ l0.live, x ≠ z.ctrl.modno) ∧
    64 * waits.nextBatch < rm.count ∧ again.reissue = 0 :: [] ∧ alone.awaiting = [] ∧ alone.live = [z.ctrl.modno] ∧
    rm.count ≤ 64 * { l0 with nextBatch := 2 }.nextBatch ∧ { l0 with leader := 9 }.leader ≠ z.ctrl.modno ∧ (8 : BitVec 12) ∉ l0.live ∧
    Say.launch (joint waits rm) 77 waits rm ∧ Say.launch (joint again rm) 77 again rm ∧ Say.launch (joint alone rm) 77 alone rm := by
  unfold Say.launch; decide +kernel

theorem meets_grants :
    let f := { l0 with leader := 9, grants := [(4, 0), (5, 9)], held := [(6, 384)] }
    let w := { l0 with awaiting := [(1, 9, [9, 10])] }
    let v := { l0 with awaiting := [(1, 0, [9])] }
    let u := { l0 with awaiting := [(1, 9, [9])] }
    (joint f rm).mm 77 = some f ∧ f.lid = 77 ∧ SMap.find? f.grants 3 ≠ some 9 ∧ (joint f rm).paired f.leader = true ∧
    SMap.find? f.grants 4 = some 0 ∧ (0 : BitVec 12) = z.ctrl.modno ∧ (∀ x ∈ f.held, x.1 ≠ 4) ∧ SMap.find? f.grants 5 = some 9 ∧
    (9 : BitVec 12) ≠ z.ctrl.modno ∧ w.awaiting = [(1, 9, 9 :: [10])] ∧ (∃ x ∈ [(10 : BitVec 12)], x ≠ 9) ∧ (joint w rm).mm 77 = some w ∧
    v.awaiting = [(1, 0, [9])] ∧ (joint v rm).mm 77 = some v ∧ u.awaiting = [(1, 9, [9])] ∧ (joint u rm).paired 9 = true := by decide +kernel

theorem meets_heartbeats :
    let l0 := { l0 with mods := [0, 8, 9], live := [0, 8, 9], beats := [(8, 240000)] }
    let s := { joint l0 rm with cycle := 360000 }
    let f := { l0 with leader := 9 }
    let t := { joint f rm with cycle := 360000 }
    let cut := { t with ports := [] }
    Say.launch s 77 l0 rm ∧ Say.silent s l0 9 ∧ ¬Say.silent { s with cycle := 359999 } l0 9 ∧ (9 : BitVec 12) ≠ s.ctrl.modno ∧ (9 : BitVec 12) ∈ l0.live ∧
    l0.leader = s.ctrl.modno ∧ l0.awaiting = [] ∧ l0.mods.length < 2 * Say.reached s l0 ∧ f.leader ≠ t.ctrl.modno ∧ f.leader ≠ 0 ∧
    Say.launch t 77 f rm ∧ f.leader = 9 ∧ f.mods.length < 2 * Say.reached t f ∧ (∀ v ∈ f.views, v.src ≠ t.ctrl.modno) ∧ f.minority = false ∧
    Say.launch cut 77 f rm ∧ 2 * Say.reached cut f ≤ f.mods.length := by
  unfold Say.launch Say.silent Say.reached; decide +kernel

/-- A view that module 0 alone is live. -/
def sees (src : BitVec 12) : View := { lid := 77, src := src, live := [0], top := 3 }

theorem meets_elections :
    let f := { l0 with leader := 9 }
    let g := { f with views := [sees 9] }
    (joint f rm).mm (sees 0).lid = some f ∧ f.lid = (sees 0).lid ∧ (∀ x ∈ f.views, x.src ≠ (sees 0).src) ∧
    (∃ x ∈ f.views ++ [sees 0], x.src = z.ctrl.modno) ∧ 2 * (f.views ++ [sees 0]).length ≤ f.mods.length ∧
    g.mods.length < 2 * (g.views ++ [sees 0]).length ∧ (∃ x ∈ g.views ++ [sees 0], x.src = z.ctrl.modno) ∧
    (g.mods.filter fun m => decide (g.mods.length < 2 * ((g.views ++ [sees 0]).filter fun x => x.live.contains m).length)) = 0 :: [] ∧
    (∀ x ∈ f.views ++ [sees 9], x.src ≠ z.ctrl.modno) ∧ (joint g rm).mm 77 = some g := by decide +kernel

/-! ### Boot, splices and power -/

/-- A block of 4096 bytes that is well formed, with a byte of its firmware digest. -/
def cfgBlock (fw : Byte) : List (Nat × Byte) :=
  [(0, 0x55), (1, 0x47), (2, 0x43), (3, 0x46), (9, 0x10)] ++ (if fw == 0 then [] else [(48, fw)]) ++ [(464, 1), (466, 1)]

/-- A module without power that has stored a block. -/
def stored (l : List (Nat × Byte)) (n : Nat) : State :=
  z.modCtrl fun c => { c with power := .off, config := l, cfgLen := n }

theorem meets_boots :
    z.ctrl.power ≠ .off ∧ (stored [] 0).ctrl.power = .off ∧ Say.blockFails (stored [] 0) (stored [] 0).cfg 1 ∧
    (∃ fw, (stored (cfgBlock fw) 4096).ctrl.power = .off ∧ Say.blockFails (stored (cfgBlock fw) 4096) (stored (cfgBlock fw) 4096).cfg 4) ∧
    cfgMap (stored (cfgBlock 0) 4096).cfg = 0 ∧ buildMap ((stored (cfgBlock 0) 4096).deadOf (stored (cfgBlock 0) 4096).cfg) = some [] := by
  refine ⟨by decide, rfl, .inl ⟨rfl, by decide +kernel⟩, ?_, by decide +kernel, by decide +kernel⟩
  by_cases h : cfgFw (stored (cfgBlock 0) 4096).cfg = beBytes 32 Config.firmwareDigest.toNat
  · refine ⟨1, rfl, .inr ⟨by decide +kernel, .inl ⟨rfl, fun h1 => ?_⟩⟩⟩
    have e : cfgFw (stored (cfgBlock 0) 4096).cfg = cfgFw (stored (cfgBlock 1) 4096).cfg := h.trans h1.symm
    revert e
    decide +kernel
  · exact ⟨0, rfl, .inr ⟨by decide +kernel, .inl ⟨rfl, h⟩⟩⟩

theorem meets_spare_choice :
    let spare := 72 * (homeIn [] 0 / 72) + 12 * (homeIn [] 0 % 72 / 12) + 5
    homeIn [] 0 < 6048 ∧ spare ∉ [homeIn [] 0] ∧ (∀ e ∈ ([] : List (Nat × Nat)), e.2 ≠ spare) ∧
    (∀ p, p < 4 → hopsIn (SMap.put [] 0 spare) 0 (neighbour 0 p) ≤ 8) := by decide +kernel

/-- A request to move tile 0. -/
def moving (spare : Option Nat) (stage due : Nat) : SpliceReq := { tile := 0, spare := spare, trigger := 0x80, home := 0, stage := stage, due := due, cmd := none }

/-- A module with a request. -/
def splicing (p : SpliceReq) (rs : List Region) : State := (within rs).modCtrl fun c => { c with splices := [p] }

/-- The place a check gives. -/
def placed (x : Except Nat Nat) : Option Nat := passed x

theorem meets_splices :
    let p := moving none 0 0
    let bad := moving (some 6048) 0 0
    let still := { r0 with flags := 16 }
    let ready := (splicing (moving none 2 1200000) [r0]).modCtl fun c => { c with frozen := true }
    z.ctrl.splices = [] ∧ (splicing p []).ctrl.splices = [p] ∧ p.tile < 5544 ∧ p.cmd = none ∧ p.trigger ≠ 0x31 ∧
    (splicing p []).regionAt p.tile = none ∧ (∀ r ∈ (splicing p []).ctrl.regions, r.has p.tile = false) ∧ p.stage = 0 ∧
    placed ((splicing p []).spareFor p) = some 5 ∧ 5 ≠ (splicing p []).home 0 ∧ placed ((splicing bad []).spareFor bad) = none ∧ (splicing bad []).ports = [] ∧
    (splicing p [{ r0 with state := .softSaving }]).regionAt p.tile = some { r0 with state := .softSaving } ∧
    (splicing p [r0]).regionAt p.tile = some r0 ∧ r0.state = .running ∧ r0.stat = false ∧ still.stat = true ∧
    (splicing p [still]).regionAt p.tile = some still ∧ (splicing (moving none 1 0) [r0]).regionAt 0 = some r0 ∧
    ((splicing (moving none 1 0) [r0]).tile 0).ctl.trap.hnd = false ∧ ((splicing (moving none 1 0) [r0]).tile 0).sync.canceling = false ∧
    ready.regionAt 0 = some r0 ∧ (ready.tile 0).ctl.frozen = true ∧ (ready.tile 0).winch.running = [] ∧ (ready.tile 0).fab.ramos = [] ∧
    placed (ready.spareFor (moving none 2 1200000)) = some 5 ∧ 1200000 ≤ { ready with cycle := 1200000 }.cycle ∧ ready.ports = [] ∧
    { ready with cycle := 1199999 }.cycle < 1200000 ∧ (∀ y ∈ (splicing p [still]).ctrl.regions, y.id = still.id → y = still) := by
  decide +kernel

theorem meets_management_commands :
    let s (o : Byte) (l : List (Nat × Byte)) := slot ((0, o) :: l) z
    let busy := (s 0x22 []).modCtrl fun c => { c with splices := [moving none 0 0] }
    let live := slot [(0, 0x24), (8, 3)] (within [r0])
    (∀ o ∈ ([0x20, 0x21, 0x22, 0x23, 0x24, 0x25, 0x26, 0x27] : List Byte), (s o []).ctrl.recovery = false ∧ (s o []).slotByte 1 2 0 = o ∧
      (s o []).slotByte 1 2 1 ≠ 1 ∧ (s o []).slotByte 1 2 5 = 0 ∧ (s o []).slotByte 1 2 6 = 0 ∧ (s o []).slotByte 1 2 7 = 0) ∧
    Say.field (s 0x21 [(8, 0xA8), (9, 0x15)]) 1 2 8 2 = 5544 ∧ Say.field (s 0x21 [(8, 0xA7), (9, 0x15), (10, 1)]) 1 2 8 2 = 5543 ∧
    Say.field (s 0x21 [(8, 0xA7), (9, 0x15), (10, 1)]) 1 2 10 1 = 1 ∧ busy.ctrl.splices ≠ [] ∧ (s 0x22 []).ctrl.splices = [] ∧
    (s 0x22 []).ctrl.regions = [] ∧ (s 0x22 []).ctrl.cfgLen = 0 ∧ buildMap ((s 0x22 []).deadOf []) = some [] ∧ 4 ≤ Say.field (s 0x24 [(8, 4)]) 1 2 8 1 ∧
    Say.field live 1 2 8 1 = 3 ∧ (∃ r ∈ live.ctrl.regions, r.live = true) ∧ Say.field (s 0x24 [(8, 1)]) 1 2 8 1 = 1 ∧
    (s 0x24 [(8, 1)]).ctrl.power ≠ .p1 ∧ Say.field (s 0x24 [(8, 2)]) 1 2 8 1 = 2 ∧ (∀ r ∈ (s 0x24 []).ctrl.regions, r.live = false) ∧
    (s 0x24 []).host.deferred = [] ∧ (s 0x25 []).slotWord 1 2 16 ≤ 2 ^ 20 ∧
    (∀ x ∈ (s 0x25 []).hostBytes ((s 0x25 []).slotWord 1 2 8) ((s 0x25 []).slotWord 1 2 16), x.2 = false) ∧ cfgFormed [] = false ∧
    (s 0x26 []).slotWord 1 2 8 % 4096 = 0 ∧ (s 0x26 [(8, 1)]).slotWord 1 2 8 % 4096 ≠ 0 ∧
    ofBytes (((s 0x27 []).hostBytes 8 4).map fun x => x.1) = 0 := by decide +kernel

/-- Tile 0 with a word of bad parity in bank 0, whose program came from address 0 of address space 1. -/
def faded (ent : Byte) (src : Option BankSource) : State :=
  (z.modFar fun f => { f with asids := [(1, 0x8400000000010000)], mem := [(0x10000, 0x01), (0x10002, 0x02), (0x20000, ent), (0x20003, 0x20)] }).modBuf
    fun b => { b with ispar := [(0x80000, true)], src0 := src }

/-- That program. -/
def source : BankSource := { asid := 1, va := 0, imgid := 5, idx := 0, off := 0, len := 64 }

theorem meets_store_refetch :
    SMap.get false z.t.buf.ispar 0x80000 = false ∧ SMap.get false (faded 0x27 none).t.buf.ispar 0x80000 = true ∧ (faded 0x27 none).t.buf.src0 = none ∧
    (faded 0x27 (some source)).t.buf.src0 = some source ∧ 0 % 0x8000 / 64 * 64 + 64 ≤ source.len ∧
    cleanBytes ((faded 0x27 (some source)).readFar 1 3 0 64).1 = some (List.replicate 64 0) ∧
    cleanBytes ((faded 0x07 (some source)).readFar 1 3 0 64).1 = none := by decide +kernel

/-! ### The whole machine -/

theorem meets_steps :
    (∀ x rest, ({ z with agenda := [.control 5543] } : State).agenda = x :: rest → x.tile < 5544) ∧
    ({ z with agenda := [.control 5544] } : State).agenda = .control 5544 :: [] ∧ 5544 ≤ (Turn.control 5544).tile := by
  refine ⟨fun x rest h => ?_, rfl, by decide⟩
  cases h
  decide

theorem meets_canonical_memories :
    Say.canonical z ∧ (∃ t, step z = .next t) ∧ Say.canonical { z with spares := [(5, Tile.reset)] } :=
  ⟨⟨rfl, rfl, by simp [z, State.reset], by simp [z, State.reset]⟩, ⟨_, rfl⟩,
    ⟨rfl, rfl, by simp [z, State.reset], by intro e h; rw [List.mem_singleton.mp h]; rfl⟩⟩

theorem meets_default_map : (83 : Nat) < 84 ∧ (65 : Nat) < 66 ∧ z.ctrl.phys = [] := by decide

end Sys2Proof.Tests
end

