-- ==== Sys2Proof/Tests/Words.lean ====
section
/-!
SUPPORT. Tests of the decoder: one word for every instruction that an encoding stands for, its fields set to values that tell them
apart, written out from the encoding tables of 02_bundles.md (R40-R58). The words are numbered as the opcode table numbers them.
-/

namespace Sys2Proof.Tests

open Sys2Proof Sys2Proof.Machine

theorem test_words_Scalar_1 : ∀ p ∈ ([
    (16, 0x0, .nop false false),
    (16, 0x8020, .nop true true),
    (48, 0xA60000AA2000, .add 21 10 19),
    (48, 0xA60001AA1000, .sub 21 10 19),
    (48, 0xA60003AA2000, .mul 21 10 19),
    (48, 0xA60004AA1000, .mulh 21 10 19),
    (48, 0xA60005AA2000, .mulhu 21 10 19),
    (48, 0xA60006AA1000, .div 21 10 19),
    (48, 0xA60007AA2000, .divu 21 10 19),
    (48, 0xA60008AA1000, .rem 21 10 19),
    (48, 0xA60009AA2000, .remu 21 10 19),
    (48, 0xA6000AAA1000, .min 21 10 19),
    (48, 0xA6000BAA2000, .max 21 10 19),
    (48, 0xA6000CAA1000, .minu 21 10 19),
    (48, 0xA6000DAA2000, .maxu 21 10 19),
    (48, 0xA60010AA1000, .and 21 10 19),
    (48, 0xA60011AA2000, .or 21 10 19),
    (48, 0xA60012AA1000, .xor 21 10 19),
    (48, 0xA60016AA2000, .shl 21 10 19),
    (48, 0xA60017AA1000, .shr 21 10 19),
    (48, 0xA60018AA2000, .sra 21 10 19),
    (48, 0xA60020AA1000, .seq 21 10 19),
    (48, 0xA60021AA2000, .sne 21 10 19),
    (48, 0xA60022AA1000, .slt 21 10 19)] : List (Nat × Nat × Instr)), decodeTableWord p.1 p.2.1 = some p.2.2 := by decide

theorem test_words_Scalar_2 : ∀ p ∈ ([
    (48, 0xA60023AA2000, .sltu 21 10 19),
    (48, 0xA60033AA1000, .addsh 21 10 19),
    (48, 0x7FFE02F12000, .addi 30 5 0x3FFE),
    (48, 0x523413F11000, .andi 30 5 0x1234),
    (48, 0x600114F12000, .ori 30 5 0x2001),
    (48, 0x4FF015F11000, .xori 30 5 0xFF0),
    (48, 0x600024F12000, .slti 30 5 0x2000),
    (48, 0x5FFF25F11000, .sltiu 30 5 0x1FFF),
    (48, 0x403F193A2000, .shli 7 9 63),
    (48, 0x40011A3A1000, .shri 7 9 1),
    (48, 0x40201B3A2000, .srai 7 9 32),
    (48, 0x80001C8C1000, .clz 17 18),
    (48, 0x80001D8C2000, .ctz 17 18),
    (48, 0x80001E8C1000, .popc 17 18),
    (48, 0x528232000, .wfld 4 12 5),
    (48, 0xC0C929171000, .bfx 2 31 3 9),
    (48, 0xCA172A172000, .bfxu 2 31 40 23),
    (48, 0xC03F2B171000, .bfins 2 31 0 63),
    (48, 0x2AAA30E82000, .li 29 0x2AAA),
    (112, 0xCDEF89AB45670123000031301040, .lix 6 0x0123456789ABCDEF),
    (112, 0x32107654BA98FEDC400032362040, .addx 6 25 0xFEDCBA9876543210),
    (48, 0x12338581000, .csrr 11 0x123),
    (48, 0x48A539032000, .csrw 0x8A5 13),
    (48, 0x48A53A031000, .csrs 0x8A5 13)] : List (Nat × Nat × Instr)), decodeTableWord p.1 p.2.1 = some p.2.2 := by decide

theorem test_words_Scalar_3 : ∀ p ∈ ([
    (48, 0x48A53B032000, .csrc 0x8A5 13),
    (48, 0x40701000, .accept 14)] : List (Nat × Nat × Instr)), decodeTableWord p.1 p.2.1 = some p.2.2 := by decide

theorem test_words_Branch : ∀ p ∈ ([
    (48, 0x800100000800, .jmp 0x8001),
    (48, 0x6C00800, .jmpr 22),
    (48, 0x7FFE08000800, .call 0x7FFE),
    (48, 0xD200800, .callr 9),
    (48, 0x10000800, .ret),
    (48, 0xFFF4228B0800, .beq 20 11 0xFFF4),
    (48, 0xFFF4268B0800, .bne 20 11 0xFFF4),
    (48, 0xFFF42A8B0800, .blt 20 11 0xFFF4),
    (48, 0xFFF42E8B0800, .bge 20 11 0xFFF4),
    (48, 0xFFF4328B0800, .bltu 20 11 0xFFF4),
    (48, 0xFFF4368B0800, .bgeu 20 11 0xFFF4),
    (48, 0xFFFB40600800, .loop 3 0xFFFB),
    (48, 0x2ABC44000800, .bswap 0x2ABC),
    (48, 0xA760000800, .trap 0xA7),
    (48, 0x64000800, .eret),
    (48, 0x68000800, .endp)] : List (Nat × Nat × Instr)), decodeTableWord p.1 p.2.1 = some p.2.2 := by decide

theorem test_words_ScalarMemory_1 : ∀ p ∈ ([
    (48, 0xB40102660400, .ldb { cls := 11, cbuf := false, xa := 6, off := 0x401 } 19),
    (48, 0xBC0206660400, .ldbu { cls := 11, cbuf := true, xa := 6, off := 0x402 } 19),
    (48, 0xB4030A660400, .ldh { cls := 11, cbuf := false, xa := 6, off := 0x403 } 19),
    (48, 0xBC040E660400, .ldhu { cls := 11, cbuf := true, xa := 6, off := 0x404 } 19),
    (48, 0xB40512660400, .ldw { cls := 11, cbuf := false, xa := 6, off := 0x405 } 19),
    (48, 0xBC0616660400, .ldwu { cls := 11, cbuf := true, xa := 6, off := 0x406 } 19),
    (48, 0xB4071A660400, .ldd { cls := 11, cbuf := false, xa := 6, off := 0x407 } 19),
    (48, 0xBC0822660400, .stb { cls := 11, cbuf := true, xa := 6, off := 0x408 } 19),
    (48, 0xB40926660400, .sth { cls := 11, cbuf := false, xa := 6, off := 0x409 } 19),
    (48, 0xBC0A2A660400, .stw { cls := 11, cbuf := true, xa := 6, off := 0x40A } 19),
    (48, 0xB40B2E660400, .std { cls := 11, cbuf := false, xa := 6, off := 0x40B } 19),
    (48, 0x568042660400, .amoadd { cls := 5, cbuf := false, xa := 6 } 19 26),
    (48, 0x5E8046660400, .amoand { cls := 5, cbuf := true, xa := 6 } 19 26),
    (48, 0x56804A660400, .amoor { cls := 5, cbuf := false, xa := 6 } 19 26),
    (48, 0x5E804E660400, .amoxor { cls := 5, cbuf := true, xa := 6 } 19 26),
    (48, 0x568052660400, .amomin { cls := 5, cbuf := false, xa := 6 } 19 26),
    (48, 0x5E8056660400, .amomax { cls := 5, cbuf := true, xa := 6 } 19 26),
    (48, 0x56805A660400, .amominu { cls := 5, cbuf := false, xa := 6 } 19 26),
    (48, 0x5E805E660400, .amomaxu { cls := 5, cbuf := true, xa := 6 } 19 26),
    (48, 0x568062660400, .amoswap { cls := 5, cbuf := false, xa := 6 } 19 26),
    (48, 0x5E8066660400, .amocas { cls := 5, cbuf := true, xa := 6 } 19 26),
    (48, 0xC3080150400, .chrsv 0xC3 21),
    (48, 0xC3084150400, .chrel 0xC3 21),
    (48, 0xC3088150400, .chwait 0xC3 21)] : List (Nat × Nat × Instr)), decodeTableWord p.1 p.2.1 = some p.2.2 := by decide

theorem test_words_ScalarMemory_2 : ∀ p ∈ ([
    (48, 0xC308EA00400, .chstat 21 0xC3),
    (48, 0x979A92470400, .ramo 9 18 7 .maxu true false 13)] : List (Nat × Nat × Instr)), decodeTableWord p.1 p.2.1 = some p.2.2 := by decide

theorem test_words_Winch : ∀ p ∈ ([
    (112, 0x4000015C000000000200, .wshp 5 3 17),
    (112, 0x4000015C000001000200, .wshrd 17 5 3),
    (112, 0xDE00577D9BA79B8D035C02A10200, .wcopy ({ wsem := 0xA1, wth := 3, ssem := 0x5C, sinc := 9, q := 2, ord := true }) 6 1 ({ cw := some (12, 27), cr := some 9 }) (some 0x55) true 0xBEEF),
    (112, 0xE00037DD6CDD9BAB035C03A10200, .whalo ({ wsem := 0xA1, wth := 3, ssem := 0x5C, sinc := 9, q := 2, ord := true }) 6 0b1010 true 5 ({ cw := some (12, 27), cr := some 9 }) 0xBEEF),
    (112, 0xBC00A6FBBB209B31035C04A10200, .wamo ({ wsem := 0xA1, wth := 3, ssem := 0x5C, sinc := 9, q := 2, ord := true }) .cas true 3 14 25 ({ cw := none, cr := some 9 }) 0xBEEF),
    (112, 0xBC00A6FBB81E9A61035C05A10200, .wamor ({ wsem := 0xA1, wth := 3, ssem := 0x5C, sinc := 9, q := 2, ord := true }) .xor false 3 14 0 30 ({ cw := none, cr := some 9 }) 0xBEEF),
    (112, 0xBC00A6FB9BB6035C06A10200, .wcrc ({ wsem := 0xA1, wth := 3, ssem := 0x5C, sinc := 9, q := 2, ord := true }) 6 true 22 ({ cw := none, cr := some 9 }) 0xBEEF),
    (112, 0x7780CDDFADA69B8D035C07A10200, .wfillw ({ wsem := 0xA1, wth := 3, ssem := 0x5C, sinc := 9, q := 2, ord := true }) 6 1 22 0x2D ({ cw := some (12, 27), cr := some 9 }) 0xBEEF),
    (112, 0xBEEFE9D59B66035C08A10200, .wsig ({ wsem := 0xA1, wth := 3, ssem := 0x5C, sinc := 9, q := 2, ord := true }) ({ cw := some (12, 27), cr := some 9 }) (some 0x55) 0xBEEF),
    (112, 0x9B80035C09A10200, .wflush ({ wsem := 0xA1, wth := 3, ssem := 0x5C, sinc := 9, q := 2, ord := true }) 3),
    (112, 0xF0009BEE9B6A035C0AA10200, .wtlbp ({ wsem := 0xA1, wth := 3, ssem := 0x5C, sinc := 9, q := 2, ord := true }) 22 2 ({ cw := none, cr := some 9 }) 0xBEEF),
    (112, 0xB00000AC00000B000200, .wrqcfgRq 2 22 11),
    (112, 0xB00001AC00000B000200, .wrqcfgCr 2 22 11),
    (112, 0xBBC0DA6F9A5A035C0CA10200, .wscrubInterval ({ wsem := 0xA1, wth := 3, ssem := 0x5C, sinc := 9, q := 2, ord := true }) 22 0x2D ({ cw := none, cr := some 9 }) 0xBEEF),
    (112, 0xBBC0DA6F9ADA035C0CA10200, .wscrubNow ({ wsem := 0xA1, wth := 3, ssem := 0x5C, sinc := 9, q := 2, ord := true }) 22 0x2D ({ cw := none, cr := some 9 }) 0xBEEF),
    (112, 0xBBC0DA6F9B5A035C0CA10200, .wscrubDrop ({ wsem := 0xA1, wth := 3, ssem := 0x5C, sinc := 9, q := 2, ord := true }) 22 0x2D ({ cw := none, cr := some 9 }) 0xBEEF),
    (112, 0x16000000D000200, .wstat 22)] : List (Nat × Nat × Instr)), decodeTableWord p.1 p.2.1 = some p.2.2 := by decide

theorem test_words_Halyard : ∀ p ∈ ([
    (64, 0x3C606AB501690100, .dispatch 0x5A5A 21 true false 0x29 true 0xC6),
    (64, 0x500005750100, .mask 11 21 10),
    (64, 0x9750100, .param 11 (.reg 21)),
    (128, 0xCDEF89AB45670123000000000AC00140, .param 6 (.imm 0x0123456789ABCDEF)),
    (64, 0xA0000D760100, .scfg 11 5 21),
    (64, 0x11400100, .ldepth 80),
    (64, 0x153C0100, .rbset 79),
    (64, 0x19500100, .rseed 21)] : List (Nat × Nat × Instr)), decodeTableWord p.1 p.2.1 = some p.2.2 := by decide

theorem test_words_Sync : ∀ p ∈ ([
    (48, 0x6801000C0080, .semsig ({ lane := false, guard := none }) 0xC6 0x801),
    (48, 0x680103BC8080, .semsig ({ lane := true, guard := some { g := 13, sn := true } }) 0xC6 0x801),
    (48, 0x6A80040C0080, .semwait 0xC6 21),
    (48, 0x6A80080C0080, .semset 0xC6 21),
    (48, 0x6A800C0C0080, .semrd 21 0xC6),
    (48, 0xA000100A0080, .arrive ({ lane := false, guard := none }) 0x55),
    (48, 0xA000100A8080, .arrive ({ lane := true, guard := none }) 0x55),
    (48, 0xA000140A0080, .wait 0x55),
    (48, 0xA000180A0080, .arrwait 0x55),
    (48, 0xB5541C0A0080, .barset 21 0x55 10 true),
    (48, 0xAA74200A0080, .waita 21 10 19 true false true),
    (48, 0x8000240A0080, .waitt 21),
    (48, 0x8000280A0080, .rdtime 21),
    (48, 0x30000080, .phbegin),
    (48, 0x34000080, .phcommit),
    (48, 0x38000080, .phcancel),
    (48, 0x44000080, .ifence),
    (48, 0x5C30400A0080, .fence ({ lane := false, guard := none }) 0xA5C3),
    (48, 0x5C3043BA8080, .fence ({ lane := true, guard := some { g := 13, sn := true } }) 0xA5C3),
    (48, 0xC000480A0080, .digrd 21 true),
    (48, 0xC0004C0A0080, .digset 21 true)] : List (Nat × Nat × Instr)), decodeTableWord p.1 p.2.1 = some p.2.2 := by decide

theorem test_words_Reduction : ∀ p ∈ ([
    (48, 0x6AA0600B0080, .collb 45 21 10),
    (48, 0x6AA0640B0080, .collopen 45 21 10),
    (48, 0x4000680B0080, .collabt 45),
    (48, 0x6A006C0B0080, .collst 21 45),
    (64, 0xB400720043378100, .collv ({ guard := some { g := 9, sn := true }, w := .w512, cls := 13 }) 100 45),
    (64, 0xB4024000473B8100, .collq ({ guard := some { g := 9, sn := true }, w := .w1024, cls := 13 }) 2 45)] : List (Nat × Nat × Instr)), decodeTableWord p.1 p.2.1 = some p.2.2 := by decide

theorem test_words_Vector_1 : ∀ p ∈ ([
    (80, 0x28003E80193900B1A000, .vadd ({ guard := some { g := 6, sn := false }, w := .w512 }) 73 100 125 .i16 true true),
    (80, 0x38003E80193901B19000, .vsub ({ guard := some { g := 6, sn := false }, w := .w512 }) 73 100 125 .i32 true true),
    (80, 0x48003E80193902B1A000, .vmul ({ guard := some { g := 6, sn := false }, w := .w512 }) 73 100 125 .i64 true true),
    (80, 0x18003E80093903B19000, .vmulh ({ guard := some { g := 6, sn := false }, w := .w512 }) 73 100 125 .i8 true),
    (80, 0x20003EAA193904B1A000, .vmad ({ guard := some { g := 6, sn := false }, w := .w512 }) 73 100 125 42 .i16 false true),
    (80, 0x30000000193905B19000, .vneg ({ guard := some { g := 6, sn := false }, w := .w512 }) 73 100 .i32 true),
    (80, 0x40000000193906B1A000, .vabs ({ guard := some { g := 6, sn := false }, w := .w512 }) 73 100 .i64 true),
    (80, 0x18003EAA093907B19000, .vdot4 ({ guard := some { g := 6, sn := false }, w := .w512 }) 73 100 125 42 true false),
    (80, 0x10003E80093908B1A000, .vmin ({ guard := some { g := 6, sn := false }, w := .w512 }) 73 100 125 .i8),
    (80, 0x20003E80093909B19000, .vmax ({ guard := some { g := 6, sn := false }, w := .w512 }) 73 100 125 .i16),
    (80, 0x30003E8009390AB1A000, .vminu ({ guard := some { g := 6, sn := false }, w := .w512 }) 73 100 125 .i32),
    (80, 0x40003E8009390BB19000, .vmaxu ({ guard := some { g := 6, sn := false }, w := .w512 }) 73 100 125 .i64),
    (80, 0x10003E80093918B1A000, .vshl ({ guard := some { g := 6, sn := false }, w := .w512 }) 73 100 125 .i8),
    (80, 0x20003E80093919B19000, .vshr ({ guard := some { g := 6, sn := false }, w := .w512 }) 73 100 125 .i16),
    (80, 0x30003E8009391AB1A000, .vsra ({ guard := some { g := 6, sn := false }, w := .w512 }) 73 100 125 .i32),
    (80, 0x3E80093910029000, .vand ({ guard := none, w := .w1024 }) 73 100 125),
    (80, 0x3E8009391102A000, .vor ({ guard := none, w := .w1024 }) 73 100 125),
    (80, 0x3E80093912029000, .vxor ({ guard := none, w := .w1024 }) 73 100 125),
    (80, 0x3E8009391302A000, .vandn ({ guard := none, w := .w1024 }) 73 100 125),
    (80, 0x93914B19000, .vnot ({ guard := some { g := 6, sn := false }, w := .w512 }) 73 100),
    (80, 0x3EAA093915B1A000, .vbsel ({ guard := some { g := 6, sn := false }, w := .w512 }) 73 100 125 42),
    (80, 0x40000000093916B19000, .vpopc ({ guard := some { g := 6, sn := false }, w := .w512 }) 73 100 .i64),
    (80, 0x10000000093917B1A000, .vclz ({ guard := some { g := 6, sn := false }, w := .w512 }) 73 100 .i8),
    (80, 0x403F000009391BB19000, .vshli ({ guard := some { g := 6, sn := false }, w := .w512 }) 73 100 .i64 63)] : List (Nat × Nat × Instr)), decodeTableWord p.1 p.2.1 = some p.2.2 := by decide

theorem test_words_Vector_2 : ∀ p ∈ ([
    (80, 0x200F000009391CB1A000, .vshri ({ guard := some { g := 6, sn := false }, w := .w512 }) 73 100 .i16 15),
    (80, 0x1007000009391DB19000, .vsrai ({ guard := some { g := 6, sn := false }, w := .w512 }) 73 100 .i8 7),
    (80, 0x20003E80017920CCA000, .vcmpeq ({ guard := some { g := 9, sn := true }, w := .w256 }) 11 100 125 .i16),
    (80, 0x30003E80017921CC9000, .vcmpne ({ guard := some { g := 9, sn := true }, w := .w256 }) 11 100 125 .i32),
    (80, 0x40003E80017922CCA000, .vcmplt ({ guard := some { g := 9, sn := true }, w := .w256 }) 11 100 125 .i64),
    (80, 0x10003E80017923CC9000, .vcmple ({ guard := some { g := 9, sn := true }, w := .w256 }) 11 100 125 .i8),
    (80, 0x20003E80017924CCA000, .vcmpltu ({ guard := some { g := 9, sn := true }, w := .w256 }) 11 100 125 .i16),
    (80, 0x30003E80017925CC9000, .vcmpleu ({ guard := some { g := 9, sn := true }, w := .w256 }) 11 100 125 .i32)] : List (Nat × Nat × Instr)), decodeTableWord p.1 p.2.1 = some p.2.2 := by decide

theorem test_words_VectorFloat : ∀ p ∈ ([
    (80, 0x60003E80593940B1A000, .vfadd ({ guard := some { g := 6, sn := false }, w := .w512 }) 73 100 125 .bf16 .rdn true),
    (80, 0x70003E80793941B19000, .vfmul ({ guard := some { g := 6, sn := false }, w := .w512 }) 73 100 125 .f16 .rup true),
    (80, 0x80003E80993942B1A000, .vfsub ({ guard := some { g := 6, sn := false }, w := .w512 }) 73 100 125 .e4m3 .sr true),
    (80, 0x90003E80B9394FB19000, .vfscale ({ guard := some { g := 6, sn := false }, w := .w512 }) 73 100 125 .e5m2 .dyn true),
    (80, 0x50003EAA393943B1A000, .vfma ({ guard := some { g := 6, sn := false }, w := .w512 }) 73 100 125 42 .f32 .rtz true),
    (80, 0x60003EAA593944B19000, .vfms ({ guard := some { g := 6, sn := false }, w := .w512 }) 73 100 125 42 .bf16 .rdn true),
    (80, 0x70003EAA793945B1A000, .vfnma ({ guard := some { g := 6, sn := false }, w := .w512 }) 73 100 125 42 .f16 .rup true),
    (80, 0x80003E80093946B19000, .vfmin ({ guard := some { g := 6, sn := false }, w := .w512 }) 73 100 125 .e4m3),
    (80, 0x90003E80093947B1A000, .vfmax ({ guard := some { g := 6, sn := false }, w := .w512 }) 73 100 125 .e5m2),
    (80, 0x50000000093948B19000, .vfabs ({ guard := some { g := 6, sn := false }, w := .w512 }) 73 100 .f32),
    (80, 0x60000000093949B1A000, .vfneg ({ guard := some { g := 6, sn := false }, w := .w512 }) 73 100 .bf16),
    (80, 0x70003E8001794AB19000, .vfcmpeq ({ guard := some { g := 6, sn := false }, w := .w512 }) 11 100 125 .f16),
    (80, 0x80003E8001794BB1A000, .vfcmplt ({ guard := some { g := 6, sn := false }, w := .w512 }) 11 100 125 .e4m3),
    (80, 0x90003E8001794CB19000, .vfcmple ({ guard := some { g := 6, sn := false }, w := .w512 }) 11 100 125 .e5m2),
    (80, 0x50003E8001794DB1A000, .vfcmpun ({ guard := some { g := 6, sn := false }, w := .w512 }) 11 100 125 .f32),
    (80, 0x7155000001794EB19000, .vfclass ({ guard := some { g := 6, sn := false }, w := .w512 }) 11 100 .f16 0x155),
    (80, 0x600000009939C0B1A000, .vrcp ({ guard := some { g := 6, sn := false }, w := .w512 }) 73 100 .bf16 .sr true),
    (80, 0x60000000B939C1B19000, .vrsq ({ guard := some { g := 6, sn := false }, w := .w512 }) 73 100 .bf16 .dyn true),
    (80, 0x600000003939C2B1A000, .vsqrt ({ guard := some { g := 6, sn := false }, w := .w512 }) 73 100 .bf16 .rtz true),
    (80, 0x600000005939C3B19000, .vexp2 ({ guard := some { g := 6, sn := false }, w := .w512 }) 73 100 .bf16 .rdn true),
    (80, 0x600000007939C4B1A000, .vlog2 ({ guard := some { g := 6, sn := false }, w := .w512 }) 73 100 .bf16 .rup true),
    (80, 0x600000009939C5B19000, .vtanh ({ guard := some { g := 6, sn := false }, w := .w512 }) 73 100 .bf16 .sr true),
    (80, 0x60000000B939C6B1A000, .vsigm ({ guard := some { g := 6, sn := false }, w := .w512 }) 73 100 .bf16 .dyn true)] : List (Nat × Nat × Instr)), decodeTableWord p.1 p.2.1 = some p.2.2 := by decide

theorem test_words_VectorConvert : ∀ p ∈ ([
    (80, 0x5000000793980B19000, .vcvt ({ guard := some { g := 6, sn := false }, w := .w512 }) 73 100 .i4 .f32 false .rup true),
    (80, 0x14800000093980B1A000, .vcvt ({ guard := some { g := 6, sn := false }, w := .w512 }) 73 100 .i8 .i64 true .rne false),
    (80, 0xA6004000993F81B19000, .vcvthb ({ guard := some { g := 6, sn := false }, w := .w512 }) 73 125 .bf16 .sr true),
    (80, 0x72004000AFB282B1A000, .vcvtfhb ({ guard := some { g := 6, sn := false }, w := .w512 }) 125 73 .f16 2 .dyn),
    (80, 0xA0000000493983B19000, .vcvtmx ({ guard := some { g := 6, sn := false }, w := .w512 }) 73 100 .rdn),
    (80, 0xA0000000493984B1A000, .vcvtxm ({ guard := some { g := 6, sn := false }, w := .w512 }) 73 100 .rdn),
    (80, 0x60000000393985B19000, .vcvtscl ({ guard := some { g := 6, sn := false }, w := .w512 }) 73 100 .bf16 false .rtz true),
    (80, 0x48000000093985B1A000, .vcvtscl ({ guard := some { g := 6, sn := false }, w := .w512 }) 73 100 .i64 true .rne false)] : List (Nat × Nat × Instr)), decodeTableWord p.1 p.2.1 = some p.2.2 := by decide

theorem test_words_VectorPermute_1 : ∀ p ∈ ([
    (80, 0x40003EAA0939A0B19000, .vperm ({ guard := some { g := 6, sn := false }, w := .w512 }) 73 100 125 42 .i64),
    (80, 0x1B00000939A1B1A000, .vshuf ({ guard := some { g := 6, sn := false }, w := .w512 }) 73 100 0x1B),
    (80, 0x103F00000939A2B19000, .vrot ({ guard := some { g := 6, sn := false }, w := .w512 }) 73 100 .i8 63),
    (80, 0x10403E800939A3B1A000, .vslide ({ guard := some { g := 6, sn := false }, w := .w512 }) 73 100 125 .i8 64),
    (80, 0x10003E800939A4B19000, .vzipl ({ guard := some { g := 6, sn := false }, w := .w512 }) 73 100 125 .i8),
    (80, 0x20003E800939A5B1A000, .vziph ({ guard := some { g := 6, sn := false }, w := .w512 }) 73 100 125 .i16),
    (80, 0x30003E800939A6B19000, .vuzpe ({ guard := some { g := 6, sn := false }, w := .w512 }) 73 100 125 .i32),
    (80, 0x40003E800939A7B1A000, .vuzpo ({ guard := some { g := 6, sn := false }, w := .w512 }) 73 100 125 .i64),
    (80, 0x107F00000939A8B29000, .vbcst ({ guard := some { g := 6, sn := false }, w := .w1024 }) 73 100 .i8 127),
    (80, 0x100007000939A9B1A000, .vcmpr ({ guard := some { g := 6, sn := false }, w := .w512 }) 73 100 14 .i8),
    (80, 0x200007000939AAB19000, .vexpd ({ guard := some { g := 6, sn := false }, w := .w512 }) 73 100 14 .i16),
    (80, 0x20013E800939ABB1A000, .vtrn ({ guard := some { g := 6, sn := false }, w := .w512 }) 73 100 125 .i16 true),
    (80, 0x500000009939B0B19000, .vred ({ guard := some { g := 6, sn := false }, w := .w512 }) 73 100 .f32 .sum false .sr true),
    (80, 0x380200000939B2B1A000, .vscan ({ guard := some { g := 6, sn := false }, w := .w512 }) 73 100 .i32 .min true .rne false),
    (80, 0x5800002A7939B1B29000, .vredx ({ guard := some { g := 6, sn := false }, w := .w1024 }) 73 100 42 true .rup true),
    (80, 0x939D0B1A000, .vmov ({ guard := some { g := 6, sn := false }, w := .w512 }) 73 100),
    (144, 0xCDEF89AB45670123000000000920D1B19040, .vmovx ({ guard := some { g := 6, sn := false }, w := .w512 }) 73 0x0123456789ABCDEF),
    (80, 0x300000920D2B2A000, .vpoprq ({ guard := some { g := 6, sn := false }, w := .w1024 }) 73 3),
    (80, 0x920D3B19000, .vrnd ({ guard := some { g := 6, sn := false }, w := .w512 }) 73),
    (80, 0x47000161D4B1A000, .pand ({ guard := some { g := 6, sn := false }, w := .w512 }) 11 5 14),
    (80, 0x47000161D5B19000, .por ({ guard := some { g := 6, sn := false }, w := .w512 }) 11 5 14),
    (80, 0x47000161D6B1A000, .pxor ({ guard := some { g := 6, sn := false }, w := .w512 }) 11 5 14),
    (80, 0x47000161D7B19000, .pandn ({ guard := some { g := 6, sn := false }, w := .w512 }) 11 5 14),
    (80, 0x200000000179D8B1A000, .vtop ({ guard := some { g := 6, sn := false }, w := .w512 }) 11 100 .i16)] : List (Nat × Nat × Instr)), decodeTableWord p.1 p.2.1 = some p.2.2 := by decide

theorem test_words_VectorPermute_2 : ∀ p ∈ ([
    (80, 0x400040000921D9B19000, .ptov ({ guard := some { g := 6, sn := false }, w := .w512 }) 73 5 .i64)] : List (Nat × Nat × Instr)), decodeTableWord p.1 p.2.1 = some p.2.2 := by decide

theorem test_words_Matrix : ∀ p ∈ ([
    (48, 0x554006FF8800, .mpushb (some { g := 11, sn := true }) 125 false 0x55),
    (48, 0x20000EE08800, .mpushbz (some { g := 11, sn := true }) true 0),
    (48, 0x16E08800, .mflip (some { g := 11, sn := true })),
    (48, 0x36E08800, .mshift (some { g := 11, sn := true })),
    (48, 0x2B601EF98800, .mpusha (some { g := 11, sn := true }) 100 2 45 true),
    (48, 0x2B5326F98800, .mpushas (some { g := 11, sn := true }) 100 2 45 19),
    (48, 0x2ED02EF98800, .mpushan (some { g := 11, sn := true }) 100 2 true true 45),
    (48, 0xB4003EEC8800, .mdrain (some { g := 11, sn := true }) 1 2 false 45),
    (48, 0xB40046EC8800, .mdrainz (some { g := 11, sn := true }) 1 2 false 45),
    (48, 0xD0004EF28800, .mzero (some { g := 11, sn := true }) 2 false 45),
    (48, 0x600056F28800, .mchk (some { g := 11, sn := true }) 73 true),
    (48, 0xF6005EEC8800, .mcfg (some { g := 11, sn := true }) .bf16 .f16 2 true true)] : List (Nat × Nat × Instr)), decodeTableWord p.1 p.2.1 = some p.2.2 := by decide

theorem test_words_LoadStore : ∀ p ∈ ([
    (64, 0x64FA03378400, .vld ({ guard := some { g := 9, sn := true }, w := .w512, cls := 13 }) 73 122),
    (64, 0x2B0064AA07378400, .vldx ({ guard := some { g := 9, sn := true }, w := .w512, cls := 13 }) 73 42 .d 11),
    (64, 0xF8164FA0B378400, .vldb ({ guard := some { g := 9, sn := true }, w := .w512, cls := 13 }) 73 122 0xF81),
    (64, 0x45FA0F338400, .pld ({ guard := some { g := 9, sn := true }, w := .w256, cls := 13 }) 11 122),
    (64, 0xABC864AA43378400, .vamoor ({ guard := some { g := 9, sn := true }, w := .w512, cls := 13 }) 73 42 true true 11 100),
    (64, 0xABC864AA47378400, .vamoand ({ guard := some { g := 9, sn := true }, w := .w512, cls := 13 }) 73 42 true true 11 100),
    (64, 0xABC864AA4B378400, .vamoxor ({ guard := some { g := 9, sn := true }, w := .w512, cls := 13 }) 73 42 true true 11 100),
    (64, 0xABC864AA4F378400, .vamoadd ({ guard := some { g := 9, sn := true }, w := .w512, cls := 13 }) 73 42 true true 11 100),
    (64, 0xABC864AA53378400, .vamomin ({ guard := some { g := 9, sn := true }, w := .w512, cls := 13 }) 73 42 true true 11 100),
    (64, 0xABC864AA57378400, .vamomax ({ guard := some { g := 9, sn := true }, w := .w512, cls := 13 }) 73 42 true true 11 100),
    (64, 0xABC864AA5B378400, .vamoxchg ({ guard := some { g := 9, sn := true }, w := .w512, cls := 13 }) 73 42 true true 11 100),
    (64, 0xABC864AA5F378400, .vamocas ({ guard := some { g := 9, sn := true }, w := .w512, cls := 13 }) 73 42 true true 11 100),
    (64, 0x64FA03378200, .vst ({ guard := some { g := 9, sn := true }, w := .w512, cls := 13 }) 73 122),
    (64, 0xB0064AA07378200, .vstx ({ guard := some { g := 9, sn := true }, w := .w512, cls := 13 }) 73 42 .h 11),
    (64, 0x45FA0B338200, .pst ({ guard := some { g := 9, sn := true }, w := .w256, cls := 13 }) 11 122),
    (64, 0x417A0F3B8200, .rqst ({ guard := some { g := 9, sn := true }, w := .w1024, cls := 13 }) 2 122)] : List (Nat × Nat × Instr)), decodeTableWord p.1 p.2.1 = some p.2.2 := by decide

theorem test_words_Fabric : ∀ p ∈ ([
    (64, 0xC300720003378100, .fsend ({ guard := some { g := 9, sn := true }, w := .w512, cls := 13 }) 100 0xC3),
    (64, 0xC3024000073B8100, .fsendq ({ guard := some { g := 9, sn := true }, w := .w1024, cls := 13 }) 2 0xC3),
    (64, 0xC35A72000B378100, .fsends ({ guard := some { g := 9, sn := true }, w := .w512, cls := 13 }) 100 0xC3 0x5A),
    (64, 0xC30064800F378100, .frecv ({ guard := some { g := 9, sn := true }, w := .w512, cls := 13 }) 73 0xC3),
    (64, 0xC300648013378100, .frecvt ({ guard := some { g := 9, sn := true }, w := .w512, cls := 13 }) 73 0xC3)] : List (Nat × Nat × Instr)), decodeTableWord p.1 p.2.1 = some p.2.2 := by decide


end Sys2Proof.Tests
end

section
/-!
The default map (01_module.md R16, R17). Columns and ordinary rows are folded by one and the same function, and a row then steps over the
spare row of its field. What is said of the map is said here of these two functions, one coordinate at a time.
-/

namespace Sys2Proof.Machine

open Sys2Proof

/-! ### The fold of a ring -/

/-- The fold of R16 for a ring of 2h numbers: the first half takes the even places going out, the second the odd ones coming back. -/
def ringFold (h k : Nat) : Nat := if k < h then 2 * k else 2 * (2 * h - 1 - k) + 1

theorem ringFold_lt {h k : Nat} (hk : k < 2 * h) : ringFold h k < 2 * h := by
  unfold ringFold
  split <;> omega

theorem ringFold_injective {h j k : Nat} (hj : j < 2 * h) (hk : k < 2 * h) (he : ringFold h j = ringFold h k) : j = k := by
  unfold ringFold at he
  split at he <;> split at he <;> omega

/-- The two turns of the fold are adjacent places; every other step round the ring is two places long. -/
theorem absDiff_ringFold_succ {h k : Nat} (hk : k < 2 * h) :
    absDiff (ringFold h k) (ringFold h ((k + 1) % (2 * h))) = if k + 1 = h ∨ k + 1 = 2 * h then 1 else 2 := by
  by_cases hlast : k + 1 = 2 * h
  · have hback : ¬ k < h := by omega
    have hzero : 0 < h := by omega
    simp only [hlast, Nat.mod_self, ringFold, absDiff, hback, hzero, or_true, if_true, if_false]
    omega
  · have hnext : (k + 1) % (2 * h) = k + 1 := Nat.mod_eq_of_lt (by omega)
    simp only [hnext, ringFold, absDiff]
    split_ifs <;> omega

/-! ### The step over the spare row -/

/-- The physical row of an ordinary row (R16): fields of twelve rows, of which the sixth is spare. -/
def skipSpare (o : Nat) : Nat := if o % 11 < 5 then 12 * (o / 11) + o % 11 else 12 * (o / 11) + o % 11 + 1

/-- An ordinary row moves up by the number of spare rows before it. -/
theorem skipSpare_eq_add (o : Nat) : skipSpare o = o + (o + 6) / 11 := by
  unfold skipSpare
  split <;> omega

theorem skipSpare_lt {o : Nat} (ho : o < 66) : skipSpare o < 72 := by
  rw [skipSpare_eq_add]
  omega

theorem skipSpare_mod_ne (o : Nat) : skipSpare o % 12 ≠ 5 := by
  unfold skipSpare
  split <;> omega

theorem skipSpare_injective {a b : Nat} (h : skipSpare a = skipSpare b) : a = b := by
  rw [skipSpare_eq_add, skipSpare_eq_add] at h
  omega

/-- Rows at most two apart have at most one spare row between them. -/
theorem absDiff_skipSpare {a b : Nat} (hpos : 1 ≤ absDiff a b) (htwo : absDiff a b ≤ 2) :
    1 ≤ absDiff (skipSpare a) (skipSpare b) ∧ absDiff (skipSpare a) (skipSpare b) ≤ 3 := by
  simp only [skipSpare_eq_add, absDiff] at *
  omega

/-! ### Logical and physical coordinates -/

@[simp] theorem absDiff_self (a : Nat) : absDiff a a = 0 := by simp [absDiff]

theorem tileX_lt (t : Nat) : tileX t < 84 := Nat.mod_lt t (by decide)

theorem tileY_lt {t : Nat} (ht : t < 5544) : tileY t < 66 := Nat.div_lt_of_lt_mul ht

theorem tileX_of_coordinates {x : Nat} (y : Nat) (hx : x < 84) : tileX (84 * y + x) = x := by
  unfold tileX
  omega

theorem tileY_of_coordinates {x : Nat} (y : Nat) (hx : x < 84) : tileY (84 * y + x) = y := by
  unfold tileY
  omega

theorem neighbour_east {x : Nat} (y : Nat) (hx : x < 84) : neighbour (84 * y + x) 1 = 84 * y + (x + 1) % 84 := by
  simp only [neighbour, tileX_of_coordinates y hx, tileY_of_coordinates y hx]

theorem neighbour_south {x : Nat} (y : Nat) (hx : x < 84) : neighbour (84 * y + x) 2 = 84 * ((y + 1) % 66) + x := by
  simp only [neighbour, tileX_of_coordinates y hx, tileY_of_coordinates y hx]

/-- The physical column the default map gives a logical one. -/
def foldedColumn (x : Nat) : Nat := ringFold 42 x

/-- The physical row the default map gives a logical one. -/
def foldedRow (y : Nat) : Nat := skipSpare (ringFold 33 y)

theorem foldedColumn_lt {x : Nat} (hx : x < 84) : foldedColumn x < 84 := ringFold_lt hx

theorem foldedRow_lt {y : Nat} (hy : y < 66) : foldedRow y < 72 := skipSpare_lt (ringFold_lt hy)

theorem foldedColumn_injective {a b : Nat} (ha : a < 84) (hb : b < 84) (h : foldedColumn a = foldedColumn b) : a = b :=
  ringFold_injective ha hb h

theorem foldedRow_injective {a b : Nat} (ha : a < 66) (hb : b < 66) (h : foldedRow a = foldedRow b) : a = b :=
  ringFold_injective ha hb (skipSpare_injective h)

/-- R17: a column link spans two hops, and one at the two turns of the fold. -/
theorem absDiff_foldedColumn_succ {x : Nat} (hx : x < 84) :
    absDiff (foldedColumn x) (foldedColumn ((x + 1) % 84)) = if x = 41 ∨ x = 83 then 1 else 2 := by
  simpa [foldedColumn] using absDiff_ringFold_succ (h := 42) hx

/-- R17: a row link spans one, two or three hops. -/
theorem absDiff_foldedRow_succ {y : Nat} (hy : y < 66) :
    1 ≤ absDiff (foldedRow y) (foldedRow ((y + 1) % 66)) ∧ absDiff (foldedRow y) (foldedRow ((y + 1) % 66)) ≤ 3 := by
  have hfold : absDiff (ringFold 33 y) (ringFold 33 ((y + 1) % 66)) = _ := absDiff_ringFold_succ hy
  refine absDiff_skipSpare ?_ ?_ <;> rw [hfold] <;> split <;> decide

/-! ### Homes and hops under the default map -/

theorem defaultHome_eq (t : Nat) : defaultHome t = 72 * foldedColumn (tileX t) + foldedRow (tileY t) := rfl

section
variable {s : State} (hmap : s.ctrl.phys = [])
include hmap

theorem State.home_of_default_map (t : Nat) : s.home t = 72 * foldedColumn (tileX t) + foldedRow (tileY t) := by
  simp [State.home, hmap, SMap.find?, defaultHome_eq]

theorem State.home_of_coordinates {x : Nat} (y : Nat) (hx : x < 84) : s.home (84 * y + x) = 72 * foldedColumn x + foldedRow y := by
  rw [State.home_of_default_map hmap, tileX_of_coordinates y hx, tileY_of_coordinates y hx]

/-- The hops between two logical tiles are those between their columns and those between their rows. -/
theorem State.hops_of_coordinates {x y x' y' : Nat} (hx : x < 84) (hy : y < 66) (hx' : x' < 84) (hy' : y' < 66) :
    s.hops (84 * y + x) (84 * y' + x') = absDiff (foldedColumn x) (foldedColumn x') + absDiff (foldedRow y) (foldedRow y') := by
  have hrow := foldedRow_lt hy
  have hrow' := foldedRow_lt hy'
  simp only [State.hops, State.home_of_coordinates hmap _ hx, State.home_of_coordinates hmap _ hx']
  congr 2 <;> omega

/-- R16: the default map is one-to-one on the tiles of the module. -/
theorem State.home_injective_of_default_map {t u : Nat} (ht : t < 5544) (hu : u < 5544) (h : s.home t = s.home u) : t = u := by
  rw [State.home_of_default_map hmap, State.home_of_default_map hmap] at h
  have hrowt := foldedRow_lt (tileY_lt ht)
  have hrowu := foldedRow_lt (tileY_lt hu)
  have hX : tileX t = tileX u := foldedColumn_injective (tileX_lt t) (tileX_lt u) (by omega)
  have hY : tileY t = tileY u := foldedRow_injective (tileY_lt ht) (tileY_lt hu) (by omega)
  unfold tileX at hX
  unfold tileY at hY
  omega

theorem State.hops_east {x y : Nat} (hx : x < 84) (hy : y < 66) :
    s.hops (84 * y + x) (neighbour (84 * y + x) 1) = if x = 41 ∨ x = 83 then 1 else 2 := by
  rw [neighbour_east y hx, State.hops_of_coordinates hmap hx hy (Nat.mod_lt _ (by decide)) hy, absDiff_self,
    Nat.add_zero, absDiff_foldedColumn_succ hx]

theorem State.hops_south {x y : Nat} (hx : x < 84) (hy : y < 66) :
    s.hops (84 * y + x) (neighbour (84 * y + x) 2) = absDiff (foldedRow y) (foldedRow ((y + 1) % 66)) := by
  rw [neighbour_south y hx, State.hops_of_coordinates hmap hx hy hx (Nat.mod_lt _ (by decide)), absDiff_self, Nat.zero_add]

end

/-- Settles O57: the fold of each coordinate is one-to-one with steps of one or two, and the spare rows lengthen a row link by at most one. -/
theorem defaultMap : Obligations.DefaultMap := by
  intro s x y hx hy hmap o px py
  have hrow := absDiff_foldedRow_succ hy
  rw [← State.hops_south hmap hx hy] at hrow
  exact ⟨State.home_of_coordinates hmap y hx, foldedColumn_lt hx, foldedRow_lt hy, skipSpare_mod_ne _,
    fun t ht h => State.home_injective_of_default_map hmap ht (by omega) h, State.hops_east hmap hx hy, hrow⟩

end Sys2Proof.Machine
end

section
/-!
The control of the matrix array (09_matrix.md R261-R270): how a whole MX slot ends, what reads and writes of frame rows do to the bytes of
C, and the instructions MFLIP, MDRAIN, MDRAINZ, MZERO, MCHK and MCFG on top of these.
-/

namespace Sys2Proof.Machine

open Sys2Proof

/-! ### The end of a slot -/

/-- A state whose slot has passed its closing checks: an instruction that issues alone leaves no bundle behind. -/
def State.slotClosed (s : State) : State := if s.bun.active then s else { s with bun := Bun.none }

@[simp] theorem State.slotClosed_t (s : State) : s.slotClosed.t = s.t := by
  unfold State.slotClosed
  split <;> rfl

theorem State.slotClosed_of_active {s : State} (h : s.bun.active = true) : s.slotClosed = s := if_pos h

/-- The closing checks read what the bundle has named and reached, and not the row that it drains. -/
theorem State.slotEnd_of_bun {u v y : State} {d : Option (Nat × RqRow)} (hbun : v.bun = { u.bun with drain := d })
    (hend : u.slotEnd = .ok y) : v.slotEnd = .ok v.slotClosed := by
  unfold State.slotEnd at hend ⊢
  simp only [hbun]
  split at hend
  · cases hend
  · rename_i hstreams
    split at hend
    · cases hend
    · rename_i hports
      rw [if_neg hstreams, if_neg hports, State.slotClosed, hbun]

/-- An access changes only the ports that the bundle has used. -/
theorem State.access_ok {s u : State} {as : List Nat} (h : s.access as = .ok u) :
    u = { s with bun := { s.bun with ports := s.bun.ports ++ portsOf as } } := by
  simp only [State.access] at h
  split at h
  · cases h
  · exact (Except.ok.inj h).symm

theorem State.access_t {s u : State} {as : List Nat} (h : s.access as = .ok u) : u.t = s.t := by
  rw [State.access_ok h]
  rfl

theorem State.access_active {s u : State} {as : List Nat} (h : s.access as = .ok u) : u.bun.active = s.bun.active := by
  rw [State.access_ok h]

/-! ### Whole MX slots (R257) -/

/-- A check of decoding that holds. -/
theorem orFault_of {b : Bool} {c : Byte} (h : b = true) : orFault b c = .ok () := if_pos h

@[simp] theorem State.liveCodes_nil (s : State) : s.liveCodes [] = .ok () := rfl

/-- A register name that is live can be decoded. -/
theorem State.liveCodes_of_live {s : State} {d : VCode} (h : liveName s.t.ctl.depth d.toNat = true) : s.liveCodes [d] = .ok () := by
  simp [State.liveCodes, h]

/-- A slot whose decoding refuses it faults whatever its guard. -/
theorem mxSlot_refused (g : OptGuard) (c : Byte) (cs : List VCode) (s : State) (k : State → Except Byte State) :
    mxSlot g (.error c) cs s k = .next (s.raise c) := rfl

section
variable {s : State} {g : OptGuard} {on : Nat → Bool} (hguard : s.guard g = .ok on) (hon : on 0 = true)
  {chk : Except Byte Unit} (hchk : chk = .ok ()) {cs : List VCode} (hlive : s.liveCodes cs = .ok ()) {k : State → Except Byte State}
include hguard hon hchk hlive

/-- A slot that decodes and whose guard holds does its operation and then closes. -/
theorem mxSlot_performed : mxSlot g chk cs s k = .next (s.slot (k s)) := by
  simp only [mxSlot, State.wholeChk, hchk, hlive, hguard, bind, Except.bind, hon, if_true]

theorem mxSlot_next {u v y : State} {d : Option (Nat × RqRow)} (hk : k s = .ok v) (hbun : v.bun = { u.bun with drain := d })
    (hend : u.slotEnd = .ok y) : mxSlot g chk cs s k = .next v.slotClosed := by
  rw [mxSlot_performed hguard hon hchk hlive, State.slot_ok hk (State.slotEnd_of_bun hbun hend)]

theorem mxSlot_raise {c : Byte} (hk : k s = .error c) : mxSlot g chk cs s k = .next (s.raise c) := by
  rw [mxSlot_performed hguard hon hchk hlive, State.slot_error hk]

end

/-! ### The bytes that a read returns -/

section
variable {γ : Type} (p : State → γ) (hp : ∀ s f, p (s.modHost f) = p s)
include hp

theorem State.ringZero_same (s : State) (region : BitVec 16) (c k : Byte) (ix : BitVec 16) (a b : Word) :
    p (s.ringZero region c k ix a b) = p s := foldl_same p _ _ (fun s _ _ => hp s _) s

theorem State.tileEvent_same (s : State) (c : Byte) (a b : Word) : p (s.tileEvent c a b) = p s := by
  unfold State.tileEvent
  split
  · rfl
  · dsimp only [State.regionEvent]
    split_ifs
    · exact State.ringZero_same p hp s _ _ _ _ _ _
    · exact (hp _ _).trans (State.ringZero_same p hp s _ _ _ _ _ _)
    · exact hp s _

/-- The events of frame rows concern the host's side alone. -/
theorem State.rowEvents_same (s : State) (rows : List Nat) : p (s.rowEvents rows) = p s :=
  foldl_same p _ _ (fun s _ _ => State.tileEvent_same p hp s _ _ _) s

end

/-- Of its tile a read changes the buffers alone, and there what the checks of R138 and R141 mend. -/
theorem State.readAt_t (s : State) (as : List Nat) : (s.readAt as).2.t = { s.t with buf := (s.t.buf.touch as).1 } := by
  simp only [State.readAt]
  rw [State.rowEvents_same State.t State.modHost_t, State.modBuf_t]

theorem State.readAt_bun (s : State) (as : List Nat) : (s.readAt as).2.bun = s.bun := by
  simp only [State.readAt]
  rw [State.rowEvents_same State.bun State.modHost_bun, State.modBuf_bun]

theorem State.readAt_length (s : State) (as : List Nat) : (s.readAt as).1.length = as.length := List.length_map _

theorem length_run (a n : Nat) : (run a n).length = n := by simp [run, length_upto]

/-- R5: byte i of a little-endian value. -/
theorem ofBytes_digit (l : Bytes) (i : Nat) : ofBytes l / 2 ^ (8 * i) % 256 = (l.getD i 0).toNat := by
  induction l generalizing i with
  | nil => simp [ofBytes]
  | cons b l ih =>
    have hb := b.isLt
    cases i with
    | zero =>
      simp only [ofBytes, Nat.mul_zero, Nat.pow_zero, List.getD_cons_zero]
      omega
    | succ i =>
      have hpow : 2 ^ (8 * (i + 1)) = 256 * 2 ^ (8 * i) := by rw [Nat.mul_succ, Nat.pow_add, Nat.mul_comm]
      have hdiv : (b.toNat + 256 * ofBytes l) / 256 = ofBytes l := by omega
      rw [ofBytes, hpow, ← Nat.div_div_eq_div_mul, hdiv, ih, List.getD_cons_succ]

/-- Byte i of the bits made of the bytes that a read returns. -/
theorem bits_valueOf {n i : Nat} (l : List (Byte × Bool)) (hi : i < l.length) (hn : 8 * i + 8 ≤ n) :
    some (bits (8 * i) 8 (BitVec.ofNat n (valueOf l))) = (l[i]?).map Prod.fst := by
  have hbyte : (bits (8 * i) 8 (BitVec.ofNat n (valueOf l))) = l[i].1 := by
    apply BitVec.eq_of_toNat_eq
    have hdigit := ofBytes_digit (l.map fun x => x.1) i
    simp only [List.getD_eq_getElem?_getD, List.getElem?_map, List.getElem?_eq_getElem hi, Option.map_some, Option.getD_some] at hdigit
    rw [← hdigit]
    have hsplit : n = 8 * i + (n - 8 * i) := by omega
    have hdvd : (256 : Nat) ∣ 2 ^ (n - 8 * i) := Nat.pow_dvd_pow 2 (show 8 ≤ n - 8 * i by omega)
    have hmod : valueOf l % 2 ^ n / 2 ^ (8 * i) = valueOf l / 2 ^ (8 * i) % 2 ^ (n - 8 * i) := by
      conv_lhs => rw [hsplit, Nat.pow_add, Nat.mod_mul_right_div_self]
    simp only [bits, BitVec.extractLsb'_toNat, BitVec.toNat_ofNat, Nat.shiftRight_eq_div_pow, hmod]
    exact Nat.mod_mod_of_dvd _ hdvd
  rw [hbyte, List.getElem?_eq_getElem hi, Option.map_some]

/-! ### The bytes of a frame row -/

/-- Reading after a run of keys is written in a loop. -/
theorem get_loopN_set (f : Nat → Byte) (a n j : Nat) (m : Memory) :
    SMap.get 0 (loopN (fun i m => SMap.set 0 m (a + i) (f i)) n m) j = if a ≤ j ∧ j < a + n then f (j - a) else SMap.get 0 m j := by
  induction n with
  | zero => rw [if_neg (by omega)]; rfl
  | succ n ih =>
    rw [loopN, SMap.get_set, ih]
    by_cases hlast : j = a + n
    · rw [if_pos hlast, if_pos (by omega), hlast, Nat.add_sub_cancel_left]
    · rw [if_neg hlast]
      exact if_congr (by omega) rfl rfl

theorem Buf.poke32_byte (b : Buf) (a x : Nat) (v : BitVec 32) :
    (b.poke32 a v).byte x = if a ≤ x ∧ x < a + 4 then bits (8 * (x - a)) 8 v else b.byte x :=
  get_loopN_set (fun i => bits (8 * i) 8 v) a 4 x b.mem

theorem bits_bits {n lo w lo' w' : Nat} (x : BitVec n) (h : lo' + w' ≤ w) : bits lo' w' (bits lo w x) = bits (lo + lo') w' x := by
  ext i hi
  have hin : lo' + i < w := by omega
  simp [bits, hin, Nat.add_assoc]

/-- Words stored one after the other. -/
theorem Buf.pokes_byte {w : Nat} (b : Buf) (a n x : Nat) (v : BitVec w) :
    ((upto n).foldl (fun b k => b.poke32 (a + 4 * k) (bits (32 * k) 32 v)) b).byte x =
      if a ≤ x ∧ x < a + 4 * n then bits (8 * (x - a)) 8 v else b.byte x := by
  induction n with
  | zero => rw [if_neg (by omega)]; rfl
  | succ n ih =>
    have hsucc : upto (n + 1) = upto n ++ [n] := List.range_succ
    rw [hsucc, List.foldl_append, List.foldl_cons, List.foldl_nil, Buf.poke32_byte, ih]
    by_cases hlast : a + 4 * n ≤ x ∧ x < a + 4 * n + 4
    · have hword : 32 * n + 8 * (x - (a + 4 * n)) = 8 * (x - a) := by omega
      rw [if_pos hlast, if_pos (by omega), bits_bits v (by omega), hword]
    · rw [if_neg hlast]
      exact if_congr (by omega) rfl rfl

@[simp] theorem Buf.setRow_byte (b : Buf) (r a : Nat) (x : FrameRow) : (b.setRow r x).byte a = b.byte a := rfl

/-- The bytes of C after a frame row is stored. -/
theorem Buf.storeRow_byte (b : Buf) (r x : Nat) (v : BitVec 2048) (p : Bool) (c : BitVec 64) :
    (b.storeRow r v p c).byte x =
      if 0x300000 + 256 * r ≤ x ∧ x < 0x300000 + 256 * r + 256 then bits (8 * (x - (0x300000 + 256 * r))) 8 v else b.byte x := by
  rw [Buf.storeRow, Buf.setRow_byte]
  exact Buf.pokes_byte b (0x300000 + 256 * r) 64 x v

@[simp] theorem bits_zero (n lo w : Nat) : bits lo w (0 : BitVec n) = 0 := by
  ext i hi
  simp [bits]

/-- R263: the bytes of the rows that are cleared are zero, and every other byte stays. -/
theorem Buf.zeroRows_byte (b : Buf) (rs : List Nat) (x : Nat) :
    (b.zeroRows rs).byte x = if ∃ r ∈ rs, 0x300000 + 256 * r ≤ x ∧ x < 0x300000 + 256 * r + 256 then 0 else b.byte x := by
  induction rs generalizing b with
  | nil => simp [Buf.zeroRows]
  | cons r rs ih =>
    have hcons : b.zeroRows (r :: rs) = ((b.storeRow r 0 false 0).setRow r FrameRow.zero).zeroRows rs := by
      simp only [Buf.zeroRows, List.foldl_cons]
    rw [hcons, ih, Buf.setRow_byte, Buf.storeRow_byte, bits_zero]
    simp only [List.mem_cons, exists_eq_or_imp]
    by_cases hrest : ∃ r ∈ rs, 0x300000 + 256 * r ≤ x ∧ x < 0x300000 + 256 * r + 256
    · rw [if_pos hrest, if_pos (.inr hrest)]
    · rw [if_neg hrest]
      exact if_congr (by simp only [hrest, or_false]) rfl rfl

theorem Buf.zeroRows_row_byte (b : Buf) (r x : Nat) :
    (b.zeroRows [r]).byte x = if 0x300000 + 256 * r ≤ x ∧ x < 0x300000 + 256 * r + 256 then 0 else b.byte x := by
  simp only [Buf.zeroRows_byte, List.mem_singleton, exists_eq_left]

/-- A frame is 64 rows, which stand one behind the other. -/
theorem Buf.zeroRows_frame_byte (b : Buf) (f x : Nat) :
    (b.zeroRows ((upto 64).map fun i => 64 * f + i)).byte x =
      if 0x300000 + 256 * (64 * f) ≤ x ∧ x < 0x300000 + 256 * (64 * f) + 16384 then 0 else b.byte x := by
  rw [Buf.zeroRows_byte]
  refine if_congr ?_ rfl rfl
  simp only [List.mem_map, mem_upto]
  constructor
  · rintro ⟨r, ⟨i, hi, rfl⟩, hlow, hhigh⟩
    omega
  · intro h
    exact ⟨64 * f + (x - (0x300000 + 256 * (64 * f))) / 256, ⟨_, by omega, rfl⟩, by omega, by omega⟩

/-! ### Lane writes of a slot -/

/-- A live register is written by one write in flight; writes that are in flight already may give way to it (R216). -/
theorem State.writeReg_of_live {s : State} {k : Nat} (lat : Nat) (o : VOut) (marks : BitVec 4) (h : liveName s.t.ctl.depth k = true) :
    ∃ ws c, s.writeReg k lat o marks = .ok ((s.modLane fun l => { l with pending := ws }).queueWrite lat
      (.vec (physV s.t.ctl.rb k) o.mask o.data (marks &&& groupsHit o.mask) c)) := by
  unfold State.writeReg
  rw [if_neg (by simp [h])]
  exact ⟨_, _, rfl⟩

@[simp] theorem State.clearMxsr_lane (s : State) (v : Word) : (s.clearMxsr v).t.lane = s.t.lane := by simp [State.clearMxsr]

/-! ### Result queues (R266, R267) -/

theorem Mx.queue_pushRow (m : Mx) (q : Nat) (x : RqRow) : (m.pushRow q x).queue q = m.queue q ++ [x] := SMap.get_set_self _ _ _ _

/-- The row of a result queue that bytes read make (R262). -/
def RqRow.ofRead (bs : List (Byte × Bool)) : RqRow := { data := BitVec.ofNat 2048 (valueOf bs), marks := if anyPoison bs then 0xFF else 0 }

/-- A drain takes row r of a frame: the read of the shared port, the drain counter, and the clearing of MDRAINZ (R262). -/
def State.takeRow (u : State) (fr : BitVec 2) (au : Bool) (r : BitVec 6) (zero : Bool) : State :=
  let s := (u.readAt (rowAddrs fr r)).2
  let s := if au then s.modMx fun m => { m with drow := r + 1 } else s
  if zero then s.modBuf fun b => b.zeroRows [64 * fr.toNat + r.toNat] else s

/-- A drained row goes to its queue when the bundle ends, or at once where no bundle is at issue (R262). -/
def State.enqueueRow (s : State) (q : Nat) (x : RqRow) : State :=
  if s.bun.active then { s with bun := { s.bun with drain := some (q, x) } } else s.modMx fun m => m.pushRow q x

theorem State.takeRow_bun (u : State) (fr : BitVec 2) (au : Bool) (r : BitVec 6) (zero : Bool) :
    (u.takeRow fr au r zero).bun = u.bun := by
  unfold State.takeRow
  cases au <;> cases zero <;> simp [State.readAt_bun]

/-- In the array a drain advances its counter alone. -/
theorem State.takeRow_mx (u : State) (fr : BitVec 2) (au : Bool) (r : BitVec 6) (zero : Bool) :
    (u.takeRow fr au r zero).t.mx = { u.t.mx with drow := if au then r + 1 else u.t.mx.drow } := by
  cases au <;> cases zero <;> simp [State.takeRow, State.readAt_t]

theorem State.takeRow_buf (u : State) (fr : BitVec 2) (au : Bool) (r : BitVec 6) (zero : Bool) :
    (u.takeRow fr au r zero).t.buf =
      if zero then (u.readAt (rowAddrs fr r)).2.t.buf.zeroRows [64 * fr.toNat + r.toNat] else (u.readAt (rowAddrs fr r)).2.t.buf := by
  cases au <;> cases zero <;> simp [State.takeRow]

section
variable (s : State) (q : Nat) (x : RqRow)

theorem State.enqueueRow_bun : (s.enqueueRow q x).bun = { s.bun with drain := if s.bun.active then some (q, x) else s.bun.drain } := by
  unfold State.enqueueRow
  split <;> rfl

theorem State.enqueueRow_active : (s.enqueueRow q x).bun.active = s.bun.active := by rw [State.enqueueRow_bun]

@[simp] theorem State.enqueueRow_buf : (s.enqueueRow q x).t.buf = s.t.buf := by
  unfold State.enqueueRow
  split
  · rfl
  · rw [State.modMx_t]

@[simp] theorem State.enqueueRow_drow : (s.enqueueRow q x).t.mx.drow = s.t.mx.drow := by
  unfold State.enqueueRow
  split
  · rfl
  · rw [State.modMx_t]; rfl

variable {s}

theorem State.enqueueRow_of_active (h : s.bun.active = true) :
    s.enqueueRow q x = { s with bun := { s.bun with drain := some (q, x) } } := if_pos h

theorem State.enqueueRow_of_alone (h : s.bun.active = false) : s.enqueueRow q x = s.modMx fun m => m.pushRow q x :=
  if_neg (by simp [h])

end

/-! ### The instructions that control the array -/

theorem exec_mflip (g : OptGuard) (s : State) : exec (.mflip g) s = execMflip g s := rfl

theorem exec_mdrain (g : OptGuard) (q fr : BitVec 2) (au : Bool) (row : BitVec 6) (s : State) :
    exec (.mdrain g q fr au row) s = drain g q fr au row false s := rfl

theorem exec_mdrainz (g : OptGuard) (q fr : BitVec 2) (au : Bool) (row : BitVec 6) (s : State) :
    exec (.mdrainz g q fr au row) s = drain g q fr au row true s := rfl

theorem exec_mzero (g : OptGuard) (fr : BitVec 2) (al : Bool) (row : BitVec 6) (s : State) :
    exec (.mzero g fr al row) s = execMzero g fr al row s := rfl

theorem exec_mchk (g : OptGuard) (d : VCode) (clr : Bool) (s : State) : exec (.mchk g d clr) s = execMchk g d clr s := rfl

theorem exec_mcfg (g : OptGuard) (af bf : Fmt) (spm : BitVec 2) (sat rst : Bool) (s : State) :
    exec (.mcfg g af bf spm sat rst) s = execMcfg g af bf spm sat rst s := rfl

/-- R262, R263: a ROW that the instruction does not use has to be zero. -/
theorem orFault_unusedRow {au : Bool} {row : BitVec 6} (h : au = true → row = 0) : orFault (!au || row == 0) 0x22 = .ok () := by
  refine orFault_of ?_
  cases au
  · rfl
  · simp [h rfl]

/-- The array after MFLIP (R261, R270). -/
def Mx.flip (m : Mx) : Mx :=
  Mx.mirror
    { m with
      active := !m.active, latched := none, rows := m.rows.map fun x => { x with sinceFlip := false }
      sr := { m.sr with ck := m.sr.ck + 1 } }

/-- R261: the rows in flight at a flip are now from before it, and are otherwise as they were. -/
theorem Mx.flip_rows (m : Mx) :
    (∀ x ∈ m.flip.rows, x.sinceFlip = false) ∧
    (m.flip.rows.map fun x => { x with sinceFlip := true }) = m.rows.map fun x => { x with sinceFlip := true } := by
  have hrows : m.flip.rows = m.rows.map fun x => { x with sinceFlip := false } := rfl
  rw [hrows]
  refine ⟨fun x hx => ?_, List.map_map⟩
  obtain ⟨y, -, rfl⟩ := List.mem_map.1 hx
  rfl

/-- The array after MCFG (R265). -/
def Mx.configured (m : Mx) (af bf : Fmt) (spm : BitVec 2) (sat rst : Bool) : Mx :=
  { m with
    af := af, bf := bf, spm := spm, sat := sat, cells := [], scales := [], pmarks := [], smarks := [], desc := [], spare := []
    srow := if rst then 0 else m.srow, mrow := if rst then 0 else m.mrow, drow := if rst then 0 else m.drow }

/-- R265: every cell word and every scale byte of both planes is then zero. -/
theorem Mx.configured_planes (m : Mx) (af bf : Fmt) (spm : BitVec 2) (sat rst p : Bool) (l n : Nat) :
    (m.configured af bf spm sat rst).cell p l n = 0 ∧ (m.configured af bf spm sat rst).scale p l n = 0 := ⟨rfl, rfl⟩

section
variable {s : State} {g : OptGuard} {on : Nat → Bool} (hguard : s.guard g = .ok on) (hon : on 0 = true)
include hguard hon

/-- R261: MFLIP flips the array and touches nothing else of its tile. -/
theorem execMflip_next {z : State} (hend : s.slotEnd = .ok z) : execMflip g s = .next (s.modMx Mx.flip).slotClosed :=
  mxSlot_next hguard hon rfl s.liveCodes_nil rfl (State.modMx_bun s _) hend

/-- R262: the state after a drain whose queue has room and whose access stands. -/
theorem drain_next {q fr : BitVec 2} {au : Bool} {row : BitVec 6} {u y : State} (zero : Bool) (hrow : au = true → row = 0)
    (hroom : s.rowsAfter q.toNat < 8) (hacc : s.access (rowAddrs fr (if au then s.t.mx.drow else row)) = .ok u)
    (hend : u.slotEnd = .ok y) :
    let r := if au then s.t.mx.drow else row
    drain g q fr au row zero s =
      .next ((u.takeRow fr au r zero).enqueueRow q.toNat (RqRow.ofRead (u.readAt (rowAddrs fr r)).1)).slotClosed := by
  intro r
  have hbun := State.enqueueRow_bun (u.takeRow fr au r zero) q.toNat (RqRow.ofRead (u.readAt (rowAddrs fr r)).1)
  rw [State.takeRow_bun] at hbun
  refine mxSlot_next hguard hon (orFault_unusedRow hrow) s.liveCodes_nil ?_ hbun hend
  rw [if_neg (by omega)]
  simp only [hacc, bind, Except.bind]
  rfl

/-- R262: what a drain puts into its queue, and what it does to the frame row and to the drain counter. -/
theorem drain_moves_row {q fr : BitVec 2} {au : Bool} {row : BitVec 6} {u y : State} (zero : Bool) (hrow : au = true → row = 0)
    (hroom : s.rowsAfter q.toNat < 8) (hacc : s.access (rowAddrs fr (if au then s.t.mx.drow else row)) = .ok u)
    (hend : u.slotEnd = .ok y) :
    let r := if au then s.t.mx.drow else row
    ∃ t x, drain g q fr au row zero s = .next t ∧
      (s.bun.active = true → t.bun.drain = some (q.toNat, x) ∧ t.t.mx.rq = s.t.mx.rq) ∧
      (s.bun.active = false → t.t.mx.queue q.toNat = s.t.mx.queue q.toNat ++ [x]) ∧
      (∀ i, i < 256 → some (bits (8 * i) 8 x.data) = ((u.readAt (rowAddrs fr r)).1[i]?).map Prod.fst) ∧
      (zero = true → ∀ i, i < 256 → t.t.buf.byte (frameAddr fr r + i) = 0) ∧
      (zero = false → t.t.buf = (u.readAt (rowAddrs fr r)).2.t.buf) ∧ t.t.mx.drow = if au then r + 1 else s.t.mx.drow := by
  intro r
  have hmx := u.takeRow_mx fr au r zero
  rw [State.access_t hacc] at hmx
  have hactive : (u.takeRow fr au r zero).bun.active = s.bun.active := by rw [State.takeRow_bun, State.access_active hacc]
  refine ⟨_, RqRow.ofRead (u.readAt (rowAddrs fr r)).1, drain_next hguard hon zero hrow hroom hacc hend, ?_, ?_, ?_, ?_, ?_, ?_⟩
  · intro hbundle
    rw [hbundle] at hactive
    rw [State.slotClosed_of_active ((State.enqueueRow_active _ _ _).trans hactive), State.enqueueRow_of_active _ _ hactive]
    exact ⟨rfl, (congrArg Mx.rq hmx :)⟩
  · intro halone
    rw [halone] at hactive
    rw [State.slotClosed_t, State.enqueueRow_of_alone _ _ hactive, State.modMx_t, Mx.queue_pushRow, hmx]
    rfl
  · intro i hi
    exact bits_valueOf _ (by rw [State.readAt_length, rowAddrs, length_run]; exact hi) (by omega)
  · rintro rfl i hi
    rw [State.slotClosed_t, State.enqueueRow_buf, State.takeRow_buf]
    exact (Buf.zeroRows_row_byte _ _ _).trans (if_pos ⟨Nat.le_add_right _ _, Nat.add_lt_add_left hi _⟩)
  · rintro rfl
    rw [State.slotClosed_t, State.enqueueRow_buf, State.takeRow_buf]
    rfl
  · rw [State.slotClosed_t, State.enqueueRow_drow, hmx]

/-- R267: a queue that stays full is fault 0x25. -/
theorem drain_full {q fr : BitVec 2} {au : Bool} {row : BitVec 6} (zero : Bool) (hrow : au = true → row = 0)
    (hfull : 8 ≤ s.rowsAfter q.toNat) : drain g q fr au row zero s = .next (s.raise 0x25) :=
  mxSlot_raise hguard hon (orFault_unusedRow hrow) s.liveCodes_nil (if_pos hfull)

/-- R263: MZERO clears a row, or every row of its frame. -/
theorem execMzero_next {fr : BitVec 2} {al : Bool} {row : BitVec 6} {u y : State} (hrow : al = true → row = 0)
    (hacc : s.access [frameAddr fr row] = .ok u) (hend : u.slotEnd = .ok y) :
    execMzero g fr al row s = .next (u.modBuf fun b => b.zeroRows
      (if al then (upto 64).map fun i => 64 * fr.toNat + i else [64 * fr.toNat + row.toNat])).slotClosed := by
  refine mxSlot_next hguard hon (orFault_unusedRow hrow) s.liveCodes_nil (u := u) ?_ (State.modBuf_bun u _) hend
  simp only [hacc, bind, Except.bind]
  rfl

/-- R264: MCHK queues the array's two status words for a live register, and without CLR leaves the array. -/
theorem execMchk_next {d : VCode} {z : State} (clr : Bool) (hreg : d.toNat < 96) (hlive : liveName s.t.ctl.depth d.toNat = true)
    (hend : s.slotEnd = .ok z) :
    ∃ t ws c, execMchk g d clr s = .next t ∧
      t.t.lane.pending = ws ++ [⟨s.cycle + 1, s.cycle, .vec (physV s.t.ctl.rb d.toNat) (BitVec.allOnes 1024)
        ((s.t.mx.cfgWord ++ s.t.mx.sr.word : BitVec 128).setWidth 1024) 0 c⟩] ∧
      (clr = false → t.t.mx = s.t.mx) := by
  obtain ⟨ws, c, hwrite⟩ := State.writeReg_of_live 1
    { data := (s.t.mx.cfgWord ++ s.t.mx.sr.word : BitVec 128).setWidth 1024, mask := BitVec.allOnes 1024, flags := 0 } 0 hlive
  have hclean : (0 : BitVec 4) &&& groupsHit (BitVec.allOnes 1024) = 0 := BitVec.zero_and
  rw [hclean] at hwrite
  refine ⟨_, ws, c, mxSlot_next hguard hon (orFault_of (decide_eq_true hreg)) (State.liveCodes_of_live hlive) (d := s.bun.drain)
    (by simp only [hwrite, bind, Except.bind]; rfl) (by cases clr <;> rfl) hend, ?_, ?_⟩
  · rw [State.slotClosed_t]
    cases clr <;> simp
  · rintro rfl
    simp [State.queueWrite]

/-- R265: MCFG while a row is in flight is fault 0x27. -/
theorem execMcfg_inFlight {af bf : Fmt} (spm : BitVec 2) (sat rst : Bool) (hpair : mxPair af bf = true) (hrows : s.t.mx.rows ≠ []) :
    execMcfg g af bf spm sat rst s = .next (s.raise 0x27) :=
  mxSlot_raise hguard hon (orFault_of hpair) s.liveCodes_nil (if_pos (by simpa using hrows))

/-- R265: MCFG with no row in flight configures the array and touches nothing else of its tile. -/
theorem execMcfg_next {af bf : Fmt} {z : State} (spm : BitVec 2) (sat rst : Bool) (hpair : mxPair af bf = true)
    (hrows : s.t.mx.rows = []) (hend : s.slotEnd = .ok z) :
    execMcfg g af bf spm sat rst s = .next (s.modMx fun m => m.configured af bf spm sat rst).slotClosed :=
  mxSlot_next hguard hon (orFault_of hpair) s.liveCodes_nil (if_neg (by simp [hrows])) (State.modMx_bun s _) hend

end

/-- R241: a pair of formats that the array does not take is fault 0x21. -/
theorem execMcfg_badPair (g : OptGuard) {af bf : Fmt} (spm : BitVec 2) (sat rst : Bool) (s : State) (hpair : mxPair af bf = false) :
    execMcfg g af bf spm sat rst s = .next (s.raise 0x21) := by
  unfold execMcfg
  rw [hpair]
  exact mxSlot_refused g _ _ s _

/-- R263: the bytes that MZERO clears are those of one row, or the 16 KiB of its frame. -/
theorem Buf.mzero_byte (b : Buf) {fr : BitVec 2} {al : Bool} {row : BitVec 6} (hrow : al = true → row = 0) (x : Nat) :
    (b.zeroRows (if al then (upto 64).map fun i => 64 * fr.toNat + i else [64 * fr.toNat + row.toNat])).byte x =
      if 0x300000 + 256 * (64 * fr.toNat + row.toNat) ≤ x ∧
        x < 0x300000 + 256 * (64 * fr.toNat + row.toNat) + (if al then 16384 else 256) then 0 else b.byte x := by
  cases al
  · exact b.zeroRows_row_byte _ x
  · rw [hrow rfl]
    exact b.zeroRows_frame_byte _ x

/-- Settles O39: each instruction of the array is a whole MX slot (R257), and ends in the state that its operation makes. -/
theorem matrixControl : Obligations.MatrixControl := by
  intro s g d q fr spm row au al clr sat rst af bf on z hguard hon hend m
  refine ⟨?flip, ?drain, ?full, ?zero, ?check, ?badPair, ?inFlight, ?configure⟩
  case flip =>
    obtain ⟨hold, hrows⟩ := Mx.flip_rows m
    refine ⟨_, (exec_mflip g s).trans (execMflip_next hguard hon hend), ?_⟩
    rw [State.slotClosed_t, State.modMx_t]
    exact ⟨rfl, rfl, rfl, rfl, rfl, hold, hrows, rfl, rfl, rfl⟩
  case drain =>
    intro r a hrow hroom u y hacc huend k hk
    have hmoves (zero : Bool) := drain_moves_row hguard hon zero hrow hroom hacc huend
    simp only [List.mem_cons, List.not_mem_nil, or_false] at hk
    rcases hk with rfl | rfl
    · exact hmoves false
    · exact hmoves true
  case full =>
    intro hfull hrow
    exact ⟨(exec_mdrain g q fr au row s).trans (drain_full hguard hon false hrow hfull),
      (exec_mdrainz g q fr au row s).trans (drain_full hguard hon true hrow hfull)⟩
  case zero =>
    intro hrow u y hacc huend
    refine ⟨_, (exec_mzero g fr al row s).trans (execMzero_next hguard hon hrow hacc huend), ?_⟩
    rw [State.slotClosed_t, State.modBuf_t, State.access_t hacc]
    exact ⟨rfl, rfl, s.t.buf.mzero_byte hrow⟩
  case check =>
    intro hreg hdepth
    obtain ⟨t, ws, c, hnext, hpending, hkeeps⟩ := execMchk_next hguard hon clr hreg (decide_eq_true hdepth) hend
    refine ⟨t, c, (exec_mchk g d clr s).trans hnext, ?_, hkeeps⟩
    rw [Say.waiting, hpending]
    exact List.mem_append_right ws (List.mem_singleton_self _)
  case badPair => exact fun hpair => (exec_mcfg g af bf spm sat rst s).trans (execMcfg_badPair g spm sat rst s hpair)
  case inFlight =>
    exact fun hpair hrows => (exec_mcfg g af bf spm sat rst s).trans (execMcfg_inFlight hguard hon spm sat rst hpair hrows)
  case configure =>
    intro hpair hrows
    refine ⟨_, (exec_mcfg g af bf spm sat rst s).trans (execMcfg_next hguard hon spm sat rst hpair hrows hend), ?_⟩
    rw [State.slotClosed_t, State.modMx_t]
    refine ⟨rfl, rfl, rfl, rfl, m.configured_planes af bf spm sat rst, rfl, hrows, rfl, ?_, ?_, rfl, rfl⟩
    · rintro rfl
      exact ⟨rfl, rfl, rfl⟩
    · rintro rfl
      exact ⟨rfl, rfl, rfl⟩

end Sys2Proof.Machine
end

section
/-!
The results of the scalar arithmetic (13_control_slice.md R360). Each operation of the model on words is first shown to be the word of the
integer that the spec names, or to have the bits that it names; an instruction whose sources can be read then writes that word to xD.
-/

namespace Sys2Proof.Machine

open Sys2Proof

/-! ### Results as integers (R360) -/

section
variable (a b : Word)

theorem word_add : a + b = BitVec.ofInt 64 (a.toNat + b.toNat) := by
  rw [BitVec.ofInt_add, word_ofInt_toNat, word_ofInt_toNat]

theorem word_sub : a - b = BitVec.ofInt 64 (a.toNat - b.toNat) := by
  rw [word_ofInt_sub, word_ofInt_toNat, word_ofInt_toNat]

theorem word_mul : a * b = BitVec.ofInt 64 (a.toNat * b.toNat) := by
  rw [BitVec.ofInt_mul, word_ofInt_toNat, word_ofInt_toNat]

theorem word_add_sext64 (imm : BitVec 14) : a + sext64 imm = BitVec.ofInt 64 (a.toNat + imm.toInt) := by
  rw [BitVec.ofInt_add, word_ofInt_toNat, sext64_ofInt]

theorem word_add_sixteen_mul : a + 16 * b = BitVec.ofInt 64 (a.toNat + 16 * b.toNat) := by
  rw [BitVec.ofInt_add, BitVec.ofInt_mul, word_ofInt_toNat, word_ofInt_toNat]
  rfl

theorem word_mulh : BitVec.ofInt 64 ((a.toInt * b.toInt).fdiv (2 ^ 64)) = BitVec.ofInt 64 (a.toInt * b.toInt / 2 ^ 64) := by
  rw [Int.fdiv_eq_ediv_of_nonneg _ (by positivity)]

theorem word_mulhu : BitVec.ofNat 64 (a.toNat * b.toNat / 2 ^ 64) = BitVec.ofInt 64 (a.toNat * b.toNat / 2 ^ 64) := by
  rw [← BitVec.ofInt_natCast]
  push_cast
  rfl

theorem sdiv_ofInt : sdiv a b = BitVec.ofInt 64 (if b = 0 then -1 else a.toInt.tdiv b.toInt) := by
  unfold sdiv
  simp only [beq_iff_eq]
  split
  · rfl
  · rfl

theorem udiv_ofInt : udiv a b = BitVec.ofInt 64 (if b = 0 then 2 ^ 64 - 1 else (a.toNat / b.toNat : Nat)) := by
  unfold udiv
  simp only [beq_iff_eq]
  split
  · rfl
  · exact (BitVec.ofInt_natCast 64 _).symm

theorem srem_ofInt : srem a b = BitVec.ofInt 64 (if b = 0 then a.toInt else a.toInt - b.toInt * a.toInt.tdiv b.toInt) := by
  unfold srem
  simp only [beq_iff_eq]
  split
  · exact BitVec.ofInt_toInt.symm
  · rw [Int.tmod_def]

theorem urem_ofInt : urem a b = BitVec.ofInt 64 (if b = 0 then (a.toNat : Int) else (a.toNat % b.toNat : Nat)) := by
  unfold urem
  simp only [beq_iff_eq]
  split
  · exact (word_ofInt_toNat a).symm
  · exact (BitVec.ofInt_natCast 64 _).symm

/-- -2^63 by -1: the one quotient beyond the range of a word, taken modulo 2^64. -/
theorem sdiv_lowest_neg_one : sdiv 0x8000000000000000 0xFFFFFFFFFFFFFFFF = BitVec.ofInt 64 (-(2 ^ 63)) := rfl

theorem srem_lowest_neg_one : srem 0x8000000000000000 0xFFFFFFFFFFFFFFFF = BitVec.ofInt 64 0 := rfl

theorem word_min : (if a.toInt ≤ b.toInt then a else b) = BitVec.ofInt 64 (min a.toInt b.toInt) := by
  rw [min_def, apply_ite (BitVec.ofInt 64), BitVec.ofInt_toInt, BitVec.ofInt_toInt]

theorem word_max : (if a.toInt ≥ b.toInt then a else b) = BitVec.ofInt 64 (max a.toInt b.toInt) := by
  rw [max_comm, max_def, apply_ite (BitVec.ofInt 64), BitVec.ofInt_toInt, BitVec.ofInt_toInt]

theorem word_minu : (if a.toNat ≤ b.toNat then a else b) = BitVec.ofInt 64 (min a.toNat b.toNat : Nat) := by
  rw [min_def, Nat.cast_ite, apply_ite (BitVec.ofInt 64), word_ofInt_toNat, word_ofInt_toNat]

theorem word_maxu : (if a.toNat ≥ b.toNat then a else b) = BitVec.ofInt 64 (max a.toNat b.toNat : Nat) := by
  rw [max_comm, max_def, Nat.cast_ite, apply_ite (BitVec.ofInt 64), word_ofInt_toNat, word_ofInt_toNat]

theorem b2w_beq : b2w (a == b) = BitVec.ofInt 64 (if a = b then 1 else 0) := by
  rw [b2w_ofInt]
  simp only [beq_iff_eq]

theorem b2w_bne : b2w (a != b) = BitVec.ofInt 64 (if a = b then 0 else 1) := by
  rw [b2w_ofInt]
  simp only [bne_iff_ne, ne_eq, ite_not]

theorem b2w_decide (p : Prop) [Decidable p] : b2w (decide p) = BitVec.ofInt 64 (if p then 1 else 0) := by
  rw [b2w_ofInt]
  simp only [decide_eq_true_eq]

theorem word_shl (n : Nat) : a <<< n = BitVec.ofInt 64 (a.toNat * 2 ^ n : Nat) := by
  rw [BitVec.ofInt_natCast]
  apply BitVec.eq_of_toNat_eq
  rw [BitVec.toNat_shiftLeft, Nat.shiftLeft_eq, BitVec.toNat_ofNat]

theorem word_shr (n : Nat) : a >>> n = BitVec.ofInt 64 (a.toNat / 2 ^ n : Nat) := by
  rw [← Nat.shiftRight_eq_div_pow, ← BitVec.toNat_ushiftRight, word_ofInt_toNat]

theorem word_sra (n : Nat) : a.sshiftRight n = BitVec.ofInt 64 (a.toInt / 2 ^ n) := by
  rw [BitVec.sshiftRight, Int.shiftRight_eq_div_pow]
  push_cast
  rfl

end

theorem toNat_sext64 (imm : BitVec 14) : ((sext64 imm).toNat : Int) = imm.toInt % 2 ^ 64 := by
  rw [sext64_ofInt, BitVec.toNat_ofInt]
  exact Int.toNat_of_nonneg (Int.emod_nonneg _ (by decide))

theorem b2w_lt_sext64 (a : Word) (imm : BitVec 14) :
    b2w (decide (a.toNat < (sext64 imm).toNat)) = BitVec.ofInt 64 (if (a.toNat : Int) < imm.toInt % 2 ^ 64 then 1 else 0) := by
  rw [b2w_decide, ← toNat_sext64]
  simp only [Nat.cast_lt]

theorem getLsbD_sext64 (imm : BitVec 14) {k : Nat} (hk : k < 64) : (sext64 imm).getLsbD k = imm.getLsbD (min k 13) := by
  unfold sext64
  rw [BitVec.getLsbD_signExtend, decide_eq_true hk, Bool.true_and]
  split
  · rw [min_eq_left (by omega)]
  · rw [min_eq_right (by omega), BitVec.msb_eq_getLsbD_last]

/-! ### Counts of bits -/

theorem bitLen_le {n x : Nat} (h : x < 2 ^ n) : bitLen x ≤ n := by
  unfold bitLen
  split
  · omega
  · next hx => exact (Nat.log2_lt hx).mpr h

theorem lt_two_pow_bitLen (x : Nat) : x < 2 ^ bitLen x := by
  unfold bitLen
  split
  · omega
  · exact Nat.lt_log2_self

theorem two_pow_le_of_bitLen {x : Nat} (h : 0 < bitLen x) : 2 ^ (bitLen x - 1) ≤ x := by
  have hx : x ≠ 0 := by
    rintro rfl
    exact absurd h (by decide)
  rw [bitLen, if_neg hx]
  exact Nat.log2_self_le hx

theorem leading_clzN (a : Word) : Say.leading a (clzN 64 a.toNat) := by
  have hle : bitLen a.toNat ≤ 64 := bitLen_le a.isLt
  unfold Say.leading clzN
  refine ⟨Nat.sub_le _ _, ?below, ?top⟩
  case below =>
    rw [Nat.sub_sub_self hle]
    exact lt_two_pow_bitLen _
  case top =>
    intro hn
    rw [show 63 - (64 - bitLen a.toNat) = bitLen a.toNat - 1 by omega]
    exact two_pow_le_of_bitLen (by omega)

theorem ctzN_le (f x : Nat) : ctzN f x ≤ f := by
  induction f generalizing x with
  | zero => exact le_rfl
  | succ f ih =>
    rw [ctzN]
    have := ih (x / 2)
    split <;> omega

theorem testBit_of_lt_ctzN {f x k : Nat} (h : k < ctzN f x) : x.testBit k = false := by
  induction f generalizing x k with
  | zero => cases h
  | succ f ih =>
    rw [ctzN] at h
    split at h
    · cases h
    · next hodd =>
      cases k with
      | zero => simpa [Nat.testBit_zero] using hodd
      | succ k =>
        rw [Nat.testBit_succ]
        exact ih (by omega)

theorem testBit_ctzN {f x : Nat} (h : ctzN f x < f) : x.testBit (ctzN f x) = true := by
  induction f generalizing x with
  | zero => cases h
  | succ f ih =>
    rw [ctzN] at h ⊢
    split at h
    · next hodd => simp [hodd]
    · next hodd =>
      rw [if_neg hodd, Nat.add_comm, Nat.testBit_succ]
      exact ih (by omega)

theorem trailing_ctzN (a : Word) : Say.trailing a (ctzN 64 a.toNat) :=
  ⟨ctzN_le _ _, fun _ hk => testBit_of_lt_ctzN hk, fun hn => testBit_ctzN hn⟩

theorem popcN_eq_length_filter (f x : Nat) : popcN f x = ((List.range f).filter fun k => x.testBit k).length := by
  induction f generalizing x with
  | zero => rfl
  | succ f ih =>
    have hrest : (fun k => x.testBit k) ∘ Nat.succ = fun k => (x / 2).testBit k := funext fun k => Nat.testBit_succ x k
    rw [popcN, ih, List.range_succ_eq_map, List.filter_cons, List.filter_map, hrest, Nat.testBit_zero]
    rcases Nat.mod_two_eq_zero_or_one x with hx | hx
    · simp [hx]
    · simp [hx, Nat.add_comm]

theorem popcN_eq_ones (a : Word) : popcN 64 a.toNat = Say.ones a := popcN_eq_length_filter 64 a.toNat

/-! ### The instructions

`exec` of a scalar instruction is by definition `op1` or `op2` of its operation. -/

/-- A one-operand instruction writes the integer whose word its operation returns. -/
theorem op1_put {i : Instr} {xd xa : XReg} {f : Word → Word} {g : Word → Int} {s : State} {r : Int}
    (hf : ∀ a, f a = BitVec.ofInt 64 (g a)) (h : s.hazard [xa] = .none) (hexec : exec i s = op1 i xd xa f s)
    (hr : g (s.x xa) = r) : exec i s = .next (Say.put s xd r) := by
  rw [hexec, op1_next h, hf, hr, Say.put]

/-- A two-operand instruction writes the integer whose word its operation returns. -/
theorem op2_put {i : Instr} {xd xa xb : XReg} {f : Word → Word → Word} {g : Word → Word → Int} {s : State} {r : Int}
    (hf : ∀ a b, f a b = BitVec.ofInt 64 (g a b)) (h : s.hazard [xa, xb] = .none) (hexec : exec i s = op2 i xd xa xb f s)
    (hr : g (s.x xa) (s.x xb) = r) : exec i s = .next (Say.put s xd r) := by
  rw [hexec, op2_next h, hf, hr, Say.put]

theorem scalarSums : Say.scalarSums := by
  intro s xd xa xb imm x
  refine ⟨fun h => ?two, fun h => ?one, ?li, ?lix⟩
  case two =>
    exact ⟨op2_put word_add h rfl rfl, op2_put word_sub h rfl rfl, op2_put word_mul h rfl rfl, op2_put word_mulh h rfl rfl,
      op2_put word_mulhu h rfl rfl, op2_put word_add_sixteen_mul h rfl rfl⟩
  case one => exact ⟨op1_put (word_add_sext64 · imm) h rfl rfl, op1_put (word_add · x) h rfl rfl⟩
  case li =>
    rw [Say.put, ← sext64_ofInt]
    rfl
  case lix =>
    rw [Say.put, word_ofInt_toNat]
    rfl

theorem scalarDivision : Say.scalarDivision := by
  intro s xd xa xb h
  refine ⟨op2_put sdiv_ofInt h rfl rfl, op2_put udiv_ofInt h rfl rfl, op2_put srem_ofInt h rfl rfl, op2_put urem_ofInt h rfl rfl,
    fun ha hb => ⟨(op2_next (f := sdiv) h).trans ?div, (op2_next (f := srem) h).trans ?rem⟩⟩
  case div => rw [ha, hb, sdiv_lowest_neg_one, Say.put]
  case rem => rw [ha, hb, srem_lowest_neg_one, Say.put]

theorem scalarComparisons : Say.scalarComparisons := by
  intro s xd xa xb imm
  refine ⟨fun h => ?two, fun h => ?one⟩
  case two =>
    exact ⟨op2_put word_min h rfl rfl, op2_put word_max h rfl rfl, op2_put word_minu h rfl rfl, op2_put word_maxu h rfl rfl,
      op2_put b2w_beq h rfl rfl, op2_put b2w_bne h rfl rfl,
      op2_put (fun a b => b2w_decide (a.toInt < b.toInt)) h rfl rfl, op2_put (fun a b => b2w_decide (a.toNat < b.toNat)) h rfl rfl⟩
  case one =>
    exact ⟨op1_put (fun a => b2w_decide (a.toInt < imm.toInt)) h rfl rfl, op1_put (b2w_lt_sext64 · imm) h rfl rfl⟩

theorem scalarBitwise : Say.scalarBitwise := by
  intro s xd xa xb imm
  refine ⟨fun h => ⟨?and, ?or, ?xor⟩, fun h => ⟨?andi, ?ori, ?xori⟩⟩
  case and => exact ⟨_, op2_next (f := (· &&& ·)) h, fun _ => BitVec.getLsbD_and⟩
  case or => exact ⟨_, op2_next (f := (· ||| ·)) h, fun _ => BitVec.getLsbD_or⟩
  case xor => exact ⟨_, op2_next (f := (· ^^^ ·)) h, fun _ => BitVec.getLsbD_xor⟩
  case andi =>
    exact ⟨_, op1_next (f := (· &&& sext64 imm)) h, fun k hk => by rw [BitVec.getLsbD_and, getLsbD_sext64 imm hk]⟩
  case ori =>
    exact ⟨_, op1_next (f := (· ||| sext64 imm)) h, fun k hk => by rw [BitVec.getLsbD_or, getLsbD_sext64 imm hk]⟩
  case xori =>
    exact ⟨_, op1_next (f := (· ^^^ sext64 imm)) h, fun k hk => by rw [BitVec.getLsbD_xor, getLsbD_sext64 imm hk]⟩

theorem scalarShifts : Say.scalarShifts := by
  intro s xd xa xb k
  refine ⟨fun h => ?byRegister, fun h => ?byImmediate⟩
  case byRegister =>
    exact ⟨op2_put (fun a b => word_shl a (count6 b)) h rfl rfl, op2_put (fun a b => word_shr a (count6 b)) h rfl rfl,
      op2_put (fun a b => word_sra a (count6 b)) h rfl rfl⟩
  case byImmediate =>
    exact ⟨op1_put (word_shl · k.toNat) h rfl rfl, op1_put (word_shr · k.toNat) h rfl rfl, op1_put (word_sra · k.toNat) h rfl rfl⟩

theorem scalarCounts : Say.scalarCounts := by
  intro s xd xa h
  have hcount (n : Nat) : BitVec.ofNat 64 n = BitVec.ofInt 64 n := (BitVec.ofInt_natCast 64 n).symm
  exact ⟨⟨_, op1_put (fun a => hcount (clzN 64 a.toNat)) h rfl rfl, leading_clzN _⟩,
    ⟨_, op1_put (fun a => hcount (ctzN 64 a.toNat)) h rfl rfl, trailing_ctzN _⟩,
    op1_put (fun a => hcount (popcN 64 a.toNat)) h rfl (congrArg Nat.cast (popcN_eq_ones _))⟩

/-- Settles O1: the instructions by their kinds, each result the word of its integer or given by its bits. -/
theorem scalarOperations : Obligations.ScalarOperations :=
  ⟨scalarSums, scalarDivision, scalarComparisons, scalarBitwise, scalarShifts, scalarCounts⟩

end Sys2Proof.Machine
end
